-- ==== Sys2Proof/Word.lean ====
section
/-! DEFINITION. Word types of the module (00 R3, R4; 03 Table 3-1) and their plainest arithmetic. -/

namespace Sys2Proof

abbrev Byte := BitVec 8
abbrev Half := BitVec 16
abbrev W32 := BitVec 32
/-- A scalar register, a command word, a register of a register block (02 R57). -/
abbrev Word := BitVec 64
/-- A vector register or a 64-byte slot (03 Table 3-1, 09 R206). -/
abbrev Slot := BitVec 512
/-- A 4 KiB unit of flash or of a tile (12 R265, 10 R222): byte i is bits 8i to 8i + 7. -/
abbrev Unit4K := BitVec 32768

/-- Bits hi..lo of a word, as a number. -/
def bits {n : Nat} (w : BitVec n) (hi lo : Nat) : Nat := (w.toNat >>> lo) % 2 ^ (hi + 1 - lo)

/-- Bit i of a word. -/
def bit {n : Nat} (w : BitVec n) (i : Nat) : Bool := w.getLsbD i

end Sys2Proof
end

