-- ==== Sys2Proof/Syntax.lean ====
section
/-! DEFINITION. The commands of the module: one constructor of Instr for each row of spec/opcode_table.json, with the
row's operands. Ids that the spec bounds are Fin types (00 R2); fields of an instruction word are bit vectors. -/

namespace Sys2Proof

/-- A sliver core: cluster 0-31 and core 0-127 (00 R2). -/
structure CoreId where
  cl : Fin 32
  k  : Fin 128
deriving DecidableEq, Repr

/-- Host ports (00 R2). -/
inductive Port where
  | a | b
deriving DecidableEq, Repr

/-- An NVMe function: the physical function of a port, or tenant t's virtual function (16 R349). -/
inductive FnId where
  | pf (p : Port)
  | vf (t : Fin 1024)
deriving DecidableEq, Repr

/-- Who writes a register: the management processors, the owner through BAR2 of a port, or a sliver core's CSRW
(02 R57, 16 R374). -/
inductive Requester where
  | mgmt
  | bar2 (p : Port)
  | core (c : CoreId)
deriving DecidableEq, Repr

/-- Table 3-4, major 0x01. -/
inductive AluOp where
  | add | sub | and | or | xor | sll | srl | sra | ror | slt | sltu | min | max | minu | maxu | clz | ctz | popc
deriving DecidableEq, Repr

/-- Table 3-5, majors 0x02 to 0x07. -/
inductive ImmOp where
  | addi | andi | ori | xori | slti | sltiu
deriving DecidableEq, Repr

inductive MulOp where
  | mul | mulh | mulhu
deriving DecidableEq, Repr

inductive DivOp where
  | div | divu | rem | remu
deriving DecidableEq, Repr

/-- Table 3-6, LD. -/
inductive LdSize where
  | lb | lbu | lh | lhu | lw | lwu | ld
deriving DecidableEq, Repr

/-- Table 3-6, ST. -/
inductive StSize where
  | sb | sh | sw | sd
deriving DecidableEq, Repr

/-- Table 3-7. -/
inductive AmoOp where
  | swap | add | and | or | xor | min | max | minu | maxu | cas
deriving DecidableEq, Repr

/-- 03 R85. -/
inductive BrOp where
  | beq | bne | blt | bge | bltu | bgeu
deriving DecidableEq, Repr

/-- Element size of VINT, VCMP, VMOVS and VRED: 1, 2, 4 or 8 bytes (03, Vector instructions). -/
inductive ESz where
  | b1 | b2 | b4 | b8
deriving DecidableEq, Repr

/-- Predication of the VR format: P, pg and Z (Table 3-2, R70, R71). -/
structure Pred where
  p  : Bool
  pg : BitVec 3
  z  : Bool
deriving DecidableEq, Repr

/-- Table 3-11. -/
inductive VIntOp where
  | vadd | vsub | vmul | vand | vor | vxor | vsll | vsrl | vsra | vmin | vmax | vminu | vmaxu | vaddsat | vsubsat | vpopc
deriving DecidableEq, Repr

/-- Table 3-12. -/
inductive VFpOp where
  | vfadd | vfsub | vfmul | vfma | vfmin | vfmax | vfabs | vfneg
deriving DecidableEq, Repr

/-- Table 3-13. -/
inductive CvtOp where
  | f32bf16 | f32f16 | bf16f32 | f16f32 | f32i32 | i32f32
deriving DecidableEq, Repr

/-- 03 R93. -/
inductive CmpOp where
  | eq | ne | lt | le | ltu | leu | feq | flt | fle | funord
deriving DecidableEq, Repr

/-- 03 R95. -/
inductive RedOp where
  | sum | max | min | maxu | minu | fsum | fmax
deriving DecidableEq, Repr

/-- 03 R97. -/
inductive PredOp where
  | pand | por | pxor | pandn | pnot | pfroms | stop | pcnt | pfirst
deriving DecidableEq, Repr

/-- The rings of a cluster: tile mover queue q, commit, index-read and fabric send (02 R45, Table 2-5a). -/
inductive RingId where
  | tm (q : Fin 16)
  | commit
  | ixr
  | ftx
deriving DecidableEq, Repr

/-- The registers that an access of REGISTER_WRITE reaches: the module register window, by a requester (16 R374), or BAR0 of a function
(16 R351). -/
inductive RegSpace where
  | window (w : Requester)
  | bar0 (f : FnId)
deriving DecidableEq, Repr

/-- A read, or a write of a value, right-aligned. -/
inductive RegAccess where
  | read
  | write (v : Word)
deriving DecidableEq, Repr

/-- A kind of request that waits at a bank (09 R211): an outstanding load or atomic of a core, a buffered store, the core's full/empty
access, or the next access of a tile mover queue of the core's cluster. Beside it stands a number: that of the load or store, oldest
first, or of the queue. -/
inductive BankReq where
  | load | store | fullEmpty | tileMover
deriving DecidableEq, Repr

/-- What a read of a page senses for: the codeword, and the partition that asks, if one does (17 R378). -/
structure CwRead where
  cw   : Fin 4
  part : Option (Fin 12) := none
deriving DecidableEq, Repr

/-- The blocks of a Read, and what the host memory buffer returns for the slots that its map pages are sought in (13 R292). -/
structure ReadArgs where
  nlb : BitVec 16
  hmb : List (List Byte) := []
deriving DecidableEq, Repr

/-- What Set Features carries beside CDW11: an enable bit, and the table of autonomous transitions or the bytes of the host memory
buffer. -/
structure FeatArgs where
  enable : Bool
  data   : List Word := []
deriving DecidableEq, Repr

/-- The partition that Partition Configure or Job Control names, and its reserved bits: nonzero for a reserved action or bit
(17 R375, R383). -/
structure PartSel where
  part : BitVec 4
  rsvd : Nat := 0
deriving DecidableEq, Repr

/-- What a patrol scrubber serves (11 R254). -/
inductive ScrubUnit where
  | d1 (stack : Fin 8)
  | d2 (group : Fin 16)
  | sram (cl : Fin 32)
deriving DecidableEq, Repr

/-- A NAND die: channel and die number (12 Table 12-3). -/
structure DieId where
  ch  : Fin 64
  die : Fin 15
deriving DecidableEq, Repr

/-- A flash page: die, plane, block and page (12 Table 12-3). -/
structure PageAddr where
  die   : DieId
  plane : Fin 4
  block : Fin 2760
  page  : Fin 1536
deriving DecidableEq, Repr

/-- The temperature classes (Table 13-4). -/
inductive Class where
  | hot | warm | cold | frozen
deriving DecidableEq, Repr

/-- Namespace kinds (Table 13-1). -/
inductive NsKind where
  | block | tile
deriving DecidableEq, Repr

/-- What an NVMe command carries beside its own fields: function, submission queue, command identifier. -/
structure Hdr where
  fn  : FnId
  sq  : BitVec 16
  cid : BitVec 16
deriving DecidableEq, Repr

/-- A binding slot (Table 10-3). -/
structure Binding where
  nsid   : BitVec 10
  pin    : Bool
  commit : Bool
  share  : Bool
  sgt    : BitVec 16
deriving DecidableEq, Repr

/-- An area of D1 or D2 in GiB (10 R221). -/
structure Area where
  base : BitVec 16
  gib  : BitVec 16
deriving DecidableEq, Repr

/-- The partition record of Table 17-1; rsvd is the value of all its RSVD bits together. -/
structure PartRec where
  clusters  : BitVec 32
  d1Region  : Area
  d1Pool    : Area
  d2Region  : Area
  d2Pool    : Area
  fslot     : BitVec 8
  wrShare   : BitVec 8
  sD1       : BitVec 8
  sD2       : BitVec 8
  fabCredit : BitVec 8
  ctxBase   : BitVec 16
  ctxCount  : BitVec 16
  kofNsid   : BitVec 10
  tenants   : BitVec 1024
  rsvd      : Nat
deriving DecidableEq, Repr

/-- The module arbitration record of Table 17-2; rsvd is the value of all its RSVD bits together. -/
structure ArbRec where
  isolated : Bool
  d1Share  : Area
  d2Share  : Area
  rsvd     : Nat
deriving DecidableEq, Repr

/-- The tensor watch data of Table 20-4; rsvd is the value of all RSVD bits together. -/
structure WatchData where
  symbol    : BitVec 16
  maxDumps  : BitVec 16
  step      : BitVec 32
  logNsid   : BitVec 10
  logLba    : BitVec 64
  logBlocks : BitVec 64
  rsvd      : Nat
deriving DecidableEq, Repr

/-- Why a job ends (17 R381, Table 17-10 END_CAUSE). -/
inductive EndCause where
  | deactivation | kill | partitionFault | moduleFault | vacate
deriving DecidableEq, Repr

/-- Shared resources whose fault is a module fault (Table 17-7). -/
inductive SharedFault where
  | hubReserve | writeBuffer | ftlStructures | hubLogic | bridge | computeDie | bothProcessors | thermal
deriving DecidableEq, Repr

/-- A fabric packet header and payload (Tables 18-4, 18-5). NOTE and NDB of a put reach its destination (R414), and
a CUT's GROUP and its sender's depth reach the next module (R421), in no field that those tables name: note, ndb and group
carry them here. -/
structure Packet where
  dstFid  : BitVec 16
  srcFid  : BitVec 16
  dstPart : BitVec 4
  srcPart : BitVec 4
  vc      : BitVec 3
  ord     : Bool
  trace   : Bool
  ttl     : BitVec 6
  typ     : BitVec 8
  group   : BitVec 16
  id      : BitVec 40
  w2      : Word
  w3      : Word
  payload : List Byte
  rsvd    : Nat
  note    : BitVec 32
  ndb     : Bool
deriving DecidableEq, Repr

/-- A flit as the receiver sees it (18 R399-R402): header fields of Table 18-3, whether CRC and tag verify, and the
packets whose last segment it carries. -/
structure Flit where
  seq     : BitVec 12
  ack     : BitVec 12
  nak     : Bool
  keysel  : Bool
  cvc     : BitVec 3
  credits : BitVec 11
  svc     : BitVec 21
  crcOk   : Bool
  tagOk   : Bool
  packets : List Packet
deriving DecidableEq, Repr

/-- A firmware image as the island sees it (19 R435-R437): signer (true: owner) and slot, version, whether the
signature verifies, whether its RSVD fields are 0. -/
structure FwImage where
  ownerSigned : Bool
  slot        : Fin 4
  svn         : BitVec 7
  verifies    : Bool
  rsvdZero    : Bool
deriving DecidableEq, Repr

/-- What a signed command of protocol 0xF0 carries (19 R443): owner slot, nonce, whether the signature verifies. -/
structure Signed where
  slot     : Fin 4
  nonce    : BitVec 256
  verifies : Bool
deriving DecidableEq, Repr

/-- The three transports of SPDM (19 R450): NVMe Security Send and Receive, MCTP on I3C, Indigo on a link. -/
inductive SpdmVia where
  | nvme (f : FnId)
  | i3c
  | link (l : Fin 36)
deriving DecidableEq, Repr

/-- Namespace Management actions (13 R282): create of a kind and a size in logical blocks, or delete. -/
inductive NsAction where
  | create (kind : NsKind) (blocks : BitVec 64)
  | delete (nsid : BitVec 32)
deriving DecidableEq, Repr

/-- Memory Range Set Management (16 R353): name a partition's D1 or D2 region, or remove a name. -/
inductive RangeSetAction where
  | create (p : BitVec 4) (isD2 : Bool)
  | delete (id : BitVec 16)
deriving DecidableEq, Repr

/-- One side of a Memory Copy (16 R353): a namespace from a block on, or a memory range set from a byte on. -/
inductive CopyEnd where
  | namespaceAt (nsid : BitVec 32) (block : BitVec 64)
  | rangeSetAt (id : BitVec 16) (offset : BitVec 64)
deriving DecidableEq, Repr

/-- Virtualization Management actions (16 R351). -/
inductive VirtAction where
  | assignQueues (n : Nat)
  | assignVectors (n : Nat)
  | online
  | offline
deriving DecidableEq, Repr

/-- Causes that start an exit from a power state (Table 21-1, 16 R365). -/
inductive Wake where
  | storage
  | compute
  | fabric (partition : Bool)
  | sideband
deriving DecidableEq, Repr

/-- Methods of a TCG command (19 R441, Table 19-7): those of Opal, and the enabling of Key Per I/O on a namespace. -/
inductive Locking where
  | genKey
  | lock
  | unlock
  | enableOpal
  | enableKeyPerIo
deriving DecidableEq, Repr

/-- One constructor for each row of spec/opcode_table.json. -/
inductive Instr where
  -- Sliver instructions (03, 04): the core and the fields of its instruction word
  | alu (c : CoreId) (op : AluOp) (rd ra rb : BitVec 5)
  | addi (c : CoreId) (op : ImmOp) (rd ra : BitVec 5) (imm : BitVec 16)
  | shifti (c : CoreId) (rd ra : BitVec 5) (imm : BitVec 16)
  | mul (c : CoreId) (op : MulOp) (rd ra rb : BitVec 5)
  | div (c : CoreId) (op : DivOp) (rd ra rb : BitVec 5)
  | li32 (c : CoreId) (rd : BitVec 5) (imm : BitVec 32)
  | addi32 (c : CoreId) (rd ra : BitVec 5) (imm : BitVec 32)
  | lih32 (c : CoreId) (rd ra : BitVec 5) (imm : BitVec 32)
  | ld (c : CoreId) (sz : LdSize) (g : Bool) (rt ra : BitVec 5) (imm : BitVec 12)
  | st (c : CoreId) (sz : StSize) (g : Bool) (rt ra : BitVec 5) (imm : BitVec 12)
  | vld (c : CoreId) (g p : Bool) (pg : BitVec 3) (vt : BitVec 4) (ra : BitVec 5) (imm : BitVec 12)
  | vst (c : CoreId) (g p : Bool) (pg : BitVec 3) (vt : BitVec 4) (ra : BitVec 5) (imm : BitVec 12)
  | amo (c : CoreId) (op : AmoOp) (g w : Bool) (rd ra rb : BitVec 5)
  | fenceFull (c : CoreId)
  | fenceStore (c : CoreId)
  | fenceLoad (c : CoreId)
  | fenceIfetch (c : CoreId)
  | branch (c : CoreId) (op : BrOp) (ra rb : BitVec 5) (off : BitVec 16)
  | jal (c : CoreId) (rd : BitVec 5) (off : BitVec 21)
  | jalr (c : CoreId) (rd ra : BitVec 5) (imm : BitVec 16)
  | csrr (c : CoreId) (rd : BitVec 5) (idx : BitVec 16)
  | csrw (c : CoreId) (ra : BitVec 5) (idx : BitVec 16)
  | brk (c : CoreId)
  | eret (c : CoreId)
  | illegal (c : CoreId) (w : BitVec 32)
  | vint (c : CoreId) (op : VIntOp) (sz : ESz) (vd va vb : BitVec 4) (pr : Pred)
  | vfp (c : CoreId) (op : VFpOp) (vd va vb : BitVec 4) (pr : Pred)
  | vcvt (c : CoreId) (op : CvtOp) (h : Bool) (vd va : BitVec 4) (pr : Pred)
  | vcmp (c : CoreId) (op : CmpOp) (sz : ESz) (pd : BitVec 3) (va vb : BitVec 4) (pr : Pred)
  | vbcast (c : CoreId) (sz : ESz) (rs : BitVec 5) (vx : BitVec 4) (p : Bool) (pg : BitVec 3)
  | vextr (c : CoreId) (sz : ESz) (rs : BitVec 5) (vx : BitVec 4)
  | vred (c : CoreId) (op : RedOp) (sz : ESz) (rs : BitVec 5) (vx : BitVec 4) (p : Bool) (pg : BitVec 3)
  | vperm (c : CoreId) (vd va vb : BitVec 4) (pr : Pred)
  | pred (c : CoreId) (op : PredOp) (rd ra rb : BitVec 5)
  | skdist (c : CoreId) (acc : Bool) (width : BitVec 2) (vd va vb : BitVec 4)
  | pqsum (c : CoreId) (acc : Bool) (group : BitVec 2) (vd va : BitVec 4) (rs : BitVec 5)
  | ftest (c : CoreId) (rd ra rb : BitVec 5) (vx : BitVec 4)
  | cqins (c : CoreId) (rd ra : BitVec 5)
  | cqpop (c : CoreId) (rd : BitVec 5)
  | cqpeek (c : CoreId) (rd : BitVec 5)
  | cqmax (c : CoreId) (rd : BitVec 5)
  | cqbound (c : CoreId) (rd : BitVec 5)
  | cqcnt (c : CoreId) (rd : BitVec 5)
  | cqclr (c : CoreId)
  | cqmerge (c : CoreId) (rd ra : BitVec 5)
  | cqstore (c : CoreId) (rd ra : BitVec 5)
  | ldf (c : CoreId) (g v : Bool) (t ra : BitVec 5) (imm : BitVec 10)
  | ldfe (c : CoreId) (g v : Bool) (t ra : BitVec 5) (imm : BitVec 10)
  | stef (c : CoreId) (g v : Bool) (t ra : BitVec 5) (imm : BitVec 10)
  | stf (c : CoreId) (g v : Bool) (t ra : BitVec 5) (imm : BitVec 10)
  | sete (c : CoreId) (g : Bool) (ra : BitVec 5) (imm : BitVec 10)
  | setf (c : CoreId) (g : Bool) (ra : BitVec 5) (imm : BitVec 10)
  | test (c : CoreId) (g : Bool) (t ra : BitVec 5) (imm : BitVec 10)
  | feRetry (cl : Fin 32) (slot : BitVec 26)
  | dqpush (c : CoreId) (rd ra : BitVec 5)
  | dqpop (c : CoreId) (rd : BitVec 5)
  | dqsteal (c : CoreId) (rd ra : BitVec 5)
  | dqcnt (c : CoreId) (rd : BitVec 5)
  | dqocc (c : CoreId) (rd ra : BitVec 5)
  | stealHeldServe (cl : Fin 32) (thief : Fin 128)
  | dequePushVisible (c : CoreId)
  | waitev (c : CoreId) (rd ra : BitVec 5)
  | waitevWake (c : CoreId)
  | waitevTimeout (c : CoreId)
  | evsig (c : CoreId)
  | evclr (c : CoreId)
  | tissue (c : CoreId) (vx : BitVec 4) (n : BitVec 3)
  | loadReturn (c : CoreId) (i : Fin 8)
  | storeTakesEffect (c : CoreId) (i : Fin 16)
  -- Core and cluster control (02)
  | run (w : Requester) (c : CoreId)
  | halt (w : Requester) (c : CoreId)
  | restart (w : Requester) (c : CoreId)
  | coreHaltComplete (c : CoreId)
  | quiesce (w : Requester) (cl : Fin 32)
  | quiesceAbort (w : Requester) (cl : Fin 32)
  | quiesceClear (w : Requester) (cl : Fin 32)
  -- Matrix core (05, 07, 08)
  | mxcResume (w : Requester) (cl : Fin 32)
  | mxcFlush (w : Requester) (cl : Fin 32)
  | mxcNop (cl : Fin 32)
  | matmul (cl : Fin 32)
  | matmulComplete (cl : Fin 32) (i : Fin 16) (steps : Nat)
  | form (cl : Fin 32)
  | store (cl : Fin 32)
  | storeComplete (cl : Fin 32) (i : Fin 16) (units : Nat)
  | sftab (cl : Fin 32)
  | sfeFunction (cl : Fin 32)
  | sfeSoftmax (cl : Fin 32)
  | sfeRmsNormalisation (cl : Fin 32)
  | sfeLayerNormalisation (cl : Fin 32)
  | sfeComplete (cl : Fin 32) (i : Fin 16) (rows : Nat)
  | guardOpen (cl : Fin 32)
  | guardClose (cl : Fin 32)
  | guardCloseComplete (cl : Fin 32)
  -- Rings and the tile mover (02, 06, 10)
  | ringTailWrite (w : Requester) (cl : Fin 32) (r : RingId) (v : Word)
  | ringBaseSizeWrite (w : Requester) (cl : Fin 32) (r : RingId) (isSize : Bool) (v : Word)
  | tmCopy (cl : Fin 32) (q : Fin 16) (units : Nat)
  | tmXform (cl : Fin 32) (q : Fin 16) (units : Nat)
  | tmFill (cl : Fin 32) (q : Fin 16) (units : Nat)
  | tmNop (cl : Fin 32) (q : Fin 16)
  | tilePin (cl : Fin 32) (q : Fin 16) (units : Nat)
  | tileUnpin (cl : Fin 32) (q : Fin 16)
  | tmDescriptorComplete (cl : Fin 32) (q : Fin 16)
  | promotionComplete (e : Nat)
  | healComplete (e : Nat)
  | commitRecord (cl : Fin 32)
  | commitComplete (cl : Fin 32)
  -- Cluster memories and codes (09, 11)
  | requestAged (c : CoreId) (kind : BankReq) (j : Fin 16)
  | correctedWordWriteback (cl : Fin 32) (addr : BitVec 32)
  | zeroise (w : Requester) (cl : Fin 32)
  | zeroiseComplete (cl : Fin 32)
  | patrolScrubRead (u : ScrubUnit)
  | hubD2MarkWrite (w : Requester) (g : Fin 16) (v : Word)
  | injectionArm (w : Requester) (m : Fin 3) (v : Word)
  -- Signed commands, Key Per I/O and TCG Opal (19)
  | enrolOwner (h : Hdr) (sg : Option Signed) (hash : BitVec 384)
  | revokeOwner (h : Hdr) (sg : Signed) (slot : Fin 4)
  | setLevelRaise (h : Hdr) (sg : Signed)
  | setLevel2 (h : Hdr) (sg : Signed)
  | setLevelLower (h : Hdr) (sg : Signed)
  | getNonce (h : Hdr)
  | debugOpen (h : Hdr) (sg : Signed) (invasive : Bool)
  | debugClose (h : Hdr)
  | setPolicy (h : Hdr) (sg : Signed) (fabOwner ownerFw : Bool)
  | otpWrite (h : Hdr) (sg : Signed) (word : BitVec 8) (v : Word) (lock : Bool)
  | keyPerIoInject (h : Hdr) (tag : BitVec 16) (clear : Bool)
  | tcgOpalCommand (h : Hdr) (nsid : BitVec 32) (m : Locking)
  -- Flash media (12)
  | dieRead (pg : PageAddr) (x : CwRead)
  | suspendEntered (d : DieId)
  | dieResume (d : DieId)
  | readSenseComplete (d : DieId) (plane : Fin 4)
  | ldpcSlot (e : Fin 16)
  | ldpcPassComplete (e : Fin 16) (bitErrors : Nat)
  | readRecovery (pg : PageAddr) (cw : Fin 4) (ok : Bool)
  | crossDieRebuildComplete (pg : PageAddr) (cw : Fin 4)
  | stripeProgram (g : Fin 30) (k : Option Class)
  | dieProgram (d : DieId)
  | programComplete (d : DieId) (ok : Bool)
  | dieErase (d : DieId) (planes : BitVec 4) (block : Fin 2760)
  | eraseComplete (d : DieId) (ok : Bool)
  | suspLimitReached (d : DieId)
  | holdWrite (w : Requester) (ch : Fin 64) (v : Word)
  | blockScan (d : DieId) (plane : Fin 4) (block : Fin 2760) (worst : Nat)
  | refresh (d : DieId) (plane : Fin 4) (block : Fin 2760)
  | dieStatusTimeout (d : DieId)
  | blockRetireLimit (d : DieId)
  | channelTrainingFailed (ch : Fin 64)
  | relocation (pg : PageAddr)
  -- Flash translation (13)
  | reclaim (g : Fin 30)
  | writeDataResume
  | rootCommit
  | journalBoundReached
  | holdupMeasure (tenthsMs : Nat)
  | hmbSuspend
  | mainInputLoss (step4Done : Bool)
  | mainInputReturn
  | auxInputLoss
  | sanitizeBlockErase (h : Hdr)
  | sanitizeCryptoErase (h : Hdr)
  | sanitizeExitFailureMode (h : Hdr)
  | sanitizeProgressCommit
  | sanitizeComplete
  | ftlClassRelease (w : Requester) (k : Class)
  -- Vector search (14)
  | ctxLoad (cl : Fin 32)
  | pageScan (cl : Fin 32)
  | unitRead (cl : Fin 32)
  | ixrNop (cl : Fin 32)
  | indexReadComplete (cl : Fin 32) (i : Fin 64)
  | prlPartCtxWrite (w : Requester) (p : Fin 12) (v : Word)
  | shareEnWrite (w : Requester) (en : Bool)
  | ftxPut (cl : Fin 32)
  | ftxRequest (cl : Fin 32)
  | ftxNop (cl : Fin 32)
  -- NVMe commands (16)
  | nvmRead (h : Hdr) (nsid : BitVec 32) (slba : BitVec 64) (x : ReadArgs)
  | nvmWrite (h : Hdr) (nsid : BitVec 32) (slba : BitVec 64) (ph : Option Class) (data : List Unit4K)
  | nvmFlush (h : Hdr) (nsid : BitVec 32)
  | writeZeroes (h : Hdr) (nsid : BitVec 32) (slba : BitVec 64) (nlb : BitVec 16)
  | datasetManagement (h : Hdr) (nsid : BitVec 32) (ranges : List (BitVec 64 × BitVec 32))
  | unsupportedCommand (h : Hdr) (opcode : BitVec 8)
  | identify (h : Hdr) (cns : BitVec 8) (nsid : BitVec 32)
  | getFeatures (h : Hdr) (fid : BitVec 8) (nsid cdw11 : BitVec 32)
  | setFeatures (h : Hdr) (fid : BitVec 8) (nsid cdw11 : BitVec 32) (x : FeatArgs)
  | tensorWatchArm (h : Hdr) (cdw11 : BitVec 32) (data : WatchData)
  | getLogPage (h : Hdr) (lid : BitVec 8) (index : Nat)
  | createIoSq (h : Hdr) (qid : BitVec 16) (size : BitVec 16) (cqid : BitVec 16)
  | createIoCq (h : Hdr) (qid : BitVec 16) (size : BitVec 16) (vector : BitVec 16)
  | deleteIoSq (h : Hdr) (qid : BitVec 16)
  | deleteIoCq (h : Hdr) (qid : BitVec 16)
  | abort (h : Hdr) (sq cid : BitVec 16)
  | asynchronousEventRequest (h : Hdr)
  | keepAlive (h : Hdr)
  | namespaceManagement (h : Hdr) (a : NsAction)
  | namespaceAttachment (h : Hdr) (nsid : BitVec 32) (attach : Bool) (target : FnId)
  | formatNvm (h : Hdr) (nsid : BitVec 32) (ses : BitVec 3)
  | firmwareImageDownload (h : Hdr) (img : FwImage)
  | firmwareCommit (h : Hdr) (activate : Bool)
  | virtualizationManagement (h : Hdr) (t : Fin 1024) (a : VirtAction)
  | directiveSend (h : Hdr) (nsid : BitVec 32) (enable : Bool)
  | directiveReceive (h : Hdr) (nsid : BitVec 32)
  | memoryRangeSetManagement (h : Hdr) (a : RangeSetAction)
  | memoryRead (h : Hdr) (id : BitVec 16) (offset : BitVec 64) (len : BitVec 32)
  | memoryWrite (h : Hdr) (id : BitVec 16) (offset : BitVec 64) (data : List Byte)
  | memoryCopy (h : Hdr) (src dst : CopyEnd) (units : BitVec 32)
  | loadProgram (h : Hdr) (p : BitVec 4) (cdw13 : BitVec 32) (sigVerifies : Bool) (image : List Byte)
  | programActivate (h : Hdr) (p : BitVec 4)
  | programDeactivate (h : Hdr) (p : BitVec 4)
  | executeProgram (h : Hdr) (p : BitVec 4) (request : List Byte)
  | requestSlotAssign (p : Fin 12)
  | cluReqDone (c : CoreId) (v : Word)
  | requestAreaWrite (c : CoreId) (isCtl : Bool) (v : Word)
  | partitionConfigureSet (h : Hdr) (p : BitVec 4) (r : PartRec)
  | partitionConfigureClear (h : Hdr) (p : PartSel)
  | partitionArbitrationSet (h : Hdr) (r : ArbRec)
  | bindingSet (h : Hdr) (p : BitVec 4) (slot : BitVec 4) (b : Option Binding)
  | jobControlVacate (h : Hdr) (p : PartSel) (nsid : BitVec 10) (lba : BitVec 64)
  | jobControlRestore (h : Hdr) (p : PartSel) (nsid : BitVec 10) (lba : BitVec 64)
  | jobControlKill (h : Hdr) (p : PartSel)
  | fabricIdentity (h : Hdr) (fid lmn epoch : BitVec 16)
  | jobEnd (p : Fin 12) (cause : EndCause)
  | jobEndDrained (p : Fin 12)
  | partitionFault (p : Fin 12)
  | moduleFault (f : SharedFault)
  | interferenceWindowEnd (p : Fin 12)
  -- Host side events (16)
  | qosWindowEnd
  | rangeLockGrant
  | controllerReset (f : FnId)
  | vfFunctionLevelReset (t : Fin 1024)
  | pfFunctionLevelReset (p : Port)
  | portReset (p : Port) (linkDown : Bool)
  | perstRelease (p : Port) (x16Sel : Bool)
  | nvmSubsystemReset (p : Port)
  | ownsemRead (p : Port)
  | ownsemRelease (p : Port) (v : Word)
  | ownsemLinkDownRelease
  | doorbellPush (cl : Fin 32) (kind : BitVec 7) (payload : BitVec 56)
  | spillPop (c : CoreId) (rd : BitVec 5)
  | spillRefill (cl : Fin 32)
  | apstIdleTimeout (p : Port)
  | powerStateEntryComplete
  | powerStateExit (wk : Wake)
  | powerStateExitComplete
  -- Fabric (18)
  | linkTrainingStart (l : Fin 36)
  | linkTrained (l : Fin 36)
  | linkTrainingTimeout (l : Fin 36)
  | initFlitReceived (l : Fin 36) (fl : Flit)
  | linkKeysSet (l : Fin 36)
  | linkLossOfLock (l : Fin 36)
  | linkFailed (l : Fin 36)
  | linkRetrain (w : Requester) (l : Fin 36)
  | linkEnableWrite (w : Requester) (l : Fin 36) (en : Bool)
  | flitReceive (l : Fin 36) (fl : Flit)
  | nakReplay (l : Fin 36) (ack : BitVec 12)
  | replayLimit (l : Fin 36)
  | packetRoute (l : Fin 36)
  | probeSend (l : Fin 36)
  | probeReceive (l : Fin 36) (pk : Packet)
  | announceReceive (l : Fin 36) (pk : Packet)
  | putPacketReceive (pk : Packet)
  | putAckReceive (pk : Packet)
  | putResend (id : BitVec 40) (k : BitVec 8)
  | putTimeout (id : BitVec 40)
  | trackerEntryExpire (src : BitVec 16) (id : BitVec 40)
  | requestPacketReceive (pk : Packet)
  | responsePacketReceive (pk : Packet)
  | requestTimeout (id : BitVec 40)
  | fabPartGrpWrite (w : Requester) (p : Fin 12) (v : Word)
  | cutGo (w : Requester) (v : Word)
  | cutResumeWrite (w : Requester) (v : Word)
  | cutReceive (l : Fin 36) (pk : Packet)
  | cutAckReceive (l : Fin 36) (pk : Packet)
  | cutDoneReceive (l : Fin 36) (pk : Packet)
  | cutLocallyDone (slot : Fin 4)
  | cutResumeReceive (l : Fin 36) (pk : Packet)
  | faultReportReceive (l : Fin 36) (pk : Packet)
  | faultWindowEnd
  | timesyncSend (l : Fin 36)
  | timesyncReceive (l : Fin 36) (pk : Packet)
  | keyUpdate (l : Fin 36)
  | spdmSessionRetry (l : Fin 36) (accepted : Bool)
  -- Security (19)
  | getVersion (v : SpdmVia)
  | getCapabilities (v : SpdmVia)
  | negotiateAlgorithms (v : SpdmVia)
  | getDigests (v : SpdmVia)
  | getCertificate (v : SpdmVia) (slot : BitVec 4) (offset len : BitVec 16)
  | challenge (v : SpdmVia) (slot : BitVec 4) (nonce : BitVec 256)
  | getMeasurements (v : SpdmVia) (index : BitVec 8)
  | keyExchange (v : SpdmVia) (reqSession : BitVec 16)
  | finish (v : SpdmVia) (verifies : Bool)
  | spdmKeyUpdate (v : SpdmVia)
  | heartbeat (v : SpdmVia)
  | endSession (v : SpdmVia)
  | loweringEraseComplete
  | nonceExpiry (nonce : BitVec 256)
  | cflProgram (proc : Fin 2) (addr : BitVec 32)
  | cflErase (proc : Fin 2) (addr : BitVec 32)
  | cflOperationComplete (bank : Fin 2) (verified : Bool)
  | tapIdcode
  | tapSample
  | tapDbgAddr (a : BitVec 48)
  | tapDbgDataRead
  | tapDbgDataWrite (v : Word)
  | tapDbgCtlHalt
  | tapDbgCtlResume
  | trstAssert
  -- Counters, trace, management pair (20)
  | counterSnapshotWindow
  | cluStepWrite (c : CoreId) (v : Word)
  | tensorWatchDump (cl : Fin 32) (w : Fin 4)
  | cluTraceWrite (c : CoreId) (v : Word)
  | mgmtHeartbeat (proc : Fin 2)
  | mgmtTakeover (memError : Bool)
  | standbyFailure
  | mirrorWrite
  -- Power, clocks and reset (21, 22)
  | powerOn
  | firmwareVerify
  | recoveryImage (img : FwImage)
  | storageDomainPowerUp
  | d2TrainingDone
  | d2FillDone
  | ftlRootsLoaded
  | d1TrainingDone
  | d1FillDone
  | nvmeReady
  | computeReady
  | resetPin (nanoseconds : Nat)
  | moduleResetWrite (w : Requester)
  | clusterGate (cl : Fin 32)
  | clusterPowerOff (cl : Fin 32)
  | clusterWake (cl : Fin 32)
  | clusterWakeComplete (cl : Fin 32)
  | clusterStepWrite (w : Requester) (cl : Fin 32) (v : Word)
  | powerCapWindowEnd (watts : BitVec 16)
  | thermalThrottle (celsius : BitVec 8)
  | thermalRecover (celsius : BitVec 8)
  | thermalTrip (celsius : BitVec 8)
  | receptacleModuleInsert (r : Fin 9) (tenthsWatt : Nat)
  | nvmeMiMessage (led : Option Bool)
  | registerWrite (r : RegSpace) (offset : BitVec 26) (size : Nat) (a : RegAccess)
  | dieTimeTurn (d : DieId)
  | pcieLinkUp (p : Port)
deriving DecidableEq, Repr

end Sys2Proof
end

