-- ==== Sys2Proof/WellFormed.lean ====
section
/-! DEFINITION. Well-formed commands: the fields of an instruction word that must be 0 or name a register of a smaller file
(03 R73, R88, R90 to R97, 04 R101, R102, R113 and the tables of formats). A word that breaks one is ILLEGAL (03 R73). The
other commands have no ill-formed values beyond their types' bounds. -/

namespace Sys2Proof

/-- Sizes of Table 3-6 are all assigned by LdSize and StSize. -/
def AluOp.unary : AluOp → Bool
  | .clz => true
  | .ctz => true
  | .popc => true
  | _ => false

def CmpOp.float : CmpOp → Bool
  | .feq => true
  | .flt => true
  | .fle => true
  | .funord => true
  | _ => false

def RedOp.float : RedOp → Bool
  | .fsum => true
  | .fmax => true
  | _ => false

def CvtOp.halfZero : CvtOp → Bool
  | .f32i32 => true
  | .i32f32 => true
  | _ => false

/-- The PRED operations' fields (03 R97): predicate fields hold 0 to 7; rb must be 0 for the one-operand forms. -/
def PredOp.fields (op : PredOp) (rd ra rb : BitVec 5) : Bool :=
  match op with
  | .pand | .por | .pxor | .pandn => rd.toNat < 8 && ra.toNat < 8 && rb.toNat < 8
  | .pnot => rd.toNat < 8 && ra.toNat < 8 && rb = 0
  | .pfroms => rd.toNat < 8 && rb = 0
  | .stop | .pcnt | .pfirst => ra.toNat < 8 && rb = 0

/-- Whether an instruction word's "must be 0" fields are 0. -/
def Instr.wellFormed : Instr → Bool
  | .alu _ op _ _ rb => !op.unary || rb = 0
  | .shifti _ _ _ imm => bits imm 15 8 = 0
  | .csrr _ _ idx => bits idx 2 0 = 0
  | .csrw _ _ idx => bits idx 2 0 = 0
  | .vint _ op _ _ _ vb _ => op != .vpopc || vb = 0
  | .vfp _ op _ _ vb _ => !(op == .vfabs || op == .vfneg) || vb = 0
  | .vcvt _ op h _ _ _ => !(op.halfZero && h)
  | .vcmp _ op sz _ _ _ _ => !op.float || sz = .b4
  | .vred _ op sz _ _ _ _ => !op.float || sz = .b4
  | .pred _ op rd ra rb => op.fields rd ra rb
  | _ => true

end Sys2Proof
end

