-- ==== Sys2Proof/Decode.lean ====
section
/-! DEFINITION. decodeTableWord (the table gives no row any bits) and the decoder of a sliver core's own instruction words
(03 R72, R73, Tables 3-2, 3-3; 04 R101, R102, Tables 4-1, 4-2), total: what is not assigned or malformed is ILLEGAL. -/

namespace Sys2Proof

/-- spec/opcode_table.json gives no row any bits, so no word spells a command. -/
def decodeTableWord (_nbits _w : Nat) : Option Instr := none

/-- Bits hi..lo of a word as a field of n bits. -/
def field (n hi lo : Nat) (w : BitVec 32) : BitVec n := BitVec.ofNat n (bits w hi lo)

def aluOp? : Nat → Option AluOp
  | 0 => some .add | 1 => some .sub | 2 => some .and | 3 => some .or | 4 => some .xor | 5 => some .sll
  | 6 => some .srl | 7 => some .sra | 8 => some .ror | 9 => some .slt | 0xA => some .sltu | 0xB => some .min
  | 0xC => some .max | 0xD => some .minu | 0xE => some .maxu | 0x10 => some .clz | 0x11 => some .ctz
  | 0x12 => some .popc | _ => none

def immOp? : Nat → Option ImmOp
  | 2 => some .addi | 3 => some .andi | 4 => some .ori | 5 => some .xori | 6 => some .slti | 7 => some .sltiu
  | _ => none

def brOp? : Nat → Option BrOp
  | 0x18 => some .beq | 0x19 => some .bne | 0x1A => some .blt | 0x1B => some .bge | 0x1C => some .bltu
  | 0x1D => some .bgeu | _ => none

def ldSize? : Nat → Option LdSize
  | 0 => some .lb | 1 => some .lbu | 2 => some .lh | 3 => some .lhu | 4 => some .lw | 5 => some .lwu | 6 => some .ld
  | _ => none

def stSize? : Nat → Option StSize
  | 0 => some .sb | 2 => some .sh | 4 => some .sw | 6 => some .sd | _ => none

def amoOp? : Nat → Option AmoOp
  | 0 => some .swap | 1 => some .add | 2 => some .and | 3 => some .or | 4 => some .xor | 5 => some .min
  | 6 => some .max | 7 => some .minu | 8 => some .maxu | 9 => some .cas | _ => none

def esz? : Nat → ESz
  | 0 => .b1 | 1 => .b2 | 2 => .b4 | _ => .b8

def vintOp? : Nat → Option VIntOp
  | 0 => some .vadd | 1 => some .vsub | 2 => some .vmul | 3 => some .vand | 4 => some .vor | 5 => some .vxor
  | 6 => some .vsll | 7 => some .vsrl | 8 => some .vsra | 9 => some .vmin | 0xA => some .vmax | 0xB => some .vminu
  | 0xC => some .vmaxu | 0xD => some .vaddsat | 0xE => some .vsubsat | 0xF => some .vpopc | _ => none

def vfpOp? : Nat → Option VFpOp
  | 0 => some .vfadd | 1 => some .vfsub | 2 => some .vfmul | 3 => some .vfma | 4 => some .vfmin | 5 => some .vfmax
  | 6 => some .vfabs | 7 => some .vfneg | _ => none

def cvtOp? : Nat → Option CvtOp
  | 0 => some .f32bf16 | 1 => some .f32f16 | 2 => some .bf16f32 | 3 => some .f16f32 | 4 => some .f32i32
  | 5 => some .i32f32 | _ => none

def cmpOp? : Nat → Option CmpOp
  | 0 => some .eq | 1 => some .ne | 2 => some .lt | 3 => some .le | 4 => some .ltu | 5 => some .leu
  | 0x10 => some .feq | 0x11 => some .flt | 0x12 => some .fle | 0x13 => some .funord | _ => none

def redOp? : Nat → Option RedOp
  | 0 => some .sum | 1 => some .max | 2 => some .min | 3 => some .maxu | 4 => some .minu | 0x10 => some .fsum
  | 0x11 => some .fmax | _ => none

def predOp? : Nat → Option PredOp
  | 0 => some .pand | 1 => some .por | 2 => some .pxor | 3 => some .pandn | 4 => some .pnot | 8 => some .pfroms
  | 9 => some .stop | 0xA => some .pcnt | 0xB => some .pfirst | _ => none

/-- The VR format's predication (03 Table 3-2). -/
def predOf (w : BitVec 32) : Pred := ⟨bit w 13, field 3 12 10 w, bit w 9⟩

/-- Majors 0x01 to 0x0C and 0x27: scalar and predicate instructions; w2 is the second word of the RL format. -/
def decodeScalar (c : CoreId) (w w2 : BitVec 32) : Option Instr :=
  let rd := field 5 25 21 w
  let ra := field 5 20 16 w
  let rb := field 5 15 11 w
  let imm := field 16 15 0 w
  match bits w 31 26 with
  | 0x01 => (aluOp? (bits w 10 0)).map fun op => .alu c op rd ra rb
  | 0x08 => some (.shifti c rd ra imm)
  | 0x09 => match bits w 10 0 with
    | 0 => some (.mul c .mul rd ra rb)
    | 1 => some (.mul c .mulh rd ra rb)
    | 2 => some (.mul c .mulhu rd ra rb)
    | 4 => some (.div c .div rd ra rb)
    | 5 => some (.div c .divu rd ra rb)
    | 6 => some (.div c .rem rd ra rb)
    | 7 => some (.div c .remu rd ra rb)
    | _ => none
  | 0x0A => if imm = 0 && ra = 0 then some (.li32 c rd w2) else none
  | 0x0B => if imm = 0 then some (.addi32 c rd ra w2) else none
  | 0x0C => if imm = 0 then some (.lih32 c rd ra w2) else none
  | 0x27 => (predOp? (bits w 10 0)).map fun op => .pred c op rd ra rb
  | n => (immOp? n).map fun op => .addi c op rd ra imm

/-- Majors 0x10 to 0x15: memory and fences. -/
def decodeMemory (c : CoreId) (w : BitVec 32) : Option Instr :=
  let rd := field 5 25 21 w
  let ra := field 5 20 16 w
  let rb := field 5 15 11 w
  let imm := field 12 11 0 w
  match bits w 31 26 with
  | 0x10 => (ldSize? (bits w 14 12)).map fun z => .ld c z (bit w 15) rd ra imm
  | 0x11 => (stSize? (bits w 14 12)).map fun z => .st c z (bit w 15) rd ra imm
  | 0x12 => some (.vld c (bit w 16) (bit w 15) (field 3 14 12 w) (field 4 25 22 w) (field 5 21 17 w) imm)
  | 0x13 => some (.vst c (bit w 16) (bit w 15) (field 3 14 12 w) (field 4 25 22 w) (field 5 21 17 w) imm)
  | 0x14 => if bits w 3 0 = 0 then (amoOp? (bits w 8 4)).map fun op => .amo c op (bit w 10) (bit w 9) rd ra rb else none
  | 0x15 => if rd = 0 && ra = 0 then match bits w 15 0 with
    | 0 => some (.fenceFull c)
    | 1 => some (.fenceStore c)
    | 2 => some (.fenceLoad c)
    | 3 => some (.fenceIfetch c)
    | _ => none
    else none
  | _ => none

/-- Majors 0x18 to 0x1F and 0x30 to 0x32: control. -/
def decodeControl (c : CoreId) (w : BitVec 32) : Option Instr :=
  let rd := field 5 25 21 w
  let ra := field 5 20 16 w
  let imm := field 16 15 0 w
  match bits w 31 26 with
  | 0x1E => some (.jal c rd (field 21 20 0 w))
  | 0x1F => some (.jalr c rd ra imm)
  | 0x30 => if ra = 0 then some (.csrr c rd imm) else none
  | 0x31 => if rd = 0 then some (.csrw c ra imm) else none
  | 0x32 => if rd = 0 && ra = 0 then match bits w 15 0 with
    | 0 => some (.brk c)
    | 1 => some (.eret c)
    | _ => none
    else none
  | n => (brOp? n).map fun op => .branch c op rd ra imm

/-- Majors 0x20 to 0x26: vector. -/
def decodeVector (c : CoreId) (w : BitVec 32) : Option Instr :=
  let vd := field 4 25 22 w
  let va := field 4 21 18 w
  let vb := field 4 17 14 w
  let rs := field 5 25 21 w
  let vx := field 4 20 17 w
  let vy := bits w 16 13
  let p := bit w 12
  let pg := field 3 11 9 w
  let f := bits w 6 0
  let z := esz? (bits w 8 7)
  match bits w 31 26 with
  | 0x20 => (vintOp? f).map fun op => .vint c op z vd va vb (predOf w)
  | 0x21 => if bits w 8 7 = 0 then (vfpOp? f).map fun op => .vfp c op vd va vb (predOf w) else none
  | 0x22 => if bits w 7 7 = 0 && vb = 0 then (cvtOp? f).map fun op => .vcvt c op (bit w 8) vd va (predOf w) else none
  | 0x23 => if bits w 25 25 = 0 then (cmpOp? f).map fun op => .vcmp c op z (field 3 24 22 w) va vb (predOf w) else none
  | 0x24 => if vy = 0 then match f with
    | 0 => some (.vbcast c z rs vx p pg)
    | 1 => if !p then some (.vextr c z rs vx) else none
    | _ => none
    else none
  | 0x25 => if vy = 0 then (redOp? f).map fun op => .vred c op z rs vx p pg else none
  | 0x26 => if bits w 8 0 = 0 then some (.vperm c vd va vb (predOf w)) else none
  | _ => none

/-- Majors 0x34 to 0x39 (04 Tables 4-1 to 4-11). -/
def decodeSearch (c : CoreId) (w : BitVec 32) : Option Instr :=
  let d := field 5 25 21 w
  let a := field 5 20 16 w
  let b := field 5 15 11 w
  let x := field 4 10 7 w
  let v (n : BitVec 5) : Bool := n.toNat < 16
  let low (n : BitVec 5) : BitVec 4 := n.truncate 4
  let imm := field 10 9 0 w
  let fn := bits w 10 0
  match bits w 31 26 with
  | 0x34 =>
    match bits w 6 4 with
    | 0 => if v d && v a && v b && x = 0 && bits w 2 0 < 4 then
        some (.skdist c (bit w 3) (field 2 1 0 w) (low d) (low a) (low b)) else none
    | 1 => if v d && v a && x = 0 && !bit w 2 then some (.pqsum c (bit w 3) (field 2 1 0 w) (low d) (low a) b) else none
    | 2 => if bits w 3 0 = 0 then some (.ftest c d a b x) else none
    | _ => none
  | 0x35 =>
    if b ≠ 0 then none
    else match fn with
    | 0 => some (.cqins c d a)
    | 1 => if a = 0 then some (.cqpop c d) else none
    | 2 => if a = 0 then some (.cqpeek c d) else none
    | 3 => if a = 0 then some (.cqmax c d) else none
    | 4 => if a = 0 then some (.cqbound c d) else none
    | 5 => if a = 0 then some (.cqcnt c d) else none
    | 6 => if a = 0 && d = 0 then some (.cqclr c) else none
    | 7 => some (.cqmerge c d a)
    | 8 => some (.cqstore c d a)
    | _ => none
  | 0x36 =>
    let g := bit w 15
    let vv := bit w 14
    if bit w 10 || (vv && !v d) then none
    else match bits w 13 11 with
    | 0 => some (.ldf c g vv d a imm)
    | 1 => some (.ldfe c g vv d a imm)
    | 2 => some (.stef c g vv d a imm)
    | 3 => some (.stf c g vv d a imm)
    | 4 => if !vv && d = 0 then some (.sete c g a imm) else none
    | 5 => if !vv && d = 0 then some (.setf c g a imm) else none
    | 6 => if !vv then some (.test c g d a imm) else none
    | _ => none
  | 0x37 =>
    if b ≠ 0 then none
    else match fn with
    | 0 => some (.dqpush c d a)
    | 1 => if a = 0 then some (.dqpop c d) else none
    | 2 => some (.dqsteal c d a)
    | 3 => if a = 0 then some (.dqcnt c d) else none
    | 4 => some (.dqocc c d a)
    | _ => none
  | 0x38 =>
    if b ≠ 0 then none
    else match fn with
    | 0 => some (.waitev c d a)
    | 1 => if d = 0 && a = 0 then some (.evsig c) else none
    | 2 => if d = 0 && a = 0 then some (.evclr c) else none
    | _ => none
  | 0x39 => if bits w 18 0 = 0 then some (.tissue c (field 4 25 22 w) (field 3 21 19 w)) else none
  | _ => none

/-- The instruction that word w stands for on core c, w2 being the word behind it; ILLEGAL where the encoding is not assigned
or a field that must be 0 is not (03 R73). -/
def sliverDecode (c : CoreId) (w w2 : BitVec 32) : Instr :=
  let m := bits w 31 26
  let i :=
    if m < 0x10 || m = 0x27 then decodeScalar c w w2
    else if m < 0x18 then decodeMemory c w
    else if m < 0x20 then decodeControl c w
    else if m < 0x28 then decodeVector c w
    else if 0x30 ≤ m && m < 0x34 then decodeControl c w
    else if 0x34 ≤ m then decodeSearch c w
    else none
  match i with
  | some j => if j.wellFormed then j else .illegal c w
  | none => .illegal c w

end Sys2Proof
end

