-- ==== Sys2Proof/Config.lean ====
section
/-! DEFINITION. What the spec leaves open, as constants without a body (log 1): nothing can prove a value of them.
Each is applied to the state's free-value counter (a fresh value each time) or to the operands it depends on. -/

namespace Sys2Proof.Config

/-- A free bit: one of two outcomes the spec allows. -/
opaque freeBool : Nat → Bool
/-- Free values by width. -/
opaque freeHalf : Nat → BitVec 16
opaque freeWord : Nat → BitVec 64
/-- A free natural number; every use states the bound it is reduced by. -/
opaque freeNat : Nat → Nat
/-- A stream of free bytes, one stream for each value of the counter. -/
opaque freeStream : Nat → Nat → BitVec 8
/-- A stream of free bits, one stream for each value of the counter. -/
opaque freeBits : Nat → Nat → Bool
/-- How far the result of a slot's built-in function lies from the correctly rounded one for an FP32 input, reduced by the bound of 08
Table 8-5; the images belong to each firmware release (08 R194). -/
opaque builtinFn : Nat → BitVec 32 → Nat
/-- A unit's data after its media key was replaced: new key, data (19 R441). -/
opaque undecrypted : Nat → BitVec 32768 → BitVec 32768
/-- AES-256-XTS of a unit: key generation, logical unit, data (19 R439). -/
opaque xts : Nat → Nat → BitVec 32768 → BitVec 32768
/-- The 16 bytes of FTL metadata of a codeword: namespace and unit of its owner (12 R265 gives no layout). -/
opaque ftlMeta : Nat → Nat → BitVec 128
/-- LDPC parity over a codeword's first 4,112 bytes (12 R265). -/
opaque ldpcParity : BitVec 32896 → BitVec 1664
/-- The sequence that scrambles a codeword, by its flash address (12 R265). -/
opaque scrambler : Nat → BitVec 34560
/-- AES-256-GCM of a host-held map page: key generation, nonce, page; and its tag: key generation, nonce, authenticated data, encrypted
page (13 R291). -/
opaque gcmPage : Nat → Nat → BitVec 32768 → BitVec 32768
opaque gcmTag : Nat → Nat → Nat → BitVec 32768 → BitVec 128
/-- Bytes of the sections of a root record: SEQ, place in the record (13 Table 13-8 gives no layout). -/
opaque rootByte : Nat → Nat → BitVec 8
/-- 4 KiB sectors of a root record beyond the first, by SEQ; reduced below 16. -/
opaque rootSectors : Nat → Nat
/-- The same of a record of the management mirror (20 R466), its sectors beyond the first reduced below 8. -/
opaque mirrorByte : Nat → Nat → BitVec 8
opaque mirrorSectors : Nat → Nat
/-- A nonce the island draws (19 R443). -/
opaque nonce : Nat → BitVec 256
/-- Whether the lowest syndrome symbol of a Reed-Solomon word stands lowest in an error-log record (11 Table 11-9 states no order). -/
opaque synLowFirst : Bool
/-- The silicon stepping (16 Table 16-14, 19 Table 19-18). -/
opaque stepping : BitVec 8

/-- Fields of CAP (NVM Express) that the spec gives no value. -/
opaque capOther : Word

end Sys2Proof.Config
end

