-- ==== Sys2Proof/Machine/SMap.lean ====
section
/-! DEFINITION. Sparse tables in one canonical form: keys strictly rising, and no entry equal to what an unlisted key
reads as (d k). Equal tables are equal lists. All arrays of registers, memories and tables of State are held so. -/

namespace Sys2Proof

abbrev SMap (α : Type) := List (Nat × α)

variable {α : Type}

/-- The value at key k; d gives what an unlisted key reads as. -/
def SMap.get (d : Nat → α) : SMap α → Nat → α
  | [], k => d k
  | (j, v) :: m, k => if k = j then v else SMap.get d m k

/-- Insert or replace, keeping the keys rising. -/
def SMap.ins : SMap α → Nat → α → SMap α
  | [], k, v => [(k, v)]
  | (j, u) :: m, k, v =>
    if k < j then (k, v) :: (j, u) :: m
    else if k = j then (k, v) :: m
    else (j, u) :: SMap.ins m k v

/-- Remove a key. -/
def SMap.del : SMap α → Nat → SMap α
  | [], _ => []
  | (j, u) :: m, k => if k = j then SMap.del m k else (j, u) :: SMap.del m k

/-- Write v at key k: writing what an unlisted key reads as removes the entry. -/
def SMap.set [DecidableEq α] (d : Nat → α) (m : SMap α) (k : Nat) (v : α) : SMap α :=
  if v = d k then SMap.del m k else SMap.ins m k v

/-- The canonical form. -/
def SMap.wf [DecidableEq α] (d : Nat → α) : SMap α → Bool
  | [] => true
  | [(j, v)] => decide (v ≠ d j)
  | (j, v) :: (j', v') :: m => decide (v ≠ d j) && decide (j < j') && SMap.wf d ((j', v') :: m)

/-- Change the value at a key. -/
def SMap.upd [DecidableEq α] (d : Nat → α) (m : SMap α) (k : Nat) (f : α → α) : SMap α :=
  SMap.set d m k (f (SMap.get d m k))

end Sys2Proof
end

