-- ==== Sys2Proof/Machine/State.lean ====
section
/-! DEFINITION. The state of the module: everything the spec gives it, as plain data, and its value right after the
power-on reset. Each field names the rule of spec/ that gives it; tables are SMap's (unlisted keys read the default named
beside the field). -/

namespace Sys2Proof.Machine

open Sys2Proof

/-! ### Sliver cores (02, 03, 04) -/

/-- Table 2-15 STATE. -/
inductive CoreMode where
  | reset | halted | running | waiting | faulted
deriving DecidableEq, Repr

/-- What an outstanding load writes when it returns (02 R36, 03 R83, 04 R115, R120). -/
inductive LoadKind where
  /-- A scalar load (Table 3-6). -/
  | scalar (sz : LdSize) (rt : BitVec 5)
  /-- A vector load of a slot; bytes outside the mask are set to zero (03 R79). -/
  | vector (vt : BitVec 4) (mask : Word)
  /-- An atomic: operand value and, for AMOCAS, the expected value read at issue (03 R82). -/
  | atomic (op : AmoOp) (w : Bool) (rd : BitVec 5) (operand expected : Word)
  /-- TEST of a slot's tag (Table 4-7). -/
  | test (t : BitVec 5)
  /-- A steal (02 R55, 04 R120): none while arbitration holds it, else the entry it was served, or 0, and the cycle of that
  service. -/
  | steal (rd : BitVec 5) (res : Option (Word × Nat))
deriving DecidableEq, Repr

/-- An outstanding load, atomic, TEST or held steal (02 R36). -/
structure OutLoad where
  kind   : LoadKind
  /-- module-view address, and the partition-view address of CLU_CORE_EXC_ADDR -/
  addr   : Nat
  vaddr  : Nat
  /-- place in the core's program order of memory operations (R37) -/
  seq    : Nat
  /-- cycle of issue, for aging (09 R211) -/
  issued : Nat
  aged   : Bool
  /-- PC of the instruction, for a machine check (03 R80) -/
  pc     : W32
  /-- its core was restarted before it returned: its register is no longer written -/
  dead   : Bool := false
deriving DecidableEq, Repr

/-- A buffered store (02 R36): byte i of data goes to addr + i where bit i of mask is 1. -/
structure BufStore where
  addr   : Nat
  data   : Slot
  mask   : Word
  seq    : Nat
  /-- FENCE.STORE mark: it takes effect after every store whose seq is below it (03 R84) -/
  after  : Nat
  issued : Nat
  aged   : Bool
deriving DecidableEq, Repr

/-- What a core in WAITING waits for (Table 2-15). -/
inductive WaitOn where
  | fullEmpty
  /-- a timeout: the module time at issue, and the ticks to wait (04 R121) -/
  | event (rd : BitVec 5) (timeout : Option (Word × Word))
  | queueSpace (words : List Word)
deriving DecidableEq, Repr

/-- A steal that a deque served (02 R55): the cycle, the entry it gave or 0, the thief, and the place of the steal among the
thief's outstanding loads by its seq. -/
structure Stolen where
  cycle : Nat
  word  : Word
  thief : Fin 128
  seq   : Nat
deriving DecidableEq, Repr

/-- What an exception replaced when it was delivered, so that a halt request of the same cycle finds it pending (02 R65): the
cycle, the core's mode, PC and place in its handler, the bits of CLU_EVENT that the exception set anew, and what it reported. -/
structure Delivered where
  cycle     : Nat
  mode      : CoreMode
  pc        : W32
  inHandler : Bool
  event     : BitVec 4
  report    : BitVec 4
deriving DecidableEq, Repr

/-- One sliver core (Table 3-1, Tables 2-15 to 2-17, 3-9, 4-5, 4-11). -/
structure Core where
  sregs      : SMap Word := []
  vregs      : SMap Slot := []
  pregs      : SMap Word := []
  pc         : W32 := 0
  mode       : CoreMode := .reset
  excPending : Bool := false
  /-- HALT was accepted and issued instructions are completing (R64); the cycle in which it was accepted (R65) -/
  haltReq    : Bool := false
  haltCycle  : Nat := 0
  startPc    : W32
  handler    : W32 := 0
  cause      : Byte := 0
  nested     : Bool := false
  excPc      : W32 := 0
  excAddr    : BitVec 48 := 0
  /-- between entry to the handler and its return (R62, R90) -/
  inHandler  : Bool := false
  scratch0   : Word := 0
  scratch1   : Word := 0
  cycles     : Word := 0
  retired    : Word := 0
  loads      : List OutLoad := []
  stores     : List BufStore := []
  memSeq     : Nat := 0
  /-- FENCE.FULL, FENCE.LOAD and FENCE.STORE marks in memSeq (03 R84) -/
  fullFence  : Nat := 0
  loadFence  : Nat := 0
  storeFence : Nat := 0
  /-- candidate queue, ascending (04 R107) -/
  cq         : List Word := []
  /-- the queue before the first operation of the cycle named (R109) -/
  cqWas      : Option (Nat × List Word) := none
  latch      : Bool := false
  /-- task deque, top first, and how many entries from the top are visible to steals (02 R52-R55) -/
  deque      : List Word := []
  dqVisible  : Nat := 0
  /-- the last steal that was served from this deque (R55) -/
  stole      : Option Stolen := none
  wait       : Option WaitOn := none
  /-- a full/empty access that waits at its bank: module-view address, cycle of arrival, aged (09 R209, R211) -/
  feAt       : Option (Nat × Nat × Bool) := none
  /-- the exception delivered last (R65) -/
  delivered  : Option Delivered := none
deriving DecidableEq, Repr

/-- Base of core k's core-local window in the cluster address space (Table 9-1). -/
def imemBase (k : Nat) : Nat := 0x03000000 + k * 0x10000

/-- A core in RESET that no software has written to (R58, R59, Table 2-15 and below). -/
def Core.reset (k : Nat) : Core := { startPc := BitVec.ofNat 32 (imemBase (k % 128)) }

/-! ### Rings, matrix core, tile mover (02, 05, 07, 08) -/

/-- A ring of 64-byte entries (02 R44, R45). -/
structure Ring where
  base : W32 := 0
  size : BitVec 13 := 0
  tail : W32 := 0
  head : W32 := 0
deriving DecidableEq, Repr

/-- A tile mover descriptor that has started (02 R46): its eight words as read, the units of 4 KiB done and in all, and the
status found (0 while it runs well). -/
structure TmExec where
  q      : Fin 16
  words  : List Word
  status : Byte
  units  : Nat
  total  : Nat
  /-- nothing is left to do but the completion -/
  done   : Bool
  /-- TILE_PIN: entry of the Nougat table on which this descriptor holds the pin it took -/
  pinned : Option Nat
  /-- module-view addresses of source and destination -/
  src    : Nat
  dst    : Nat
  /-- COPY whose ranges intersect: the source as it stood at the start, and the counter its free bits come from (02 R508) -/
  snap   : List Byte
  ctr    : Nat
  /-- XFORM: the layout descriptors as read (06 R150) -/
  srcD   : List Word
  dstD   : List Word
  /-- cycle from which its next access waits at its banks, whether that access is aged, and the module-view ranges it names
  once it is (09 R211) -/
  since  : Nat
  aged   : Bool := false
  claim  : List (Nat × Nat) := []
deriving DecidableEq, Repr

/-- A tensor command that is executing (02 R41), with its words, the step latched (20 R459) and whether a closing GUARD
re-dispatched it (07 R179). -/
structure MxExec where
  words : List Word
  step  : W32
  rerun : Bool
  /-- a command of the open layer (07 R178) -/
  layer : Bool
  /-- OFMT in force, widened in a re-run -/
  ofmt  : BitVec 4
  /-- layout descriptors read at the start, source then destination (06 R150) -/
  srcD  : List Word
  dstD  : List Word
  /-- cluster ranges read and written, start and length (02 R41) -/
  reads  : List (Nat × Nat)
  writes : List (Nat × Nat)
  /-- watches armed at dispatch for its TAG and step (20 R460, R461) -/
  watch : List (Fin 4)
deriving DecidableEq, Repr

/-- A tensor watch record to be written (20 R461): the watch, the STORE's words, latched step and re-run mark, the time of
its completion, its destination descriptor with the ESIZE used, its destination footprint and its block scales. -/
structure Dump where
  w     : Fin 4
  words : List Word
  step  : W32
  rerun : Bool
  time  : Word
  dstD  : List Word
  foot  : Nat × Nat
  scales : Nat × Nat
deriving DecidableEq, Repr

/-- A closing GUARD whose re-run is under way (07 R179): its words, the commands still to dispatch, the error met. -/
structure Closing where
  words : List Word
  rest  : List (List Word × W32)
  error : Byte
deriving DecidableEq, Repr

/-- MXC_GUARD_STAT and the kept commands (07 R178, R185). -/
structure Guard where
  layer     : Half := 0
  lastRerun : Bool := false
  opened    : Bool := false
  count     : W32 := 0
  kept      : List (List Word × W32) := []
  closing   : Option Closing := none
deriving DecidableEq, Repr

/-- A function slot (08 R186): empty, a built-in function, a segment table or a micro-program (the image's bytes). -/
inductive FnSlot where
  | empty
  | builtin (n : Fin 12)
  | segments (image : List Byte)
  | program (image : List Byte)
deriving DecidableEq, Repr

/-- What slot n holds after assignment (08 R186). -/
def FnSlot.reset (n : Nat) : FnSlot := if h : n < 12 then .builtin ⟨n, h⟩ else .empty

/-- The kinds of full/empty accesses that can be held (Table 4-7). -/
inductive FeKind where
  | ldf | ldfe | stef
deriving DecidableEq, Repr

/-- A held full/empty access (04 R116, 09 R214). -/
structure HeldFe where
  core  : Fin 128
  kind  : FeKind
  v     : Bool
  t     : BitVec 5
  /-- cluster address -/
  addr  : W32
  /-- the data of STEF, read at issue -/
  data  : Slot
deriving DecidableEq, Repr

/-- A held steal (02 R55, R56): the thief, its destination register, and the victim, none for "any". -/
structure HeldSteal where
  thief  : Fin 128
  rd     : BitVec 5
  victim : Option (Fin 128)
deriving DecidableEq, Repr

/-- A spill FIFO (16 R369-R371): tail and middle on the hub side, the head stage with the cycle from which each entry is
visible to pops, and the depth as last synchronised. -/
structure Spill where
  tail   : List Word := []
  /-- the middle: number of its oldest entry and the entries in it; their words are bytes of the D1 hub reserve -/
  midAt  : Nat := 0
  midLen : Nat := 0
  head   : List (Word × Nat) := []
  /-- cycles in which pops of the last 3 cycles removed an entry (16 R371) -/
  popped : List Nat := []
  /-- pushes that wait in the hub while the FIFO appears full (16 R371) -/
  held   : List Word := []
deriving DecidableEq, Repr

/-- An access to a cluster's register block that waits for its wake (21 R477): a write of a register, or a read by a requester of size bytes
at an offset. -/
inductive WakeAccess where
  | write (o : Nat) (v : Word)
  | read (w : Requester) (o size : Nat)
deriving DecidableEq, Repr

/-- The commit record that the hub executes (10 R242). -/
structure CommitExec where
  words  : List Word
  status : Byte
  units  : Nat
  /-- waits for its range lock or for buffer space -/
  lock   : Option Nat
  /-- the data of the units read, in order -/
  data   : List Unit4K
deriving DecidableEq, Repr

/-- What an index-read record that is taken still waits for (14 R325, R327, R332): the decoded unit, or a slot of the Praline unit. -/
inductive IxWait where
  | unit
  | slot (data : Unit4K)
deriving DecidableEq, Repr

/-- An index-read record taken (14 R321): its serial number in its cluster, its words, the namespace its checks found, what it waits
for (none: nothing is left but its completion), the status found, its output bytes and count. -/
structure IxExec where
  id     : Nat
  words  : List Word
  nsid   : Nat
  wait   : Option IxWait := none
  status : Byte
  out    : List Byte
  count  : Nat
deriving DecidableEq, Repr

/-- One cluster (02 Tables 2-8 to 2-13, 05, 07, 08, 09, 10, 14, 16, 17, 18, 20). -/
structure Cluster where
  quiesce      : Bool := false
  quiesceAbort : Bool := false
  /-- CLU_EVENT: 0 MXC_FAULT, 1 CORE_FAULT, 2 MACHINE_CHECK, 3 RING_FAULT -/
  event        : BitVec 4 := 0
  tmq          : SMap Ring := []
  commit       : Ring := {}
  ixr          : Ring := {}
  ftx          : Ring := {}
  /-- order in which entries were made waiting by tail writes, by cycle and then by queue (R46): key q * 4096 + index, value
  cycle * 16 + q + 1 -/
  tailSeq      : SMap Nat := []
  /-- queue that the tile mover's round-robin reaches next (R46) -/
  tmTurn       : BitVec 4 := 0
  tmExec       : List TmExec := []
  commitExec   : Option CommitExec := none
  ixExec       : List IxExec := []
  /-- serial number of the next index-read record -/
  ixNext       : Nat := 0
  mxcFault     : Bool := false
  mxq          : List (List Word) := []
  mxExec       : List MxExec := []
  /-- core whose turn the issue arbitration reaches next (02 R39) -/
  mxTurn       : BitVec 7 := 0
  dumps        : List Dump := []
  ringFault    : Word := 0
  heldSteals   : List HeldSteal := []
  held         : List HeldFe := []
  /-- round-robin pointer of each bank, key the bank's number in the cluster (09 R210) -/
  rr           : SMap (BitVec 7) := []
  /-- corrected words waiting for their write-back (09 R215): cluster word addresses -/
  writebacks   : List Nat := []
  memRefused   : Bool := false
  zeroising    : Bool := false
  age          : Byte := 0x20
  /-- form of the array (05 R130), and its stationary and shadow weight registers by physical row and column, as element codes; cells
  that are not listed hold 0 (05 R125, R128, R132) -/
  form         : BitVec 2 := 0
  weights      : List (List Nat) := []
  shadow       : List (List Nat) := []
  grd          : Guard := {}
  reruns       : W32 := 0
  slots        : SMap FnSlot := []
  tileReason   : SMap Word := []
  reqBase      : BitVec 48 := 0
  reqSlots     : Half := 0
  reqKib       : Half := 0
  spill        : Spill := {}
  intf         : Word := 0
  /-- stall cycles of the 1 ms window stallWin, and of the window before it (17 R394) -/
  stalls       : Nat := 0
  stallsWas    : Nat := 0
  stallWin     : Nat := 0
  step         : W32 := 0
  /-- one more than the cycle of the last trace record (20 R464); 0 none -/
  traced       : Nat := 0
  /-- MOD_CLU_PWR: STATE 0 running, 1 gated, 2 off, 3 waking; and what the wake is from -/
  pstate       : BitVec 2 := 0
  wakeFrom     : BitVec 2 := 0
  gateEn       : Bool := true
  offEn        : Bool := false
  cur          : BitVec 5 := 0x18
  setStep      : BitVec 5 := 0x18
  /-- register accesses that wait for the wake (21 R477) -/
  wakeWrites   : List WakeAccess := []
  /-- QUIESCE was set by a Madder cut (18 R421) -/
  cutQuiesce   : Bool := false
  /-- position of the SRAM scrubber in each bank (11 R254) -/
  scrubPos     : Nat := 0
deriving DecidableEq, Repr

/-! ### Stored errors (11) -/

/-- A named position of a stored code word is inverted by a pattern (11 R256). -/
structure Flip where
  pos : Nat
  pat : Nat
deriving DecidableEq, Repr

/-- An injection register pair (Table 11-7). -/
structure Inject where
  addr    : BitVec 48 := 0
  pattern : Half := 0
  beat    : Byte := 0
  posB    : Byte := 0
  posA    : Byte := 0
  npos    : BitVec 2 := 0
  refused : Bool := false
  arm     : Bool := false
deriving DecidableEq, Repr

/-- A scrub register (Table 11-6). -/
structure Scrub where
  enable   : Bool := true
  interval : W32
deriving DecidableEq, Repr

/-- A hub error-log record (Table 11-9). -/
structure EccRec where
  w0 : Word := 0
  w1 : Word := 0
  w2 : Word := 0
  w3 : Word := 0
deriving DecidableEq, Repr

/-! ### Partitions, jobs, tiles (10, 14, 17) -/

/-- Table 17-10 STATE. -/
inductive JobState where
  | none | loaded | running | ending | vacating | restoring | loading
deriving DecidableEq, Repr

/-- Where a request to a service came from (16 R355, 18 R416). -/
inductive ReqSource where
  | host (h : Hdr) (respMax : Nat)
  | fabric (src : BitVec 16) (srcPart : BitVec 4) (vc : BitVec 3) (ord : Bool) (id : BitVec 40) (respMax : Nat)
  /-- the completion was discarded by a reset: the response is dropped (R360) -/
  | dropped
deriving DecidableEq, Repr

structure Job where
  state    : JobState := .none
  endCause : Option EndCause := none
  kof      : BitVec 8 := 0
  endTime  : Word := 0
  version  : Word := 0
  service  : Half := 0
  starts   : List CoreId := []
  kofOpt   : Bool := false
  /-- how the ending job ends, and the Job Control command that waits for it -/
  ending   : Option EndCause := none
  waiter   : Option Hdr := none
  target   : Option (BitVec 10 × BitVec 64) := none
  /-- cycle in which the end began (17 R393), and the cores that then ran or waited (17 R386) -/
  endCycle : Nat := 0
  ran      : List CoreId := []
deriving DecidableEq, Repr

/-- A tensor watch (Table 20-4). -/
structure Watch where
  data  : WatchData
  dumps : Nat
  full  : Bool
  /-- next block of the log area to be written -/
  next  : Nat
deriving DecidableEq, Repr

structure Partition where
  cfg      : Option PartRec := none
  bindings : SMap (Option Binding) := []
  /-- pin ledger: Nougat index to count (10 R229) -/
  ledger   : SMap Nat := []
  job      : Job := {}
  /-- slots in use and who waits for their response; requests waiting for a slot (16 R355) -/
  slots    : List (Nat × ReqSource × Word) := []
  requests : List (ReqSource × List Byte) := []
  watches  : SMap (Option Watch) := []
  /-- HUB_PCNT(p, i) -/
  pcnt     : SMap Word := []
  /-- the counters as they were at the start of the 1 ms window edgeWin (20 R458) -/
  edge     : SMap Word := []
  edgeWin  : Nat := 0
  snapshot : SMap Word := []
  fracs    : List Half := []
  window   : W32 := 0
  group    : Half := 0
  grpRef   : Bool := false
deriving DecidableEq, Repr

/-- Table 10-5. -/
structure Nougat where
  nsid    : BitVec 10
  tile    : BitVec 36
  size    : BitVec 12
  owner   : BitVec 4
  sgt     : Half
  pin     : Nat
  pmask   : BitVec 12
  st      : BitVec 4
  inD1    : Bool
  inD2    : Bool
  d1Loc   : W32
  d2Loc   : W32
  lastUse : Word
  /-- a copy is being written at d1Loc, at d2Loc: by a promotion or a heal (R235, R239) -/
  need1   : Bool := false
  need2   : Bool := false
  /-- damaged copies that the heal fetches again (R239) -/
  heals   : Nat := 0
  /-- its tile was written while a TILE_PIN whose pin is gone still copied from it: no pin finds it, and it is freed when that copy
  ends (R237) -/
  stale   : Bool := false
deriving DecidableEq, Repr

/-! ### Flash and translation (12, 13) -/

/-- A program or erase that a die runs or holds suspended (12 R270). -/
inductive DieOpKind where
  /-- the pages of one wordline, three in each of one to four planes (12 Table 12-1) -/
  | program (pages : List Nat)
  | erase (planes : BitVec 4) (block : Fin 2760)
deriving DecidableEq, Repr

inductive DieOpState where
  | running | suspending | suspended
deriving DecidableEq, Repr

structure DieOp where
  kind     : DieOpKind
  st       : DieOpState
  /-- module time of the suspend request, and the total suspended, in ticks (12 R272) -/
  suspAt   : Word
  suspTot  : Word
deriving DecidableEq, Repr

/-- A read of a codeword at the media (12 R262): page key and codeword; the partition whose share it uses, none for the hub's own work
(17 R378); and the index-read records that wait for it, by cluster and serial number (14 R329). -/
structure FlashRead where
  page : Nat
  cw   : Fin 4
  part : Option (Fin 12) := none
  ix   : List (Fin 32 × Nat) := []
deriving DecidableEq, Repr

structure Die where
  op       : Option DieOp := none
  /-- reads waiting at the die (12 R262) -/
  reads    : List FlashRead := []
  /-- senses running, one per plane -/
  senses   : List (Fin 4 × FlashRead) := []
  /-- one more than the number of the die-time turn in which a plane last sensed (17 R378) -/
  turned   : SMap Nat := []
  /-- wordline programs that gather their pages or wait: page keys -/
  programs : List (List Nat) := []
  failed   : Bool := false
  /-- blocks retired in service (12 R279) -/
  retired  : Nat := 0
  /-- next block quad of a Block Erase sanitize (13 R308) -/
  sanQuad  : Nat := 0
deriving DecidableEq, Repr

structure Channel where
  hold     : BitVec 15 := 0
  failed   : Bool := false
  /-- codewords transferred and waiting for the LDPC slot -/
  toLdpc   : List FlashRead := []
  /-- slots that the further decoding of codewords takes before the next one enters (12 R267) -/
  busy     : Nat := 0
  /-- index-read records whose decoded codeword waits for a slot of the Praline unit (12 R267, 14 R327) -/
  toPraline : List (Fin 32 × Nat) := []
  /-- LDPC slots that each partition has used in the present frame (17 R394) -/
  used     : SMap Nat := []
deriving DecidableEq, Repr

structure Ldpc where
  /-- slots passed, modulo 256: the channel within the engine, then the position in that channel's frame of 64 -/
  slot     : Nat := 0
  inflight : List FlashRead := []
  /-- codewords that the first pass did not correct, and whether step 2 has been tried; and codewords that a rebuild is to serve (12
  R268) -/
  recover  : List (FlashRead × Bool) := []
  rebuild  : List FlashRead := []
deriving DecidableEq, Repr

structure Block where
  reads   : W32 := 0
  /-- multiples of READ_SCAN whose scan is done (12 R277) -/
  scanned : Nat := 0
  /-- State.lossReads when the counter was set to 0 -/
  base    : W32 := 0
  retired : Bool := false
  /-- scheduled for refresh with its highest corrected-bit count (12 R278) -/
  refresh : Option Nat := none
  /-- its valid data is refreshed: it may be erased alone -/
  moved   : Bool := false
deriving DecidableEq, Repr

/-- What a unit written to F is: a logical unit of a namespace, a page of a namespace's map, or a page of the map journal (13 R290). -/
inductive UnitKind where
  | unit | mapPage | journal
deriving DecidableEq, Repr

/-- A codeword of a programmed page (12 R265). -/
structure CodeWord where
  kind  : UnitKind := .unit
  /-- the unit it belongs to, none in parity and padding: namespace and logical unit; namespace and map page; 0 and journal page -/
  owner : Option (BitVec 10 × BitVec 38)
  /-- the data before encryption, and the generation of the key it is encrypted under (19 R439) -/
  data  : Unit4K
  key   : Nat
  /-- a unit marked lost (13 R283) -/
  lost  : Bool := false
  /-- its place in the write order of its band, in units (13 R283, R287) -/
  seq   : Nat := 0
  /-- pages of its stripe (12 R273, 13 R287) -/
  width : Nat := 32
  /-- its 4,320 bytes as they lie in the page, scrambled (12 R265) -/
  media : BitVec 34560 := 0
  /-- steps 1 to 3 of 12 Table 12-4 do not correct it on its own die -/
  bad   : Bool
deriving DecidableEq, Repr

/-- A unit in the write buffer (01 R25). -/
structure BufUnit where
  nsid  : BitVec 10
  unit  : BitVec 38
  data  : Unit4K
  cls   : Class
  kind  : UnitKind := .unit
  /-- marked lost (13 R283) -/
  lost  : Bool := false
  /-- rewritten by reclaim, refresh or relocation, not by the host (13 R297) -/
  moved : Bool := false
  /-- unit of a tile namespace: the codeword it is programmed at while others of its map unit are not (13 R283) -/
  place : Option Nat := none
deriving DecidableEq, Repr

/-- A stripe being programmed: the band and the place in its write order of its first unit, its pages, the buffer units it carries
with their codewords (12 R273, R275). -/
structure Stripe where
  group   : Fin 30
  band    : Nat := 0
  first   : Nat := 0
  pages   : List Nat
  pending : List Nat
  units   : List (Nat × Fin 4 × BufUnit)
  failed  : Bool
deriving DecidableEq, Repr

/-- A map page in the map cache (13 R290): its key, and the number of the journal page that takes its oldest change not yet in F; none:
it is clean. -/
structure MapSlot where
  page  : Nat
  since : Option Nat := none
deriving DecidableEq, Repr

structure Namespace where
  kind      : NsKind
  blocks    : Nat
  attached  : List FnId := []
  /-- key tenant: none before the first attachment, some none the owner (19 R440) -/
  keyTenant : Option (Option (Fin 1024)) := none
  /-- generation of MEK_n, 0 none (19 R438) -/
  key       : Nat
  locked    : Bool := false
  /-- what was enabled first on it (19 Table 19-7) -/
  opal      : Bool := false
  kpio      : Bool := false
  writeProt : Bool := false
deriving DecidableEq, Repr

inductive BandState where
  | unused | free | opened | closed
  /-- out of use: no block was left to replace a retired one (12 R260) -/
  | dead
deriving DecidableEq, Repr

/-- A band (13 R286, R295). -/
structure Band where
  state  : BandState := .unused
  cls    : Class := .warm
  /-- order of closing and of freeing -/
  stamp  : Nat := 0
  erases : Nat := 0
  /-- next stripe to be written, and units of its write order that are passed -/
  next   : Nat := 0
  units  : Nat := 0
  /-- a band of the metadata stream (13 R290) -/
  isMeta : Bool := false
  /-- namespace and unit that its next stripe goes on with, where its last one ended within a map unit of a tile namespace (13 R283) -/
  carry  : Option (Nat × Nat) := none
deriving DecidableEq, Repr

inductive SanAction where
  | block | crypto
deriving DecidableEq, Repr

structure Sanitize where
  active  : Option SanAction := none
  failed  : Bool := false
  /-- key destruction committed, map reset still to do (13 R309) -/
  succeeded : Bool := false
deriving DecidableEq, Repr

/-- What the sections of a record of Ochre or Umber restore (13 Table 13-8), and the length of its bytes. -/
structure RootRec where
  seq      : W32
  time     : Word
  size     : Nat := 4096
  /-- FTL roots: namespace table, map page directory, and the first journal page to replay -/
  nss      : SMap (Option Namespace) := []
  dir      : SMap (Option Nat) := []
  replay   : Nat := 0
  marks    : List Word
  failed   : List (Nat × BitVec 15 × Bool)
  parts    : List (Option PartRec)
  arb      : ArbRec
  bindings : List (List (Option Binding))
  reserves : List W32
  /-- sanitize state, and the next block quad of each die (13 R308) -/
  san      : Sanitize
  quads    : List (Nat × Nat)
  /-- read counters by block (12 R276): count, base, and State.lossReads -/
  reads    : List (Nat × W32 × W32)
  lossReads : W32
deriving DecidableEq, Repr

/-! ### Host side (16) -/

/-- A host command that waits (16 R361, 13 R297, 01 R26, 16 R365). -/
inductive Held where
  /-- its range locks are entered and not yet granted -/
  | lockWait (locks : List Nat) (i : Instr)
  /-- the lock table is full -/
  | tableWait (i : Instr)
  /-- its data phase waits for buffer space; mute: its completion is discarded (R359) -/
  | bufferWait (locks : List Nat) (mute : Bool) (i : Instr)
  | wakeWait (i : Instr)
  | computeWait (i : Instr)
  /-- what the window admits of its tenant is used up; earlier windows admitted part bytes of it (R357) -/
  | qosWait (part : Nat) (i : Instr)
  /-- an operation accepted under MOD_OWNSEM that waits for a wake (R365, R367, R368) -/
  | semWait (i : Instr)
deriving DecidableEq, Repr

/-- One range lock (16 R361). -/
structure Lock where
  id    : Nat
  nsid  : BitVec 10
  first : Nat
  count : Nat
  read  : Bool
  granted : Bool
deriving DecidableEq, Repr

/-- Registers of a function's BAR0 that it may write: the controller registers, its doorbells, the MSI-X table and the pending bits (16
R351). -/
structure Bar0 where
  /-- controller configuration; bit 0 EN -/
  cc      : W32 := 0
  shst    : BitVec 2 := 0
  intMask : W32 := 0
  aqa     : W32 := 0
  asq     : Word := 0
  acq     : Word := 0
  bells   : SMap W32 := []
  /-- words of the MSI-X table, two for each vector -/
  msix    : SMap Word := []
  pend    : SMap Bool := []
deriving DecidableEq, Repr

structure Fn where
  online  : Bool
  pairs   : Nat
  vectors : Nat
  sqs     : SMap (Option (Half × Half)) := []
  cqs     : SMap (Option (Half × Half)) := []
  feats   : SMap W32 := []
  /-- outstanding Asynchronous Event Requests, and events waiting -/
  aers    : List Hdr := []
  events  : List (BitVec 8) := []
  /-- namespaces changed since page 0x04 was read (Table 16-4) -/
  changed : List Nat := []
  bar0    : Bar0 := {}
  /-- the table of the Autonomous Power State Transition feature: an entry for each power state (16 R365) -/
  apst    : List Word := []
deriving DecidableEq, Repr

/-- Key of a function in State.fns: 0 and 1 the physical functions, 2 + t tenant t. -/
def FnId.key : FnId → Nat
  | .pf .a => 0
  | .pf .b => 1
  | .vf t => 2 + t.val

/-- 16 R351: after reset a physical function holds 64 queue pairs and 65 vectors, a virtual function none, offline. -/
def Fn.reset (k : Nat) : Fn :=
  if k < 2 then { online := true, pairs := 64, vectors := 65 } else { online := false, pairs := 0, vectors := 0 }

structure PortSt where
  /-- PERST# is low: its contact is pulled down until the host drives it (22 Table 22-3) -/
  perst    : Bool := true
  linkUp   : Bool := false
  downAt   : Option Word := none
deriving DecidableEq, Repr

inductive PowerMove where
  | entering (target : Fin 5)
  | exiting (target : Fin 5)
deriving DecidableEq, Repr

/-- An error-log entry the hub or the firmware reports, by its kind (16 Table 16-4, 11 R259). -/
inductive LogKind where
  | eccRecord (r : EccRec)
  | auxLost | mainLost
  /-- flash addresses (12 R263) of the die, channel or codeword; 0 for a unit that lies in no codeword -/
  | dieFailed (fa : Nat) | channelFailed (fa : Nat) | unitLost (nsid : Nat) (unit : Nat) (fa : Nat)
  | holdupShort | hmbSuspended | kofSkipped (p : Nat) | rootRetry | noRecord | tagFailure (l : Nat)
  | announceConflict (lmn : Nat) | receptaclePower (r : Nat) | mgmtTakeover | standbyFailed | watchDisarmed (p : Nat)
  | moduleFault | partitionFault (p : Nat) | eraseBusyRead (fa : Nat)
  /-- the outcome of an operation under MOD_OWNSEM: its opcode and status (16 R368) -/
  | operation (opcode : Byte) (sct sc : Byte)
deriving DecidableEq, Repr

/-! ### Fabric (18) -/

inductive LinkState where
  | down | training | init | plain | secure | failed
deriving DecidableEq, Repr

structure Link where
  enable    : Bool := true
  st        : LinkState := .down
  peerFid   : Half := 0
  peerLink  : BitVec 6 := 0
  peerValid : Bool := false
  downs     : Byte := 0
  /-- number of the 10 s window that DOWNS counts -/
  downsWin  : Nat := 0
  present   : Bool := false
  lowPower  : Bool := false
  cnt       : SMap Word := []
  seqTx     : BitVec 12 := 0
  seqRx     : BitVec 12 := 0
  /-- waiting for a replay: flits are discarded until it comes (R401) -/
  replaying : Bool := false
  /-- flits sent and not acknowledged, oldest first, up to 256: SEQ and the packets whose last segment they carry (R402) -/
  replay    : List (BitVec 12 × List Packet) := []
  /-- how many times each of them has been replayed -/
  replayed  : List (BitVec 12 × Nat) := []
  keysel    : Bool := false
  epoch     : W32 := 0
  flits     : Word := 0
  keyAt     : Word := 0
  credits   : SMap Nat := []
  /-- packets received that wait for routing, and packets that wait to leave, the first of a channel partly gone -/
  rx        : List Packet := []
  tx        : List Packet := []
  /-- segments of each channel's first waiting packet that have left -/
  placed    : SMap Nat := []
  /-- next turn of the frame of 100, and by owner the channel its next turn looks at first (R412) -/
  turn      : Nat := 0
  nextVc    : SMap Nat := []
  /-- Indigo segments this module originated in a 10 µs window, and its Indigo packets beyond them (R411) -/
  indWin    : Nat := 0
  indSent   : Nat := 0
  indHeld   : List Packet := []
deriving DecidableEq, Repr

/-- A put tracker entry (18 R415). -/
structure Tracker where
  src  : Half
  id   : BitVec 40
  npkt : Nat
  got  : List Nat
  last : Word
  part : BitVec 4
  len  : Nat
deriving DecidableEq, Repr

/-- A fabric record taken and not complete (18 R413-R418). -/
structure Send where
  cl     : Fin 32
  part   : Nat
  isReq  : Bool
  words  : List Word
  id     : BitVec 40
  dst    : Half
  npkt   : Nat
  acked  : List Nat
  data   : List Byte
  resend : List (Nat × Word)
  start  : Word
  respMax : Nat
  got    : List Nat
  note   : W32
deriving DecidableEq, Repr

inductive CutState where
  | free | holding | done | failed | superseded | resumed
deriving DecidableEq, Repr

structure Cut where
  st        : CutState := .free
  group     : Half := 0
  epoch     : Half := 0
  action    : Bool := false
  depth     : Byte := 0
  h         : Byte := 0
  initiator : Bool := false
  parent    : Option (Fin 36) := none
  ticks     : Word := 0
  since     : Word := 0
  /-- links on which a CUT_ACK is awaited; links whose CUT_DONE is awaited -/
  awaitAck  : List (Fin 36) := []
  awaitDone : List (Fin 36) := []
  deepest   : Byte := 0
  /-- records taken from the group's rings are no longer taken -/
  hold      : Bool := false
deriving DecidableEq, Repr

structure Suspect where
  fid   : Half
  kind  : Byte
  win   : Nat
  count : W32
deriving DecidableEq, Repr

structure Incident where
  first   : Word := 0
  last    : Word := 0
  suspect : Half := 0
  kind    : Byte := 0
  reports : W32 := 0
  opened  : Bool := false
deriving DecidableEq, Repr

structure TlogRec where
  w0 : Word := 0
  w1 : Word := 0
  w2 : Word := 0
  w3 : Word := 0
deriving DecidableEq, Repr

/-- A request of several packets that is arriving (18 R416). -/
structure Arriving where
  src  : Half
  id   : BitVec 40
  npkt : Nat
  got  : List (Nat × List Byte)
deriving DecidableEq, Repr

structure Fabric where
  fmFid    : Half := 0
  fmValid  : Bool := false
  reqTo    : BitVec 15 := 0x3E8
  putTo    : Byte := 0x0A
  tsync    : Byte := 0x0A
  ttl      : BitVec 6 := 0x20
  annEn    : Bool := true
  fid      : Half := 0
  lmn      : Half := 0
  epoch    : Half := 0
  valid    : Bool := false
  route    : SMap W32 := []
  lmns     : SMap Word := []
  cutGroup : Half := 0
  cutEpoch : Half := 0
  cutAction : Bool := false
  cutRefused : Bool := false
  cuts     : SMap Cut := []
  suspects : List Suspect := []
  /-- (suspect, kind, window) of reports already sent in a window (R424) -/
  reported : List (Half × Byte × Nat) := []
  incidents : SMap Incident := []
  incNext  : BitVec 7 := 0
  incLost  : W32 := 0
  tlog     : SMap TlogRec := []
  tlogNext : Nat := 0
  tracker  : List Tracker := []
  history  : List (Half × BitVec 40 × Word) := []
  sends    : List Send := []
  arriving : List Arriving := []
  nextId   : Nat := 0
  /-- packets delivered to this module (18 R408) that their engine has not yet taken -/
  inbox    : List Packet := []
deriving DecidableEq, Repr

/-! ### Security (19) -/

inductive DebugState where
  | closed | openNi | openInv
deriving DecidableEq, Repr

inductive IslandState where
  | held | verifying | running | recovery
deriving DecidableEq, Repr

/-- Configuration flash registers of one management processor (Table 19-16). -/
structure CflProc where
  code  : Byte := 0
  xbank : BitVec 4 := 0xF
  busy  : Bool := false
  buf   : SMap Byte := []
deriving DecidableEq, Repr

inductive CflOp where
  | program (addr : Nat)
  | erase (addr : Nat)
deriving DecidableEq, Repr

structure CflBank where
  op : Option (Fin 2 × CflOp × SMap Byte) := none
  /-- hub cycle in which it was accepted (Table 19-4) -/
  at_ : Nat := 0
deriving DecidableEq, Repr

inductive LowerStep where
  | erasing (ticket : Nat)
deriving DecidableEq, Repr

/-- SPDM state of one transport (19 R450). -/
structure Spdm where
  version  : Bool := false
  caps     : Bool := false
  algs     : Bool := false
  handshake : Bool := false
  session  : Bool := false
deriving DecidableEq, Repr

structure Sec where
  otp       : SMap Word := []
  otpLock   : SMap Bool := []
  debugSt   : DebugState := .closed
  /-- tenant and tenant-namespace keys cleared until a module reset with debug CLOSED (R448) -/
  withheld  : Bool := false
  island    : IslandState := .held
  fabOwner  : Bool := false
  ownerFw   : Bool := false
  nonces    : List (BitVec 256 × Word) := []
  lowering  : Option LowerStep := none
  /-- generation counter of media keys, Key Per I/O tags injected -/
  keyGen    : Nat := 0
  /-- function that injected it, tag -/
  kpio      : List (Nat × BitVec 16) := []
  tenantKeys : SMap Nat := []
  storeSeq  : W32 := 0
  fw        : SMap (Option FwImage) := []
  activeSlot : Fin 2 := 0
  nextSlot  : Fin 2 := 0
  staged    : Option FwImage := none
  procs     : SMap CflProc := []
  banks     : SMap CflBank := []
  spdmNvme  : SMap Spdm := []
  spdmI3c   : Spdm := {}
  spdmLink  : SMap Spdm := []
  tapIr     : Byte := 0xFF
  tapAddr   : BitVec 48 := 0
  tapData   : Word := 0
  tapErr    : Bool := false
deriving DecidableEq, Repr

/-! ### Management, power, start-up (20, 21, 22) -/

/-- The step of Table 21-4 that has been reached. -/
inductive Stage where
  | off | alwaysOn | verified | storage | d2Trained | d2Filled | rootsLoaded | ready
deriving DecidableEq, Repr

inductive ComputeStage where
  | off | powered | trained | filled | ready
deriving DecidableEq, Repr

/-- A record of the management mirror (20 R466): what the new active processor takes over. -/
structure MirrorRec where
  seq     : W32
  time    : Word := 0
  size    : Nat := 4096
  modLog  : List LogKind
  errLog  : List (Hdr × Byte × Byte)
  fns     : List (Nat × SMap W32 × List (BitVec 8) × List Word)
  watches : List (SMap (Option Watch))
deriving DecidableEq, Repr

structure Mgmt where
  mirrorInt : Half := 0x3C
  takeovers : Half := 0
  standbyOk : Bool := true
  active    : Fin 2 := 0
  beatAt    : Word := 0
  /-- when the last mirror record was written -/
  mirrorAt  : Option Word := none
  /-- by DBG_CTL (19 R449) -/
  halted    : Bool := false
  /-- what the records of the mirror slots say, by their offset in the configuration flash -/
  mirrors   : SMap (Option MirrorRec) := []
deriving DecidableEq, Repr

structure Power where
  mainIn    : Bool := false
  auxIn     : Bool := false
  stage     : Stage := .off
  compute   : ComputeStage := .off
  holdupOk  : Bool := false
  pstate    : Fin 5 := 0
  move      : Option PowerMove := none
  /-- a wake that waits for the entry to end: 2 or 0 -/
  wakeTo    : Option (Fin 5) := none
  pcap      : Half := 0x5DC
  throttled : Bool := false
  capped    : Bool := false
  watts     : Half := 0
  tempMax   : Byte := 0
  lastReset : BitVec 3 := 1
  dirtyLosses : W32 := 0
  /-- the last power-loss sequence did not complete (13 R305) -/
  torn      : Bool := false
  /-- module time at which a power-loss sequence started (22 R497) -/
  lossAt    : Option Word := none
  moduleFault : Bool := false
  fatal     : Bool := false
  /-- J1 contacts of SAMPLE: A2 PERST_A#, A3 PERST_B#, A4 RESET#, A5 X16_SEL, B2 SCL, B3 SDA, B4 ALERT# (22 R487, R489) -/
  contacts  : BitVec 7 := 0x74
  led       : Bool := false
deriving DecidableEq, Repr

/-! ### What the module sends out -/

/-- Outputs of the module, in order: NVMe completions and data, packets and flits on links, SPDM responses, sideband. -/
inductive Out where
  /-- completion of a command: status code type, status code, Dword 0 -/
  | completion (h : Hdr) (sct sc : Byte) (dw0 : W32)
  | units (h : Hdr) (data : List Unit4K)
  | bytes (h : Hdr) (data : List Byte)
  | words (h : Hdr) (data : List Word)
  /-- entries of the Module Error Log -/
  | events (h : Hdr) (l : List LogKind)
  | asyncEvent (h : Hdr) (kind : BitVec 8)
  /-- a flit: SEQ, ACK, NAK, CVC and CREDITS, and the packets whose last segment it carries -/
  | flit (l : Fin 36) (seq ack : BitVec 12) (nak : Bool) (cvc : BitVec 3) (credits : Nat) (pk : List Packet)
  | spdm (v : SpdmVia) (code : Byte) (data : List Word)
  | unsupportedRequest (p : Port)
  | registerData (w : Requester) (v : Word)
  | bar0Data (f : FnId) (v : Word)
  | tap (data : BitVec 66)
  | mi
  /-- the 20 ms pulse of WAKE# (22 Table 22-3) -/
  | wakePulse
  | codeword (page : Nat) (cw : Fin 4) (data : Option Unit4K)
  /-- a record of 4,160 bytes written to a slot of the host memory buffer (13 R291) -/
  | hmbWrite (slot : Nat) (record : List Byte)
  | eventToMgmt (cl : Fin 32) (ev : BitVec 4)
deriving DecidableEq, Repr

/-- Variants (00 Table 0-1). -/
inductive Variant where
  | v245 | v123
deriving DecidableEq, Repr

/-! ### The module -/

structure State where
  /-- commands that wait, first in, first out -/
  pending  : List Instr := []
  /-- module time counter (00 R7) -/
  time     : Word := 0
  /-- the model's cycle count, and the counter of free values drawn -/
  cycle    : Nat := 0
  /-- one more than the cycle in which a hardware event last set a W1C bit; 0 none (00 R6). Keys: W1C -/
  setAt    : SMap Nat := []
  freeCtr  : Nat := 0
  variant  : Variant := .v245
  outbox   : List Out := []
  /-- bytes of D1, D2 and the cluster windows by module-view address (01 R20) -/
  mem      : List Host.Cell := []
  /-- bytes of the configuration flash by offset; unlisted bytes read 0xFF -/
  cfl      : List Host.Cell := []
  /-- three tag copies of each 64-byte slot, key module-view address / 64 (04 R112, 09 R213) -/
  tags     : SMap (BitVec 3) := []
  /-- errors stored in code words: SRAM by address / 8, D1 by address / 64, D2 by address / 16 (11 R256) -/
  flips    : SMap (List Flip) := []
  cores    : SMap Core := []
  clusters : SMap Cluster := []
  parts    : SMap Partition := []
  arb      : ArbRec := { isolated := false, d1Share := ⟨0, 0⟩, d2Share := ⟨0, 0⟩, rsvd := 0 }
  nougat   : SMap (Option Nougat) := []
  shareEn  : Bool := false
  shareRef : Bool := false
  tileHeals : Word := 0
  /-- codes (11) -/
  scrubD1  : Scrub := { interval := 0x1A318 }
  scrubD2  : Scrub := { interval := 0x68C61 }
  scrubSr  : Scrub := { interval := 0xF4240 }
  scrubPos : SMap Nat := []
  inject   : SMap Inject := []
  eccCe    : SMap Word := []
  eccCk    : SMap Word := []
  eccUe    : SMap Word := []
  eccLog   : SMap EccRec := []
  eccNext  : BitVec 6 := 0
  eccLost  : W32 := 0
  /-- log records not read since they were written -/
  eccUnread : List Nat := []
  d2Mark   : SMap Word := []
  /-- flash media (12) -/
  dies     : SMap Die := []
  chans    : SMap Channel := []
  ldpc     : SMap Ldpc := []
  blocks   : SMap Block := []
  /-- added to every read counter at losses in which they were not saved (12 R276) -/
  lossReads : W32 := 0
  /-- erases of every block by Block Erase sanitizes (13 R307) -/
  erasedAll : Nat := 0
  cwords   : SMap (Option CodeWord) := []
  stripes  : List Stripe := []
  suspCtl  : Word := 0x144B000000180006
  rdCtl    : Word := 0x000186A000600010
  /-- translation (13) -/
  nss      : SMap (Option Namespace) := []
  nsMap    : SMap Word := []
  buffer   : List BufUnit := []
  bufCap   : Nat := 262144
  bands    : SMap Band := []
  bandStamp : Nat := 0
  /-- blocks that replace a band's bad block: key the block of the band's number in its plane, value the replacing block's number
  (12 R260) -/
  spares   : SMap Nat := []
  /-- the map cache, least recently used first; where F holds each map page, by codeword (13 R290) -/
  mapCache : List MapSlot := []
  mapDir   : SMap (Option Nat) := []
  /-- map changes not yet in a journal page, oldest first: key and entry; the number of the next journal page -/
  journalTail : List (Nat × Word) := []
  journalSeq : Nat := 0
  /-- bytes of map journal since the last commit (13 R302) -/
  journal  : Nat := 0
  /-- contents of the records written to Ochre and Umber, by configuration flash offset (13 R299) -/
  rootRecs : SMap (Option RootRec) := []
  /-- offset and SEQ of the newest valid record, and module time of the last commit, as the FTL keeps them (13 R300, R302) -/
  rootAt   : Option Nat := none
  rootSeq  : W32 := 0
  rootTime : Word := 0
  /-- bytes programmed for writes and commits in the 1 ms window named, by partition, 12 the hub's own (17 Table 17-3, 13 R298) -/
  wrWin    : Nat := 0
  wrUsed   : SMap Nat := []
  mediaCtl : Word := 0x1905_0000_012C_0802
  reserve  : SMap W32 := []
  hmbFails : W32 := 0
  hmbSusp  : Bool := false
  hmbOn    : Bool := false
  /-- generation of the buffer's key, its slots, the GEN of each slot and the map page it holds (13 R291, R292) -/
  hmbKey   : Nat := 0
  hmbSlots : Nat := 0
  hmbGens  : SMap Nat := []
  hmbPages : SMap (Option Nat) := []
  /-- number of the 1 s window in which a record last failed, and the failures in it -/
  hmbWin   : Nat := 0
  hmbNow   : Nat := 0
  critWarn : BitVec 5 := 0
  readOnly : Bool := false
  san      : Sanitize := {}
  /-- search (14) -/
  ctx      : SMap (BitVec 2048) := []
  ctxUp    : SMap Bool := []
  prlPart  : SMap Word := []
  prlMerge : Bool := true
  prlRef   : Bool := false
  prlCnt   : SMap Word := []
  /-- host side (16) -/
  fns      : SMap Fn := []
  ports    : SMap PortSt := []
  x16      : Bool := false
  ownsem   : BitVec 2 := 0
  locks    : List Lock := []
  nextLock : Nat := 0
  heldCmds : List Held := []
  qosIso   : Bool := false
  qosIsoNow : Bool := false
  /-- number of the 1 ms window that vfNow counts -/
  qosWin   : Nat := 0
  vfQos    : SMap Word := []
  vfStat   : SMap Word := []
  /-- commands and bytes admitted in this window, by tenant, and 1024 and 1025 the physical functions of ports A and B (16 R357) -/
  vfNow    : SMap (Nat × Nat) := []
  /-- bytes that earlier windows admitted of the waiting command that is being run; 0 between commands -/
  qosPart  : Nat := 0
  /-- module time of the last completion (16 R365) -/
  cmdAt    : Word := 0
  rangeSets : SMap (Option (Fin 12 × Bool)) := []
  modLog   : List LogKind := []
  errLog   : List (Hdr × Byte × Byte) := []
  /-- fabric (18) -/
  links    : SMap Link := []
  fab      : Fabric := {}
  /-- receptacles (22 R493): power class advertised, in tenths of a watt -/
  cables   : SMap (Option Nat) := []
  /-- security (19) -/
  sec      : Sec := {}
  /-- counters and management (20) -/
  traceBase : Half := 0
  traceMask : BitVec 15 := 0
  traceEn  : Bool := false
  traceHead : Word := 0
  mgmt     : Mgmt := {}
  /-- power (21) -/
  pow      : Power := {}
deriving DecidableEq, Repr

/-- Why the machine stops with a fault. No rule of the spec stops the module; the model stops on nothing either, and this
reason is raised by no command. -/
inductive Fault where
  /-- raised by no command (safe) -/
  | unreachable
deriving DecidableEq, Repr

/-- Why a command is refused. Every row has its meaning, so no command is. -/
inductive Refusal where
  /-- what Dispatch would raise for a row that has no meaning yet (safe) -/
  | notModelled (mnemonic : String)
deriving DecidableEq, Repr

/-- The answer of a step. -/
abbrev Result := Host.Outcome State Fault Refusal

/-- The OTP row as the module ships (19 R430, R505): RAISE(0) locked, no owner enrolled. -/
def Sec.reset : Sec := { otp := [], otpLock := [(0x24, true)], fw := [(0, some ⟨false, 0, 0, true, true⟩)] }

/-- The module right after the power-on reset (21 R482): nothing is powered, every register holds its reset value, D1, D2
and the SRAM read as after their fill (01 R31). -/
def State.reset : State := { sec := Sec.reset }

end Sys2Proof.Machine
end

