-- ==== Sys2Proof/Machine/Access.lean ====
section
/-! DEFINITION. Reading and updating the parts of State by their numbers (00 R2): cores, clusters, partitions, links,
functions, channels, dies. Every read and write of a part goes through these. -/

namespace Sys2Proof.Machine

open Sys2Proof

def State.core (s : State) (c : CoreId) : Core := SMap.get Core.reset s.cores (c.cl.val * 128 + c.k.val)
def State.setCore (s : State) (c : CoreId) (v : Core) : State := { s with cores := SMap.set Core.reset s.cores (c.cl.val * 128 + c.k.val) v }
def State.updCore (s : State) (c : CoreId) (f : Core → Core) : State := s.setCore c (f (s.core c))

def State.cluster (s : State) (c : Fin 32) : Cluster := SMap.get (fun _ => {}) s.clusters (c.val)
def State.setCluster (s : State) (c : Fin 32) (v : Cluster) : State := { s with clusters := SMap.set (fun _ => {}) s.clusters (c.val) v }
def State.updCluster (s : State) (c : Fin 32) (f : Cluster → Cluster) : State := s.setCluster c (f (s.cluster c))

def State.part (s : State) (c : Fin 12) : Partition := SMap.get (fun _ => {}) s.parts (c.val)
def State.setPart (s : State) (c : Fin 12) (v : Partition) : State := { s with parts := SMap.set (fun _ => {}) s.parts (c.val) v }
def State.updPart (s : State) (c : Fin 12) (f : Partition → Partition) : State := s.setPart c (f (s.part c))

def State.link (s : State) (c : Fin 36) : Link := SMap.get (fun _ => {}) s.links (c.val)
def State.setLink (s : State) (c : Fin 36) (v : Link) : State := { s with links := SMap.set (fun _ => {}) s.links (c.val) v }
def State.updLink (s : State) (c : Fin 36) (f : Link → Link) : State := s.setLink c (f (s.link c))

def State.fn (s : State) (c : FnId) : Fn := SMap.get Fn.reset s.fns (FnId.key c)
def State.setFn (s : State) (c : FnId) (v : Fn) : State := { s with fns := SMap.set Fn.reset s.fns (FnId.key c) v }
def State.updFn (s : State) (c : FnId) (f : Fn → Fn) : State := s.setFn c (f (s.fn c))

def State.die (s : State) (c : DieId) : Die := SMap.get (fun _ => {}) s.dies (c.ch.val * 16 + c.die.val)
def State.setDie (s : State) (c : DieId) (v : Die) : State := { s with dies := SMap.set (fun _ => {}) s.dies (c.ch.val * 16 + c.die.val) v }
def State.updDie (s : State) (c : DieId) (f : Die → Die) : State := s.setDie c (f (s.die c))

def State.chan (s : State) (c : Fin 64) : Channel := SMap.get (fun _ => {}) s.chans (c.val)
def State.setChan (s : State) (c : Fin 64) (v : Channel) : State := { s with chans := SMap.set (fun _ => {}) s.chans (c.val) v }
def State.updChan (s : State) (c : Fin 64) (f : Channel → Channel) : State := s.setChan c (f (s.chan c))

def State.ldpcOf (s : State) (c : Fin 16) : Ldpc := SMap.get (fun _ => {}) s.ldpc (c.val)
def State.setLdpcOf (s : State) (c : Fin 16) (v : Ldpc) : State := { s with ldpc := SMap.set (fun _ => {}) s.ldpc (c.val) v }
def State.updLdpcOf (s : State) (c : Fin 16) (f : Ldpc → Ldpc) : State := s.setLdpcOf c (f (s.ldpcOf c))

def State.port (s : State) (c : Port) : PortSt := SMap.get (fun _ => {}) s.ports ((match c with | .a => 0 | .b => 1))
def State.setPort (s : State) (c : Port) (v : PortSt) : State := { s with ports := SMap.set (fun _ => {}) s.ports ((match c with | .a => 0 | .b => 1)) v }
def State.updPort (s : State) (c : Port) (f : PortSt → PortSt) : State := s.setPort c (f (s.port c))

def State.injectOf (s : State) (c : Fin 3) : Inject := SMap.get (fun _ => {}) s.inject (c.val)
def State.setInjectOf (s : State) (c : Fin 3) (v : Inject) : State := { s with inject := SMap.set (fun _ => {}) s.inject (c.val) v }
def State.updInjectOf (s : State) (c : Fin 3) (f : Inject → Inject) : State := s.setInjectOf c (f (s.injectOf c))

/-- The W1C bits of the module (00 R6), as keys of State.setAt: CLU_EVENT by bit, CLU_MEM_STATUS.REFUSED, and the bits of
the hub that a hardware event or another writer sets. -/
inductive W1c where
  | event (cl : Fin 32) (b : Fin 4)
  | memRefused (cl : Fin 32)
  | shareRefused
  | injRefused (m : Fin 3)
  | prlRefused
  | grpRefused (p : Fin 12)
  | cutRefused
  | incident (n : Nat)
deriving DecidableEq, Repr

def W1c.key : W1c → Nat
  | .event cl b => cl.val * 8 + b.val
  | .memRefused cl => cl.val * 8 + 4
  | .shareRefused => 256
  | .injRefused m => 257 + m.val
  | .prlRefused => 260
  | .grpRefused p => 264 + p.val
  | .cutRefused => 280
  | .incident n => 512 + n

/-- A W1C bit is set in this cycle. -/
def State.setBit (s : State) (b : W1c) : State :=
  { s with setAt := SMap.set (fun _ => 0) s.setAt b.key (s.cycle + 1) }

/-- Whether a write of 1 leaves a W1C bit set, because it was set in this same cycle (00 R6). -/
def State.justSet (s : State) (b : W1c) : Bool := SMap.get (fun _ => 0) s.setAt b.key == s.cycle + 1

/-- A W1C bit that holds old after a write whose bit is w (00 R5, R6). -/
def State.w1c (s : State) (b : W1c) (old w : Bool) : Bool := old && (!w || s.justSet b)

/-- Every cluster of a list. -/
def State.updClusters (s : State) (cs : List (Fin 32)) (f : Cluster → Cluster) : State :=
  cs.foldl (fun t c => t.updCluster c f) s

/-- Cores 0 to 127 of a cluster (00 R2). -/
def allCores : List (Fin 128) := List.finRange 128
def allClusters : List (Fin 32) := List.finRange 32
def allParts : List (Fin 12) := List.finRange 12
def allLinks : List (Fin 36) := List.finRange 36

/-- The counter of free values moves past a value that was drawn (log 1, 2). -/
def State.drawn (s : State) : State := { s with freeCtr := s.freeCtr + 1 }

/-- Put one output at the end of the outbox (log 8). -/
def State.emit (s : State) (o : Out) : State := { s with outbox := s.outbox ++ [o] }

/-- Put one report at the end of the module's log (16 Table 16-4, 11 R259). -/
def State.log (s : State) (k : LogKind) : State := { s with modLog := s.modLog ++ [k] }

end Sys2Proof.Machine
end

