-- ==== Sys2Proof/Machine/Bytes.lean ====
section
/-! DEFINITION. Little-endian values (00 R3) and CRC-32C (13 Table 13-7, 17 Table 17-5). -/

namespace Sys2Proof.Machine

open Sys2Proof

/-- n bytes of a number, the least significant first. -/
def toBytes (v : Nat) : Nat → List Byte
  | 0 => []
  | n + 1 => BitVec.ofNat 8 v :: toBytes (v / 256) n

/-- The number whose bytes are given, the least significant first. -/
def ofBytes : List Byte → Nat
  | [] => 0
  | b :: d => b.toNat + 256 * ofBytes d

/-- The little-endian field of n bytes at offset o. -/
def field (d : List Byte) (o n : Nat) : Nat := ofBytes ((d.drop o).take n)

/-- Word i of bytes. -/
def imWord (d : List Byte) (i : Nat) : BitVec 64 := BitVec.ofNat 64 (field d (8 * i) 8)

/-- Data to be stored, each byte given. -/
def whole (d : List Byte) : List (Option Byte) := d.map some

/-- One bit of the reflected CRC with the Castagnoli polynomial. -/
def crcBit (c : BitVec 32) : BitVec 32 := if c.getLsbD 0 then (c >>> 1) ^^^ 0x82F63B78 else c >>> 1

def crcByte (c : BitVec 32) (b : Byte) : BitVec 32 :=
  crcBit (crcBit (crcBit (crcBit (crcBit (crcBit (crcBit (crcBit (c ^^^ b.zeroExtend 32))))))))

def crc32c (d : List Byte) : BitVec 32 := (d.foldl crcByte 0xFFFFFFFF) ^^^ 0xFFFFFFFF

end Sys2Proof.Machine
end

