-- ==== Sys2Proof/Machine/MapCache.lean ====
section
/-! DEFINITION. The map of the flash translation (13 R283, R284, R289 to R291): namespaces, map entries and map pages, the map cache,
the map journal and the records of the host memory buffer. State.nsMap holds what the map says; the map cache, F and the journal
hold it between them, page by page. -/

namespace Sys2Proof.Machine

open Sys2Proof

/-! ### Units and bytes -/

def unitBytes (u : Unit4K) : List Byte := toBytes u.toNat 4096
def ofUnit (d : List Byte) : Unit4K := BitVec.ofNat 32768 (ofBytes d)

/-! ### Namespaces -/

def State.ns (s : State) (n : Nat) : Option Namespace := SMap.get (fun _ => none) s.nss n
def State.setNs (s : State) (n : Nat) (v : Option Namespace) : State := { s with nss := SMap.set (fun _ => none) s.nss n v }

def State.nsIsTile (s : State) (n : Nat) : Bool :=
  match s.ns n with
  | some v => v.kind == .tile
  | none => false

/-! ### Map entries (13 Table 13-2) -/

def classCode (k : Class) : Nat :=
  match k with
  | .hot => 0
  | .warm => 1
  | .cold => 2
  | .frozen => 3

def classOf (w : Word) : Class :=
  match bits w 61 60 with
  | 0 => .hot
  | 1 => .warm
  | 2 => .cold
  | _ => .frozen

def mapEntry (k : Class) (fa : Nat) : Word := BitVec.ofNat 64 (2 ^ 63 + classCode k * 2 ^ 60 + fa)
def mapMapped (w : Word) : Bool := bit w 63
def mapLost (w : Word) : Bool := bit w 62
def mapCw (w : Word) : Nat := bits w 39 3
def lostEntry : Word := 0x4000000000000000

/-- Key of entry i of a namespace's map; its map page holds 512 consecutive keys (13 R289). -/
def mapKey (nsid i : Nat) : Nat := nsid * 2 ^ 38 + i

/-- The entry of a unit: a tile namespace has one for each 1 MiB (13 R282, R283). -/
def mapIndex (tile : Bool) (unit : Nat) : Nat := if tile then unit / 256 else unit

def State.unitKey (s : State) (nsid unit : Nat) : Nat := mapKey nsid (mapIndex (s.nsIsTile nsid) unit)

def State.mapAt (s : State) (nsid unit : Nat) : Word := SMap.get (fun _ => 0) s.nsMap (s.unitKey nsid unit)

/-! ### Map pages and the journal (13 R290, R302) -/

/-- The data of a map page: its 512 entries. -/
def State.mapPage (s : State) (pk : Nat) : Unit4K :=
  BitVec.ofNat 32768 ((List.range 512).foldr (fun i v => v * 2 ^ 64 + (SMap.get (fun _ => (0 : Word)) s.nsMap (pk * 512 + i)).toNat) 0)

/-- Entries of a map page read from F. -/
def pageEntries (pk : Nat) (u : Unit4K) : List (Nat × Word) :=
  (List.range 512).map fun i => (pk * 512 + i, BitVec.ofNat 64 (u.toNat / 2 ^ (64 * i)))

/-- Changes that a journal page holds, key and entry, 16 bytes each (log 54). -/
def journalChanges : Nat := 256

def journalPage (l : List (Nat × Word)) : Unit4K :=
  BitVec.ofNat 32768 (l.foldr (fun e v => v * 2 ^ 128 + e.2.toNat * 2 ^ 64 + e.1 % 2 ^ 64) 0)

/-- The changes of a journal page; key 0 names no entry, since namespaces are numbered from 1. -/
def journalEntries (u : Unit4K) : List (Nat × Word) :=
  ((List.range journalChanges).map fun i => (u.toNat / 2 ^ (128 * i) % 2 ^ 64, BitVec.ofNat 64 (u.toNat / 2 ^ (128 * i + 64)))).filter
    fun e => e.1 ≠ 0

/-- A unit of the metadata stream enters the write buffer; an older version of it there is superseded. -/
def State.bufferMeta (s : State) (kind : UnitKind) (nsid unit : Nat) (data : Unit4K) : State :=
  { s with buffer := (s.buffer.filter fun b => !(b.kind == kind && b.nsid.toNat = nsid && b.unit.toNat = unit)) ++
      [{ nsid := BitVec.ofNat 10 nsid, unit := BitVec.ofNat 38 unit, data := data, cls := .warm, kind := kind }] }

/-- The journal page that the tail fills, or that pads it, is written with the write buffer. -/
def State.cutJournal (s : State) : State :=
  let t := s.bufferMeta .journal 0 s.journalSeq (journalPage (s.journalTail.take journalChanges))
  { t with journalTail := s.journalTail.drop journalChanges, journalSeq := s.journalSeq + 1 }

/-- Dirty map pages go to the write buffer, from which the metadata stream writes them to F. -/
def State.saveMap (s : State) : State :=
  s.mapCache.foldl (fun (t : State) m =>
    match m.since with
    | some _ => t.bufferMeta .mapPage (m.page / 2 ^ 29) (m.page % 2 ^ 29) (s.mapPage m.page)
    | none => t) s

/-! ### The host memory buffer (13 R291, R292) -/

def hmbRecordBytes : Nat := 4160

/-- PAGE of a record (13 Table 13-4a). -/
def hmbPage (pk : Nat) : Nat := pk / 2 ^ 29 * 2 ^ 38 + pk % 2 ^ 29

def State.hmbGen (s : State) (j : Nat) : Nat := SMap.get (fun _ => 0) s.hmbGens j

/-- The record of slot j that holds a page (13 Table 13-4a): header, tag, encrypted page. The nonce is SLOT and GEN, the authenticated
data bytes 0 to 31. -/
def State.hmbRecord (s : State) (j pk : Nat) (data : Unit4K) : List Byte :=
  let gen := s.hmbGen j % 2 ^ 64
  let aad := j + gen * 2 ^ 64 + hmbPage pk * 2 ^ 128
  let nonce := j + gen * 2 ^ 32
  let page := Config.gcmPage s.hmbKey nonce data
  toBytes aad 32 ++ toBytes (Config.gcmTag s.hmbKey nonce aad page).toNat 16 ++ List.replicate 16 0 ++ unitBytes page

def State.hmbInUse (s : State) : Bool := s.hmbOn && !s.hmbSusp

/-- The slot that holds a page. -/
def State.hmbSlotOf (s : State) (pk : Nat) : Option Nat := (s.hmbPages.find? fun e => e.2 = some pk).map (·.1)

/-- Write slot j: its GEN goes up, and the record leaves for the host. -/
def State.hmbWrite (s : State) (j pk : Nat) : State :=
  let t := { s with hmbGens := SMap.upd (fun _ => 0) s.hmbGens j (· + 1), hmbPages := SMap.set (fun _ => none) s.hmbPages j (some pk) }
  { t with outbox := t.outbox ++ [.hmbWrite j (t.hmbRecord j pk (t.mapPage pk))] }

/-- A clean page that leaves the map cache goes to its slot, else to a free one; where none is free the page stays in F alone. -/
def State.hmbKeep (s : State) (pk : Nat) : State :=
  if !s.hmbInUse then s
  else match (s.hmbSlotOf pk).or ((List.range (min s.hmbSlots (s.hmbPages.length + 1))).find? fun j =>
      SMap.get (fun _ => (none : Option Nat)) s.hmbPages j = none) with
    | some j => s.hmbWrite j pk
    | none => s

/-- A page that changed is no longer what its slot holds. -/
def State.hmbDrop (s : State) (pk : Nat) : State :=
  match s.hmbSlotOf pk with
  | some j => { s with hmbPages := SMap.set (fun _ => none) s.hmbPages j none }
  | none => s

/-! ### The map cache (13 R290, Table 13-3) -/

/-- Pages of the map cache: 48 GiB. -/
def mapCachePages : Nat := 12582912

/-- The least recently used clean page leaves a full cache; where none is clean they are saved. Map pages of tile namespaces are the
working structures' and stay. -/
def State.fitCache (s : State) : State :=
  if s.mapCache.length ≤ mapCachePages then s
  else match s.mapCache.find? fun m => m.since.isNone && !s.nsIsTile (m.page / 2 ^ 29) with
    | some m => { s with mapCache := s.mapCache.erase m }.hmbKeep m.page
    | none => s.saveMap

/-- A page is used, and changed where dirty says so. -/
def State.cachePage (s : State) (pk : Nat) (dirty : Bool) : State :=
  let old := s.mapCache.find? fun m => m.page = pk
  let since := match old.bind (·.since) with
    | some n => some n
    | none => if dirty then some s.journalSeq else none
  State.fitCache { s with mapCache := (s.mapCache.filter fun m => m.page ≠ pk) ++ [{ page := pk, since := since }] }

/-- The entry with a key changes: in the map cache, and as a change in the journal. -/
def State.setEntry (s : State) (key : Nat) (w : Word) : State :=
  let t := (s.cachePage (key / 512) true).hmbDrop (key / 512)
  let u := { t with
    nsMap := SMap.set (fun _ => 0) s.nsMap key w, journal := s.journal + 16, journalTail := s.journalTail ++ [(key, w)] }
  if journalChanges ≤ u.journalTail.length then u.cutJournal else u

def State.setMap (s : State) (nsid unit : Nat) (w : Word) : State := s.setEntry (s.unitKey nsid unit) w

/-- A map page is in F at a codeword: it is clean unless it changed after it was saved. -/
def State.pageSaved (s : State) (pk k : Nat) (data : Unit4K) : State :=
  { s with
    mapDir := SMap.set (fun _ => none) s.mapDir pk (some k)
    mapCache := s.mapCache.map fun m => if m.page = pk && s.mapPage pk = data then { m with since := none } else m }

/-- The first journal page that a replay needs: the oldest with a change whose map page is not in F. -/
def State.replayFrom (s : State) : Nat :=
  s.mapCache.foldl (fun n m => match m.since with
    | some j => min n j
    | none => n) s.journalSeq

end Sys2Proof.Machine
end

