-- ==== Sys2Proof/Machine/Roots.lean ====
section
/-! DEFINITION. Bytes of the configuration flash (19 R431, R434), and the records of the Ochre and Umber banks within it (13 R299 to
R302). The spec gives no layout to the sections of a record: their bytes are free, and State.rootRecs holds what they say (log 107). -/

namespace Sys2Proof.Machine

open Sys2Proof

/-! ### Bytes of the configuration flash (19 R431, R434) -/

/-- A byte of the flash; erased bytes read 0xFF. -/
def State.cflByte (s : State) (a : Nat) : Byte := SMap.get (fun _ => (0xFF : Byte)) s.cfl a

def State.cflStore (s : State) (a : Nat) (d : List Byte) : State :=
  { s with cfl := d.zipIdx.foldl (fun m e => SMap.set (fun _ => (0xFF : Byte)) m (a + e.2) e.1) s.cfl }

/-- Bank 0 holds offsets below 0x0400_0000 (R431). -/
def cflBankOf (a : Nat) : Nat := a / 0x4000000

/-- Bytes that the spec leaves unspecified. -/
def State.cflFree (s : State) (a n : Nat) : State :=
  s.drawn.cflStore a ((List.range n).map (Config.freeStream s.freeCtr))

def CflOp.addr : CflOp → Nat
  | .program a => a
  | .erase a => a

/-- Bytes an operation covers: a page or a sector. -/
def CflOp.size : CflOp → Nat
  | .program _ => 256
  | .erase _ => 4096

/-- An image whose slot is written to is not verified. -/
def State.dropImage (s : State) (a : Nat) : State :=
  if a % 0x4000000 < 0x3000000 then { s with sec := { s.sec with fw := SMap.set (fun _ => none) s.sec.fw (cflBankOf a) none } } else s

/-- A reset or power loss during an operation leaves its page or sector unspecified (19 R434, 21 Table 21-6). -/
def State.cutCfl (s : State) : State :=
  s.sec.banks.foldl (fun (t : State) e => match e.2.op with
    | some x => (t.cflFree x.2.1.addr x.2.1.size).dropImage x.2.1.addr
    | none => t) s

/-! ### Records (13 R299, Table 13-7) -/

/-- Ochre and Umber: 8 MiB at the top of banks 0 and 1. -/
def regionBase (inOchre : Bool) : Nat := if inOchre then 0x3800000 else 0x7800000
def regionSize : Nat := 0x800000
def regionOf (a : Nat) : Bool := a < 0x4000000

/-- Header and descriptors of a record with n sections. -/
def recordFirst (n : Nat) : Nat := 64 + 8 * n

/-- The section descriptors: type, offset, length. -/
def recordSections (n size : Nat) : List Byte :=
  let k := (size - recordFirst n) / n
  (List.range n).flatMap fun i => toBytes ((i + 1) * 2 ^ 56 + (recordFirst n + k * i) * 2 ^ 28 + k) 8

/-- The bytes of a record: header, descriptors, sections. -/
def recBytes (seq : W32) (time : Word) (size format n : Nat) (byte : Nat → Byte) : List Byte :=
  let head (crc : Nat) : List Byte :=
    toBytes (seq.toNat * 2 ^ 32 + size) 8 ++ toBytes time.toNat 8 ++ toBytes (format * 2 ^ 16 + n * 2 ^ 8) 8 ++
      List.replicate 32 0 ++ toBytes (crc * 2 ^ 32) 8
  let rest := recordSections n size ++ (List.range (size - recordFirst n)).map byte
  head (crc32c (head 0 ++ rest)).toNat ++ rest

/-- Ochre and Umber: FORMAT 1, the seven sections of Table 13-8. -/
def recordBytes (r : RootRec) : List Byte := recBytes r.seq r.time r.size 1 7 (Config.rootByte r.seq.toNat)

def State.cflBytes (s : State) (a n : Nat) : List Byte := (List.range n).map fun i => s.cflByte (a + i)

/-- SEQ of the record at an offset. -/
def State.recordSeq (s : State) (a : Nat) : W32 := BitVec.ofNat 32 (ofBytes (s.cflBytes (a + 4) 4))

/-- 13 R301: LENGTH lies within bounds and the region, which ends at top, FORMAT is known, CRC matches. -/
def State.recValid (s : State) (format top a : Nat) : Bool :=
  let n := ofBytes (s.cflBytes a 4)
  4096 ≤ n && n ≤ 65536 && a + n ≤ top && ofBytes (s.cflBytes (a + 18) 2) = format &&
    crc32c (s.cflBytes a 60 ++ List.replicate 4 0 ++ s.cflBytes (a + 64) (n - 64)) = BitVec.ofNat 32 (ofBytes (s.cflBytes (a + 60) 4))

def State.recordValid (s : State) (a : Nat) : Bool := s.recValid 1 (regionBase (regionOf a) + regionSize) a

/-- 13 R301: a beats b. -/
def seqBeats (a b : W32) : Bool := 1 ≤ (a - b).toNat && (a - b).toNat < 2 ^ 31

/-- The better of two records by SEQ. -/
def betterRoot (b : Option (Nat × RootRec)) (e : Nat × RootRec) : Option (Nat × RootRec) :=
  match b with
  | some x => if seqBeats e.2.seq x.2.seq then some e else b
  | none => some e

/-- The winning record: of the valid ones in both regions, that with the greatest SEQ. -/
def State.newestRoot (s : State) : Option (Nat × RootRec) :=
  s.rootRecs.foldl (fun b e => match e.2 with
    | some r => if s.recordValid e.1 && s.recordSeq e.1 = r.seq then betterRoot b (e.1, r) else b
    | none => b) none

/-- The last record of a region's log. -/
def State.regionLast (s : State) (inOchre : Bool) : Option (Nat × RootRec) :=
  s.rootRecs.foldl (fun b e => match e.2 with
    | some r => if regionOf e.1 = inOchre then betterRoot b (e.1, r) else b
    | none => b) none

/-- Where a record goes in a region of len bytes at base: at the next free sector, else, its sectors erased first, at the region's start (13
R300). -/
def State.placeIn (s : State) (base len : Nat) (next : Option Nat) (size : Nat) : Nat :=
  let a := next.getD base
  if a + size ≤ base + len && (s.cflBytes a size).all (· = 0xFF) then a else base

def State.recordPlace (s : State) (inOchre : Bool) (size : Nat) : Nat :=
  s.placeIn (regionBase inOchre) regionSize ((s.regionLast inOchre).map fun x => x.1 + x.2.size) size

/-- The record a commit writes now. -/
def State.rootRecord (s : State) : RootRec :=
  { seq := s.rootSeq + 1
    time := s.time
    size := 4096 * (1 + Config.rootSectors (s.rootSeq + 1).toNat % 16)
    nss := s.nss
    dir := s.mapDir
    replay := s.replayFrom
    marks := (List.range 16).map fun g => SMap.get (fun _ => 0) s.d2Mark g
    failed := (List.range 64).map fun c =>
      (c, (List.range 15).foldl (fun (m : BitVec 15) d =>
          if (SMap.get (fun _ => ({} : Die)) s.dies (c * 16 + d)).failed then m ||| BitVec.ofNat 15 (2 ^ d) else m) 0,
        (SMap.get (fun _ => ({} : Channel)) s.chans c).failed)
    parts := allParts.map fun p => (s.part p).cfg
    arb := s.arb
    bindings := allParts.map fun p => (List.range 16).map fun i => SMap.get (fun _ => none) (s.part p).bindings i
    reserves := (List.range 4).map fun k => SMap.get (fun _ => 0) s.reserve k
    san := s.san
    quads := s.dies.filterMap fun e => if e.2.sanQuad = 0 then none else some (e.1, e.2.sanQuad)
    reads := s.blocks.filterMap fun e => if e.2.reads = 0 && e.2.base = 0 then none else some (e.1, e.2.reads, e.2.base)
    lossReads := s.lossReads }

/-- Records whose sectors are written are gone. -/
def State.dropRecords (s : State) (a n : Nat) : State :=
  { s with rootRecs := s.rootRecs.filter fun e => match e.2 with
      | some r => !(a < e.1 + r.size && e.1 < a + n)
      | none => true }

/-- A record is written at an offset. -/
def State.putRoot (s : State) (a : Nat) (r : RootRec) : State :=
  let t := (s.dropRecords a r.size).cflStore a (recordBytes r)
  { t with
    rootRecs := SMap.set (fun _ => none) t.rootRecs a (some r)
    rootAt := some a, rootSeq := r.seq, rootTime := s.time, journal := 0 }

/-- The record is written to Ochre or to Umber. -/
def State.writeRoot (s : State) (inOchre : Bool) : State :=
  s.putRoot (s.recordPlace inOchre s.rootRecord.size) s.rootRecord

/-- A power loss or reset tears the record being written: its sectors hold no value the spec states (13 R301). -/
def State.tearRoot (s : State) : State :=
  let inOchre := match s.rootAt with
    | some a => !regionOf a
    | none => true
  let n := s.rootRecord.size
  let a := s.recordPlace inOchre n
  (s.dropRecords a n).cflFree a n

/-- The bank of a region, 0 of Ochre and 1 of Umber, runs an operation of SEC_CFL_CMD, so that the commit's are refused (13 R299, 19 Table
19-3 code 0x01). -/
def State.rootBusy (s : State) (inOchre : Bool) : Bool :=
  (SMap.get (fun _ => ({} : CflBank)) s.sec.banks (if inOchre then 0 else 1)).op.isSome

/-- A root commit (13 R300, R302): dirty map pages go to F with the write buffer, and the record goes to the region that does not hold
the newest one; where that is refused, the commit is retried once in the other region and logged. -/
def State.commitRoot (s : State) : State :=
  let inOchre := match s.rootAt with
    | some a => !regionOf a
    | none => true
  if s.rootBusy inOchre then
    let t := s.log .rootRetry
    if t.rootBusy !inOchre then t else t.saveMap.writeRoot !inOchre
  else s.saveMap.writeRoot inOchre

end Sys2Proof.Machine
end

