-- ==== Sys2Proof/Machine/Mem.lean ====
section
/-! DEFINITION. The module's memory: the map of 01 R20 to R22 and 09 R205, the codes of 11 R243 to R250 with the errors
stored in code words, reads and writes of byte ranges by code words, and the full/empty tags (04 R112, 09 R213). -/

namespace Sys2Proof.Machine

open Sys2Proof

/-- Bytes by module-view address; unlisted bytes read 0 (01 R31). -/
abbrev Memory := List Host.Cell

def Memory.byte (m : Memory) (a : Nat) : Byte := SMap.get (fun _ => (0 : Byte)) m a
def Memory.put (m : Memory) (a : Nat) (b : Byte) : Memory := SMap.set (fun _ => (0 : Byte)) m a b
/-- The canonical form: addresses strictly rising and no byte equal to 0. -/
def Memory.wf (m : Memory) : Bool := SMap.wf (fun _ => (0 : Byte)) m

/-- Bytes a to a + n - 1. -/
def Memory.bytes (m : Memory) (a : Nat) : Nat → List Byte
  | 0 => []
  | n + 1 => m.byte a :: Memory.bytes m (a + 1) n

/-- Store the bytes that are given, from a on. -/
def Memory.store (m : Memory) (a : Nat) : List (Option Byte) → Memory
  | [] => m
  | none :: d => Memory.store m (a + 1) d
  | some b :: d => Memory.store (m.put a b) (a + 1) d

/-! ### The address map -/

def d1Top : Nat := 0x6000000000
def d1Reserve : Nat := 0x5FC0000000
def d2Base : Nat := 0x10000000000
def d2Reserve : Nat := 0x1B000000000
def d2Top : Nat := 0x1C000000000
def winBase : Nat := 0x20000000000
def winTop : Nat := 0x22000000000
def winSize : Nat := 0x100000000

/-- Where a module-view address lies (01 Table 1-5; 09 Table 9-1 within a cluster window). -/
inductive Loc where
  | d1
  | d2
  | sram (cl : Fin 32) (a : Nat)
  | unpopulated
deriving DecidableEq, Repr

/-- 01 R21, 09 R205. -/
def populated (a : Nat) : Bool := a < 0x02800000 || (0x03000000 ≤ a && a < 0x03800000)

def locate (a : Nat) : Loc :=
  if a < d1Top then .d1
  else if d2Base ≤ a && a < d2Top then .d2
  else if winBase ≤ a && a < winTop then
    if populated ((a - winBase) % winSize) then
      .sram ⟨(a - winBase) / winSize % 32, Nat.mod_lt _ (by decide)⟩ ((a - winBase) % winSize)
    else .unpopulated
  else .unpopulated

/-- Module-view address of a cluster address (01 Table 1-5). -/
def clusterAddr (cl : Fin 32) (a : Nat) : Nat := winBase + cl.val * winSize + a

/-- One memory of a cluster (09 Table 9-1). -/
inductive ClMem where
  | weight | act | psum
  | imem (k : Fin 128)
  | dmem (k : Fin 128)
deriving DecidableEq, Repr

/-- The memory that holds a cluster address (09 Table 9-1). -/
def clMemOf (a : Nat) : Option ClMem :=
  if a < 0x01000000 then some .weight
  else if a < 0x02000000 then some .act
  else if a < 0x02800000 then some .psum
  else if 0x03000000 ≤ a && a < 0x03800000 then
    let k : Fin 128 := ⟨(a - 0x03000000) / 0x10000 % 128, Nat.mod_lt _ (by decide)⟩
    if a % 0x10000 < 0x4000 then some (.imem k) else some (.dmem k)
  else none

/-- The memory that holds all of a range of n bytes, n at least 1. -/
def rangeMem (a n : Nat) : Option ClMem :=
  if clMemOf a = clMemOf (a + (n - 1)) then clMemOf a else none

/-- Whether a range of n bytes touches an instruction memory of the cluster. -/
def touchesImem (a n : Nat) : Bool :=
  n != 0 && a < 0x03800000 && 0x03000000 < a + n &&
    ((a % 0x10000 < 0x4000 && 0x03000000 ≤ a) || a % 0x10000 + n > 0x10000 || a < 0x03000000)

/-- Index i of the error counters (11 R258; 01 R22). -/
def eccIndex (a : Nat) : Nat :=
  match locate a with
  | .d1 => a / 4096 % 8
  | .d2 => 8 + (a - d2Base) / 4096 % 16
  | .sram cl _ => 24 + cl.val
  | .unpopulated => 0

/-! ### Who owns an address (10 R221, 17 Table 17-1) -/

inductive Owner where
  | region (p : Fin 12)
  | pool (p : Fin 12)
  | cluster (p : Fin 12)
  | sharePool
  | reserve
  | nobody
deriving DecidableEq, Repr

def Area.holds (ar : Area) (g : Nat) : Bool := ar.base.toNat ≤ g && g < ar.base.toNat + ar.gib.toNat

/-- The partition to which a cluster belongs (17 Table 17-1). -/
def State.partOf (s : State) (cl : Fin 32) : Option (Fin 12) :=
  allParts.find? fun p => match (s.part p).cfg with
    | some r => r.clusters.getLsbD cl.val
    | none => false

/-- The owner of a module-view address. -/
def State.ownerOf (s : State) (a : Nat) : Owner :=
  let pick (rg pl : PartRec → Area) (g : Nat) : Owner :=
    match allParts.find? (fun p => match (s.part p).cfg with | some r => Area.holds (rg r) g | none => false) with
    | some p => .region p
    | none =>
      match allParts.find? (fun p => match (s.part p).cfg with | some r => Area.holds (pl r) g | none => false) with
      | some p => .pool p
      | none => .nobody
  match locate a with
  | .d1 =>
    if d1Reserve ≤ a then .reserve
    else if Area.holds s.arb.d1Share (a / 2 ^ 30) then .sharePool
    else pick (·.d1Region) (·.d1Pool) (a / 2 ^ 30)
  | .d2 =>
    if d2Reserve ≤ a then .reserve
    else if Area.holds s.arb.d2Share ((a - d2Base) / 2 ^ 30) then .sharePool
    else pick (·.d2Region) (·.d2Pool) ((a - d2Base) / 2 ^ 30)
  | .sram cl _ =>
    match s.partOf cl with
    | some p => .cluster p
    | none => .nobody
  | .unpopulated => .nobody

/-- The partition, where there is one, whose SRAM, regions or pools hold an address (20 Table 20-2). -/
def Owner.part : Owner → Option (Fin 12)
  | .region p => some p
  | .pool p => some p
  | .cluster p => some p
  | _ => none

/-- Number of the 1 ms window that holds the present time (00 R8). -/
def State.msWindow (s : State) : Nat := s.time.toNat / 1000000

/-- The first event in a window leaves the counters as they were at its start, for the snapshot of the window before (20 R458). -/
def Partition.cross (q : Partition) (w : Nat) : Partition :=
  if q.edgeWin = w then q else { q with edge := q.pcnt, edgeWin := w }

/-- Add to a partition counter (20 Table 20-2). -/
def State.count (s : State) (p : Option (Fin 12)) (i n : Nat) : State :=
  match p with
  | none => s
  | some p => s.updPart p fun q =>
      { q.cross s.msWindow with pcnt := SMap.upd (fun _ => (0 : Word)) q.pcnt i (· + BitVec.ofNat 64 n) }

/-! ### The codes (11 R243 to R248) -/

/-- What reading a code word comes to. -/
inductive CodeClass where
  | good | data | check | bad
deriving DecidableEq, Repr

/-- A decoded code word: its class, the errors left in the data delivered (bits xored, little-endian), the syndrome, and the
unmarked device that was corrected. -/
structure Decoded where
  cls  : CodeClass
  mask : Nat
  syn  : Word
  dev  : Option Nat
deriving DecidableEq, Repr

def popCount (n v : Nat) : Nat := ((List.range n).filter fun i => v.testBit i).length

/-- The columns of the SRAM code (11 R244): 64 data bits, then 8 check bits. -/
def sramColumns : List Nat :=
  (List.range 256).filter (fun v => popCount 8 v = 3) ++ [0x1F, 0x2F, 0x37, 0x3B, 0x3D, 0x3E, 0x4F, 0x57] ++
    (List.range 8).map (fun j => 2 ^ j)

def sramColumn (p : Nat) : Nat := sramColumns.getD p 0

/-- The error at a position: the stored patterns xored. -/
def errorAt (f : List Flip) (p : Nat) : Nat :=
  (f.filter fun x => x.pos = p).foldl (fun e x => e ^^^ x.pat) 0

/-- A single-bit flip's pattern is 1 in SRAM (11 R256). -/
def sramDecode (f : List Flip) : Decoded :=
  let errs := (List.range 72).filter fun p => errorAt f p % 2 = 1
  let syn := errs.foldl (fun x p => x ^^^ sramColumn p) 0
  let raw := errs.foldl (fun x p => if p < 64 then x ^^^ 2 ^ p else x) 0
  if syn = 0 then ⟨.good, raw, 0, none⟩
  else if popCount 8 syn = 1 then ⟨.check, raw, BitVec.ofNat 64 syn, none⟩
  else match (List.range 64).find? (fun i => sramColumn i = syn) with
    | some i => ⟨.data, raw ^^^ 2 ^ i, BitVec.ofNat 64 syn, none⟩
    | none => ⟨.bad, raw, BitVec.ofNat 64 syn, none⟩

/-- Multiplication by the root alpha in GF(2^n), n bits, with the field polynomial given. -/
def gfStep (n poly v : Nat) : Nat := if v * 2 ≥ 2 ^ n then (v * 2) ^^^ poly else v * 2

/-- Multiplication by alpha^k. -/
def gfMulPow (n poly : Nat) : Nat → Nat → Nat
  | 0, v => v
  | k + 1, v => gfMulPow n poly k (gfStep n poly v)

/-- Syndrome j of errors given as (exponent, value). -/
def gfSyndrome (n poly j : Nat) (errs : List (Nat × Nat)) : Nat :=
  errs.foldl (fun x e => x ^^^ gfMulPow n poly (j * e.1) e.2) 0

/-- The syndrome symbols of w bits each, right-aligned, in one order or the other (11 Table 11-9). -/
def packSyndrome (w : Nat) (l : List Nat) : Word :=
  BitVec.ofNat 64 ((if Config.synLowFirst then l.reverse else l).foldl (fun x v => x * 2 ^ w + v % 2 ^ w) 0)

def d1Poly : Nat := 0x1100B
def d2Poly : Nat := 0x11D

/-- Exponent of a D1 position (11 R245): data symbol i is x^(i+3), check symbol c_j is x^j. -/
def d1Exp (p : Nat) : Nat := if p < 32 then p + 3 else p - 32

/-- 11 R245. -/
def d1Decode (f : List Flip) : Decoded :=
  let errs := ((List.range 35).map fun p => (p, errorAt f p % 2 ^ 16)).filter fun e => e.2 ≠ 0
  let es := errs.map fun e => (d1Exp e.1, e.2)
  let raw := errs.foldl (fun x e => if e.1 < 32 then x ^^^ (e.2 * 2 ^ (16 * e.1)) else x) 0
  let s0 := gfSyndrome 16 d1Poly 0 es
  let s1 := gfSyndrome 16 d1Poly 1 es
  let s2 := gfSyndrome 16 d1Poly 2 es
  let syn := packSyndrome 16 [s0, s1, s2]
  if s0 = 0 && s1 = 0 && s2 = 0 then ⟨.good, raw, 0, none⟩
  else match (List.range 35).find? (fun p => s0 ≠ 0 && gfMulPow 16 d1Poly (d1Exp p) s0 = s1 &&
      gfMulPow 16 d1Poly (d1Exp p) s1 = s2) with
    | some p =>
      if p < 32 then ⟨.data, raw ^^^ (s0 * 2 ^ (16 * p)), syn, none⟩ else ⟨.check, raw, syn, none⟩
    | none => ⟨.bad, raw, syn, none⟩

/-- Exponent of a D2 device (11 R247). -/
def d2Exp (j : Nat) : Nat := if j < 16 then j + 2 else j - 16

/-- Multiplication in GF(2^8). -/
def gf8Mul (x y : Nat) : Nat :=
  (List.range 8).foldl (fun z i => if y.testBit i then z ^^^ gfMulPow 8 d2Poly i x else z) 0

/-- The marked devices of a group (11 Table 11-8). -/
def d2Marks (w : Word) : List Nat :=
  (if bit w 5 then [bits w 4 0] else []) ++ (if bit w 13 then [bits w 12 8] else [])

/-- One beat of D2 under the marks of its group (11 R247, Table 11-2). -/
def d2Decode (marks : List Nat) (f : List Flip) : Decoded :=
  let errs := ((List.range 18).filter (fun p => !marks.contains p)).map (fun p => (p, errorAt f p % 256)) |>.filter
    fun e => e.2 ≠ 0
  let es := errs.map fun e => (d2Exp e.1, e.2)
  let at' (j v : Nat) : Nat := if j < 16 then v * 2 ^ (8 * j) else 0
  let raw := errs.foldl (fun x e => x ^^^ at' e.1 e.2) 0
  let s0 := gfSyndrome 8 d2Poly 0 es
  let s1 := gfSyndrome 8 d2Poly 1 es
  let syn := packSyndrome 8 [s0, s1]
  match marks with
  | [] =>
    if s0 = 0 && s1 = 0 then ⟨.good, raw, 0, none⟩
    else match (List.range 18).find? (fun p => s0 ≠ 0 && gfMulPow 8 d2Poly (d2Exp p) s0 = s1) with
      | some p => if p < 16 then ⟨.data, raw ^^^ at' p s0, syn, some p⟩ else ⟨.check, raw, syn, some p⟩
      | none => ⟨.bad, raw, syn, none⟩
  | [m] =>
    if gfMulPow 8 d2Poly (d2Exp m) s0 = s1 then ⟨.good, raw ^^^ at' m s0, 0, none⟩
    else ⟨.bad, raw, syn, none⟩
  | m :: m' :: _ =>
    let x := gfMulPow 8 d2Poly (d2Exp m) 1
    let y := gfMulPow 8 d2Poly (d2Exp m') 1
    match (List.range 256).find? (fun e => gf8Mul e (x ^^^ y) = s1 ^^^ gf8Mul s0 y) with
    | some e => ⟨.good, raw ^^^ at' m e ^^^ at' m' (s0 ^^^ e), 0, none⟩
    | none => ⟨.good, raw, 0, none⟩

/-! ### Storing whole code words (11 R256) -/

/-- Bytes of a code word (11 Table 11-1). -/
def codeSize (a : Nat) : Nat :=
  match locate a with
  | .d1 => 64
  | .d2 => 16
  | _ => 8

def State.flipsAt (s : State) (a : Nat) : List Flip := SMap.get (fun _ => []) s.flips (a / codeSize a)

def State.setFlips (s : State) (a : Nat) (f : List Flip) : State :=
  { s with flips := SMap.set (fun _ => []) s.flips (a / codeSize a) f }

/-- The injection pair that names the code word at a, with memory kind m (11 R256). -/
def State.injectionAt (s : State) (a : Nat) : Option (Fin 3) :=
  let named (m : Fin 3) : Bool :=
    let j := s.injectOf m
    j.arm && match m with
      | 0 => j.addr.toNat / 8 = a / 8
      | 1 => j.addr.toNat / 64 = a / 64
      | 2 => j.addr.toNat / 256 = a / 256 && (j.beat = 0xFF || j.beat.toNat = a % 256 / 16)
  match locate a with
  | .d1 => if named 1 then some 1 else none
  | .d2 => if named 2 then some 2 else none
  | .sram _ _ => if named 0 then some 0 else none
  | .unpopulated => none

/-- The flips an injection stores (11 R256). -/
def Inject.flips (j : Inject) (m : Fin 3) : List Flip :=
  let pat := match m with
    | 0 => 1
    | 1 => j.pattern.toNat
    | 2 => j.pattern.toNat % 256
  if pat = 0 then []
  else if j.npos = 1 then [⟨j.posA.toNat, pat⟩]
  else if j.npos = 2 then [⟨j.posA.toNat, pat⟩, ⟨j.posB.toNat, pat⟩]
  else []

/-- A write of an SRAM word abandons its pending write-back (11 R255). -/
def State.dropWriteback (s : State) (b : Nat) : State :=
  match locate b with
  | .sram cl o =>
    if (s.cluster cl).writebacks.contains (o / 8 * 8) then
      s.updCluster cl fun c => { c with writebacks := c.writebacks.filter fun x => x != o / 8 * 8 }
    else s
  | _ => s

/-- Store a code word's bytes and set its errors as an injection says (11 R256). -/
def State.storeWord (t : State) (b : Nat) (d : List (Option Byte)) : State × List (Fin 3) :=
  let s := t.dropWriteback b
  match s.injectionAt b with
  | some m => ({ s with mem := Memory.store s.mem b d }.setFlips b ((s.injectOf m).flips m), [m])
  | none => ({ s with mem := Memory.store s.mem b d }.setFlips b [], [])

/-- ARM clears when the write is performed (11 R256). -/
def State.disarm (s : State) (l : List (Fin 3)) : State :=
  l.foldl (fun t m => t.updInjectOf m fun j => { j with arm := false }) s

/-- Bytes i on of a code word at base b, with the errors left in them. -/
def maskedBytes (m : Memory) (b mask : Nat) (i : Nat) : Nat → List Byte
  | 0 => []
  | n + 1 => (m.byte (b + i) ^^^ BitVec.ofNat 8 (mask / 2 ^ (8 * i))) :: maskedBytes m b mask (i + 1) n

/-- Store the code word at b as its decoding gives it (09 R215, 11 R250, R254). -/
def State.rewrite (s : State) (b : Nat) (d : Decoded) : State :=
  let w := s.storeWord b (whole (maskedBytes s.mem b d.mask 0 (codeSize b)))
  w.1.disarm w.2

/-- Store whole code words as one write, errors and injections included; f the injections that fired. -/
def storeWhole : Nat → State → Nat → List Byte → List (Fin 3) → State
  | 0, s, _, _, f => s.disarm f
  | fuel + 1, s, a, d, f =>
    if d.isEmpty then s.disarm f
    else
      let u := codeSize a
      let r := s.storeWord a (whole (d.take u))
      storeWhole fuel r.1 (a + u) (d.drop u) (f ++ r.2)

/-! ### Trace (20 R463) -/

/-- Write one record of the trace ring, where HUB_TRACE_CTL enables the kind (20 Tables 20-7, 20-8, 20-10). -/
def State.trace (s : State) (kind : Nat) (part : Option (Fin 12)) (cluster core : Nat) (a1 a2 : Word) : State :=
  if s.traceEn && s.traceMask.getLsbD (kind - 1) then
    let p := match part with
      | some p => p.val
      | none => 0xF
    let w1 := kind * 2 ^ 56 + p * 2 ^ 52 + cluster * 2 ^ 47 + core * 2 ^ 40
    let a := d2Base + s.traceBase.toNat * 2 ^ 30 + s.traceHead.toNat % 33554432 * 32
    let d := toBytes s.time.toNat 8 ++ toBytes w1 8 ++ toBytes a1.toNat 8 ++ toBytes a2.toNat 8
    { storeWhole 32 s a d [] with traceHead := s.traceHead + 1 }
  else s

/-! ### Error counters and log (11 R250, R258, R259) -/

/-- SOURCE of an error-log record (11 Table 11-9). -/
inductive EccSource where
  | requester | scrub | rmw | injection
deriving DecidableEq, Repr

def EccSource.code : EccSource → Nat
  | .requester => 0
  | .scrub => 1
  | .rmw => 2
  | .injection => 3

/-- Write one record of the error log and report it (11 R259). -/
def State.eccRecord (s : State) (src : EccSource) (kind : Nat) (a : Nat) (syn : Word) (dev : Nat) : State :=
  let r : EccRec := { w0 := s.time
                      w1 := BitVec.ofNat 64 (src.code * 2 ^ 60 + kind * 2 ^ 56 + eccIndex a * 2 ^ 48 + a % 2 ^ 48)
                      w2 := syn
                      w3 := BitVec.ofNat 64 (dev % 256) }
  let n := s.eccNext.toNat
  let lost := s.eccUnread.contains n
  State.log
    { s with
      eccLog := SMap.set (fun _ => ({} : EccRec)) s.eccLog n r
      eccNext := s.eccNext + 1
      eccLost := if lost then s.eccLost + 1 else s.eccLost
      eccUnread := if lost then s.eccUnread else s.eccUnread ++ [n] } (.eccRecord r) |>.trace 8 none 0 0 r.w1 r.w2

/-- Count one decoded code word at address a (11 R250, R258; 20 Table 20-2). -/
def State.eccCount (s : State) (src : EccSource) (a : Nat) (d : Decoded) : State :=
  let z : Nat → Word := fun _ => 0
  let p := (s.ownerOf a).part
  match d.cls with
  | .good => s
  | .data => { s with eccCe := SMap.upd z s.eccCe (eccIndex a) (· + 1) }.count p 4 1
  | .check => { s with eccCk := SMap.upd z s.eccCk (eccIndex a) (· + 1) }.count p 5 1
  | .bad => ({ s with eccUe := SMap.upd z s.eccUe (eccIndex a) (· + 1) }.count p 6 1).eccRecord src 0 a d.syn 0xFF

/-! ### Reading -/

/-- Bytes of a code word or line; 256 in D2, whose corrections are made by line (11 R247). -/
def readUnitSize (a : Nat) : Nat :=
  match locate a with
  | .d1 => 64
  | .d2 => 256
  | _ => 8

/-- A read's result: the state, the bytes delivered, and the code words that were uncorrectable. -/
structure Got where
  st   : State
  data : List Byte
  ues  : List Nat

/-- The marks of the group that holds a D2 address (11 R248). -/
def State.marksAt (s : State) (a : Nat) : List Nat := d2Marks (SMap.get (fun _ => 0) s.d2Mark ((a - d2Base) / 4096 % 16))

/-- Mark a device of a D2 group, in the first field without a mark (11 R249); a mark is kept by a root commit (13 R302). -/
def State.markDevice (s : State) (g dev : Nat) : State :=
  let w : Word := SMap.get (fun _ => 0) s.d2Mark g
  let w' : Word := if bit w 5 then (w &&& 0x3F) ||| BitVec.ofNat 64 (0x2000 + dev * 256)
    else (w &&& 0x3F00) ||| BitVec.ofNat 64 (0x20 + dev)
  ({ s with d2Mark := SMap.set (fun _ => 0) s.d2Mark g w' }).commitRoot

/-- The beats of the line that holds a D2 address, decoded. -/
def State.d2Line (s : State) (a : Nat) : List Decoded :=
  (List.range 16).map fun b => d2Decode (s.marksAt a) (SMap.get (fun _ => []) s.flips (a / 256 * 16 + b))

/-- The unmarked devices that the corrections of a line point at. -/
def d2Devices (l : List Decoded) : List Nat :=
  (List.range 18).filter fun j => l.any fun d => d.dev == some j

/-- One beat as the line check leaves it (11 R247). -/
def d2Beat (l : List Decoded) (b : Nat) : Decoded :=
  let d := l.getD b ⟨.good, 0, 0, none⟩
  if (d2Devices l).length > 1 then { d with cls := .bad } else d

/-- The automatic mark of 11 R249. -/
def State.autoMark (s : State) (src : EccSource) (a : Nat) (l : List Decoded) : State :=
  match d2Devices l with
  | [j] =>
    if (l.filter fun d => d.dev == some j).length ≥ 8 && (s.marksAt a).length < 2 then
      (s.markDevice ((a - d2Base) / 4096 % 16) j).eccRecord src 1 (a / 256 * 256) 0 j
    else s
  | _ => s

/-- The decoded code word that holds address a. -/
def State.decodeAt (s : State) (a : Nat) : Decoded :=
  match locate a with
  | .d1 => d1Decode (s.flipsAt a)
  | .d2 => d2Beat (s.d2Line a) (a % 256 / 16)
  | _ => sramDecode (s.flipsAt a)

/-- What a read of a code word does beside delivering it: counts it, rewrites it where its check symbols are wrong, and in SRAM
queues the corrected word for its write-back (09 R215, 11 R250). -/
def State.afterRead (s : State) (src : EccSource) (a : Nat) (d : Decoded) : State :=
  let s1 := s.eccCount src a d
  match locate a with
  | .d1 => if d.cls = .check then s1.rewrite a d else s1
  | .d2 => if d.cls = .check then s1.rewrite a d else s1
  | .sram cl o =>
    if d.cls = .data || d.cls = .check then
      s1.updCluster cl fun c =>
        if c.writebacks.contains (o / 8 * 8) then c else { c with writebacks := c.writebacks ++ [o / 8 * 8] }
    else s1
  | .unpopulated => s1

/-- The lines of D2 among code words, each once. -/
def linesOf (ws : List Nat) : List Nat := ((ws.filter fun b => locate b == .d2).map fun b => b / 256 * 256).eraseDups

/-- What the read of code words, decoded as they stood, leaves: each is counted and repaired, then the lines of D2 are looked at for a
device to be marked, as they were decoded (11 R247, R249, R250). -/
def State.afterReads (s : State) (src : EccSource) (ws : List (Nat × Decoded)) : State :=
  if s.flips.isEmpty then s
  else
    (linesOf (ws.map (·.1))).foldl (fun (t : State) l => t.autoMark src l (s.d2Line l))
      (ws.foldl (fun (t : State) w => t.afterRead src w.1 w.2) s)

/-- The bytes and the decoded code words of a read of n bytes from a on. fuel is at least n. -/
def State.readLoop (s : State) : Nat → Nat → Nat → List Byte × List (Nat × Decoded)
  | 0, _, _ => ([], [])
  | fuel + 1, a, n =>
    if n = 0 then ([], [])
    else
      let u := codeSize a
      let i := a % u
      let k := min n (u - i)
      let d := s.decodeAt a
      let rest := s.readLoop fuel (a + k) (n - k)
      (maskedBytes s.mem (a - i) d.mask i k ++ rest.1, (a - i, d) :: rest.2)

/-- The code words that were uncorrectable. -/
def badWords (ws : List (Nat × Decoded)) : List Nat := (ws.filter fun w => w.2.cls == .bad).map (·.1)

/-- Read n bytes at a module-view address. -/
def State.readRaw (s : State) (src : EccSource) (a n : Nat) : Got :=
  let r := s.readLoop n a n
  ⟨s.afterReads src r.2, r.1, badWords r.2⟩

/-! ### Writing -/

/-- A write's result: the state, the code words whose write was discarded (11 R252), the injections that fired. -/
structure Put where
  st    : State
  ues   : List Nat
  fired : List (Fin 3)

/-- The bytes of a code word as a read-modify-write stores them: those given, and the others as decoded. -/
def mergeWord (m : Memory) (b mask : Nat) (i : Nat) : List (Option Byte) → List (Option Byte)
  | [] => []
  | some x :: d => some x :: mergeWord m b mask (i + 1) d
  | none :: d => some (m.byte (b + i) ^^^ BitVec.ofNat 8 (mask / 2 ^ (8 * i))) :: mergeWord m b mask (i + 1) d

/-- The read of a read-modify-write of the code word at b (11 R249, R251). -/
def State.rmwRead (s : State) (b : Nat) (d : Decoded) : State :=
  if s.flips.isEmpty then s
  else
    let t := s.eccCount .rmw b d
    if locate b = .d2 then t.autoMark .rmw b (s.d2Line b) else t

/-- Write one code word at base b; d has one entry for each of its bytes (11 R251, R252). -/
def State.writeWord (s : State) (b : Nat) (d : List (Option Byte)) : Put :=
  if d.all (·.isNone) then ⟨s, [], []⟩
  else if d.all (·.isSome) then
    let r := s.storeWord b d
    ⟨r.1, [], r.2⟩
  else
    let dec := s.decodeAt b
    let s1 := s.rmwRead b dec
    if dec.cls = .bad then ⟨s1, [b], []⟩
    else
      let r := s1.storeWord b (mergeWord s.mem b dec.mask 0 d)
      ⟨r.1, [], r.2⟩

/-- Write from a on, code word by code word. fuel is at least the number of bytes. -/
def writeLoop : Nat → State → Nat → List (Option Byte) → Put
  | 0, s, _, _ => ⟨s, [], []⟩
  | fuel + 1, s, a, d =>
    match d with
    | [] => ⟨s, [], []⟩
    | _ =>
      let u := codeSize a
      let i := a % u
      let k := min d.length (u - i)
      let w := s.writeWord (a - i) (List.replicate i none ++ d.take k ++ List.replicate (u - i - k) none)
      let rest := writeLoop fuel w.st (a + k) (d.drop k)
      ⟨rest.st, w.ues ++ rest.ues, w.fired ++ rest.fired⟩

/-- Write bytes at a module-view address; the code words whose write was discarded are returned. -/
def State.writeRaw (s : State) (a : Nat) (d : List (Option Byte)) : State × List Nat :=
  let r := writeLoop d.length s a d
  (r.st.disarm r.fired, r.ues)

/-- The code words an armed injection names (11 R256). -/
def Inject.words (j : Inject) (m : Fin 3) : List Nat :=
  let a := j.addr.toNat
  match m with
  | 0 => [a / 8 * 8]
  | 1 => [a / 64 * 64]
  | 2 => if j.beat = 0xFF then (List.range 16).map (fun b => a / 256 * 256 + b * 16)
         else [a / 256 * 256 + j.beat.toNat * 16]

/-- An injection that a fill of n bytes from a on fires (11 R256: the write counts whoever makes it, fill included). -/
def State.fireOnFill (s : State) (a n : Nat) (m : Fin 3) : State :=
  let j := s.injectOf m
  let ws := (j.words m).filter fun w => a ≤ w && w < a + n && s.injectionAt w == some m
  if ws.isEmpty then s
  else (ws.foldl (fun t w => t.setFlips w (j.flips m)) s).disarm [m]

/-- The fill alone. -/
def State.clearRange (s : State) (a n : Nat) : State :=
  { s with
    mem := s.mem.filter fun c => !(a ≤ c.1 && c.1 < a + n)
    flips := s.flips.filter fun e =>
      let b := match e.1 with
        | k => if k < d1Top / 64 then k * 64 else if k < d2Top / 16 then k * 16 else k * 8
      !(a ≤ b && b < a + n) }

/-- A fill with whole zero code words: n bytes from a on read 0, no error is stored but an injection's (11 R253, R256,
09 R216). -/
def State.zeroFill (s : State) (a n : Nat) : State :=
  (((s.clearRange a n).fireOnFill a n 0).fireOnFill a n 1).fireOnFill a n 2

/-! ### Full/empty tags (04 R112, 09 R213) -/

def majority (t : BitVec 3) : Bool := popCount 3 t.toNat ≥ 2

/-- Whether the slot that holds a module-view address is full. -/
def State.tagFull (s : State) (a : Nat) : Bool := majority (SMap.get (fun _ => 0) s.tags (a / 64))

/-- Set the tag of the slot that holds a module-view address. -/
def State.setTag (s : State) (a : Nat) (full : Bool) : State :=
  { s with tags := SMap.set (fun _ => 0) s.tags (a / 64) (if full then 7 else 0) }

/-- Copies that disagree are rewritten to the majority and counted with the corrected errors (09 R213, 11 R250). -/
def State.repairTag (s : State) (a : Nat) : State :=
  let t : BitVec 3 := SMap.get (fun _ => 0) s.tags (a / 64)
  if t = 0 || t = 7 then s
  else (s.setTag a (majority t)).eccCount .requester a ⟨.data, 0, 0, none⟩

end Sys2Proof.Machine
end

