-- ==== Sys2Proof/Machine/LinkTx.lean ====
section
/-! DEFINITION. Packets that leave the module (18 R399 to R411, R427): the choice of a link, the queues of the links, the flits
a link sends, and the packets the module originates. -/

namespace Sys2Proof.Machine

open Sys2Proof

/-! ### Routes (18 R404, R407 to R410) -/

/-- Own FID (18 R404). -/
def State.fidIs (s : State) (f : BitVec 16) : Bool := s.fab.valid && s.fab.fid == f

/-- The links of a route entry in order (18 Table 18-6). -/
def routeLinks (e : W32) : List (Fin 36) :=
  (([bits e 5 0, bits e 11 6, bits e 17 12, bits e 23 18].take (bits e 25 24 + 1)).filter (· < 36)).map
    fun n => ⟨n % 36, Nat.mod_lt _ (by decide)⟩

def State.routeOf (s : State) (f : BitVec 16) : W32 := SMap.get (fun _ => (0 : W32)) s.fab.route f.toNat

/-- Segments of a channel's receive buffer (18 R410). -/
def bufferSegs (vc : Nat) : Nat := if vc = 4 then 32 else 256

/-- Free downstream credit of a link on a virtual channel. -/
def Link.credit (l : Link) (vc : Nat) : Nat := SMap.get bufferSegs l.credits vc

/-- The link a packet leaves on (18 R408, R409): none when the entry is not valid or has no SECURE link. -/
def State.chooseLink (s : State) (pk : Packet) : Option (Fin 36) :=
  let e := s.routeOf pk.dstFid
  if !bit e 31 then none
  else
    let ls := (routeLinks e).filter fun l => (s.link l).st == .secure
    if pk.ord || pk.vc = 4 then ls.head?
    else ls.foldl (fun b l => match b with
      | none => some l
      | some m => if (s.link m).credit pk.vc.toNat < (s.link l).credit pk.vc.toNat then some l else some m) none

/-! ### Records (18 R427, Tables 18-12, 18-13) -/

/-- Add n to word w of FAB_LINK_CNT(l) (18 Table 18-13). -/
def State.linkCount (s : State) (l : Fin 36) (w n : Nat) : State :=
  s.updLink l fun k => { k with cnt := SMap.upd (fun _ => (0 : Word)) k.cnt w (· + BitVec.ofNat 64 n) }

/-- One record of FAB_TLOG, 4,096 records in a ring, copied into the trace (18 R427, Table 18-12, 20 Table 20-8). -/
def State.tlogWrite (s : State) (r : TlogRec) : State :=
  { s with fab := { s.fab with
      tlog := SMap.set (fun _ => ({} : TlogRec)) s.fab.tlog s.fab.tlogNext r
      tlogNext := (s.fab.tlogNext + 1) % 4096 } }.trace 7 none 0 0 r.w1 r.w2

/-- Word 1 of a packet's header (18 Table 18-4). -/
def packetWord1 (pk : Packet) : Word :=
  BitVec.ofNat 64 (pk.typ.toNat * 2 ^ 56 + pk.group.toNat * 2 ^ 40 + pk.id.toNat)

/-- An event of a packet whose TRACE is 1: 1 sent to its destination, 2 received from its source. -/
def State.logPacket (s : State) (ev : Nat) (l : Nat) (peer : BitVec 16) (pk : Packet) : State :=
  if pk.trace then
    s.tlogWrite { w0 := s.time, w1 := BitVec.ofNat 64 (ev * 2 ^ 56 + l * 2 ^ 48 + peer.toNat * 2 ^ 32), w2 := packetWord1 pk }
  else s

/-! ### Flits out (18 R399, R402, R410, R411) -/

/-- Segments a packet occupies (18 R403). -/
def segments (pk : Packet) : Nat := (pk.payload.length + 95) / 64

/-- The last 256 flits of a list. -/
def last256 (l : List (BitVec 12 × List Packet)) : List (BitVec 12 × List Packet) := l.drop (l.length - 256)

/-- One flit leaves: it acknowledges what was received in order and is kept for a replay. -/
def State.flitOut (s : State) (l : Fin 36) (nak : Bool) (cvc : BitVec 3) (credits : Nat) (pk : List Packet) : State :=
  let k := s.link l
  ((s.setLink l { k with seqTx := k.seqTx + 1, flits := k.flits + 1, replay := last256 (k.replay ++ [(k.seqTx, pk)]) }).linkCount
    l 0 1).emit (.flit l k.seqTx (k.seqRx - 1) nak cvc credits pk)

/-- What the link's state lets pass (18 Table 18-2). -/
def Link.carries (k : Link) (pk : Packet) : Bool :=
  k.st == .secure || (k.st == .plain && (pk.typ = 0x40 || pk.typ = 0x41))

/-- Segments of a channel's first waiting packet that have left. -/
def Link.gone (k : Link) (vc : Nat) : Nat := SMap.get (fun _ => 0) k.placed vc

/-- The packet whose segment a channel can send next. -/
def Link.ready (k : Link) (vc : Nat) : Option Packet :=
  match k.tx.find? fun pk => pk.vc.toNat = vc with
  | some pk => if k.carries pk && 0 < k.credit vc then some pk else none
  | none => none

/-- One segment of a packet leaves on its channel's credit; after its last the packet no longer waits. -/
def Link.place (k : Link) (pk : Packet) : Link :=
  let vc := pk.vc.toNat
  let n := k.gone vc + 1
  let whole := decide (segments pk ≤ n)
  { k with
    tx := if whole then k.tx.erase pk else k.tx
    placed := SMap.set (fun _ => 0) k.placed vc (if whole then 0 else n)
    credits := SMap.set bufferSegs k.credits vc (k.credit vc - 1) }

/-! #### Turns of an output link (18 R412; logs 120) -/

/-- Number of the owner of the turns left over: transit packets and those of SRC_PART 0xF. -/
def restOwner : Nat := 15

/-- The owner of a packet's turns: the partition of this module that originates it, or the rest. -/
def State.turnOwnerOf (s : State) (pk : Packet) : Nat :=
  if pk.srcFid = s.fab.fid && pk.srcPart.toNat < 12 then pk.srcPart.toNat else restOwner

/-- FAB_CREDIT of a partition (17 Table 17-1). -/
def State.fabCredit (s : State) (p : Fin 12) : Nat :=
  match (s.part p).cfg with
  | some r => r.fabCredit.toNat
  | none => 0

/-- Partitions and the end of their turns, which stand one after another in the frame. -/
def State.turnEnds (s : State) : List (Nat × Nat) :=
  (allParts.foldl (fun (a : Nat × List (Nat × Nat)) p =>
    (a.1 + s.fabCredit p, a.2 ++ [(p.val, a.1 + s.fabCredit p)])) (0, [])).2

def State.turnOwner (s : State) (t : Nat) : Nat :=
  match s.turnEnds.find? fun e => t < e.2 with
  | some e => e.1
  | none => restOwner

/-- The packet an owner sends a segment of: its channels in turn, from the one after the last. -/
def State.ownReady (s : State) (k : Link) (o : Nat) : Option Packet :=
  (List.range 4).findSome? fun i =>
    match k.ready ((SMap.get (fun _ => 0) k.nextVc o + i) % 4) with
    | some pk => if s.turnOwnerOf pk = o then some pk else none
    | none => none

/-- Who may use a turn: its owner; in shared arbitration, where the owner has nothing to send, the others in order. -/
def State.turnUsers (s : State) (t : Nat) : List Nat :=
  s.turnOwner t :: if s.arb.isolated then [] else List.range 12 ++ [restOwner]

/-- The next data segment: how many turns pass unused before it, its owner and its packet. -/
def State.nextData (s : State) (k : Link) : Option (Nat × Nat × Packet) :=
  (List.range 100).findSome? fun i =>
    (s.turnUsers ((k.turn + i) % 100)).findSome? fun o => (s.ownReady k o).map fun pk => (i, o, pk)

/-- The next segment of a link: Indigo before data (18 R411). -/
def State.nextSegment (s : State) (k : Link) : Option (Link × Packet) :=
  match k.ready 4 with
  | some pk => some (k.place pk, pk)
  | none => match s.nextData k with
    | some (i, o, pk) =>
      some ({ k.place pk with
        turn := (k.turn + i + 1) % 100
        nextVc := SMap.set (fun _ => 0) k.nextVc o ((pk.vc.toNat + 1) % 4) }, pk)
    | none => none

/-- What a flit takes along: the link after it, whether it holds a segment, and the packets that begin and that end in it. -/
structure Filled where
  link  : Link
  some_ : Bool := false
  begun : List Packet := []
  ended : List Packet := []

/-- Fill n segments of a flit. -/
def State.fill (s : State) : Nat → Filled → Filled
  | 0, f => f
  | n + 1, f =>
    match s.nextSegment f.link with
    | none => f
    | some (k, pk) =>
      s.fill n { link := k, some_ := true
                 begun := if f.link.gone pk.vc.toNat = 0 then f.begun ++ [pk] else f.begun
                 ended := if k.gone pk.vc.toNat = 0 then f.ended ++ [pk] else f.ended }

/-- A packet of this module is logged as sent (18 R427). -/
def State.logSent (s : State) (l : Fin 36) (pk : Packet) : State :=
  if s.fidIs pk.srcFid then s.logPacket 1 l.val pk.dstFid pk else s

/-- A link sends the flits it can, seven segments each, while 256 can be kept for a replay (18 R399, R402). -/
def State.pumpN (l : Fin 36) : Nat → State → State
  | 0, s => s
  | n + 1, s =>
    let f := s.fill 7 { link := s.link l }
    if !f.some_ || 256 ≤ (s.link l).replay.length then s
    else State.pumpN l n ((f.begun.foldl (fun (t : State) pk => t.logSent l pk) (s.setLink l f.link)).flitOut l false 7 0 f.ended)

/-! #### Indigo of this module (18 R411) -/

/-- Indigo segments of the present 10 µs window. -/
def State.indigoSent (s : State) (k : Link) : Nat := if k.indWin = s.time.toNat / 10000 then k.indSent else 0

/-- An Indigo packet that this module originates waits for its window: 64 segments a link. -/
def State.indigoWaits (s : State) (k : Link) (pk : Packet) : Bool :=
  pk.vc = 4 && pk.srcFid = s.fab.fid && 64 < s.indigoSent k + segments pk

/-- A packet stands in line for the link. -/
def State.stand (s : State) (k : Link) (pk : Packet) : Link :=
  if pk.vc = 4 && pk.srcFid = s.fab.fid then
    { k with tx := k.tx ++ [pk], indWin := s.time.toNat / 10000, indSent := s.indigoSent k + segments pk }
  else { k with tx := k.tx ++ [pk] }

/-- Those held for an earlier window stand in line. -/
def State.releaseIndigo (s : State) (k : Link) : Link :=
  k.indHeld.foldl (fun (q : Link) pk => if s.indigoWaits q pk then { q with indHeld := q.indHeld ++ [pk] } else s.stand q pk)
    { k with indHeld := [] }

def State.pump (s : State) (l : Fin 36) : State :=
  let t := s.updLink l s.releaseIndigo
  State.pumpN l (((t.link l).tx.map segments).sum) t

/-- Queue a packet on a link and send what can go. -/
def State.enqueue (s : State) (l : Fin 36) (pk : Packet) : State :=
  (s.updLink l fun k => if s.indigoWaits k pk then { k with indHeld := k.indHeld ++ [pk] } else s.stand k pk).pump l

/-! ### Packets of this module (18 R404, R408) -/

/-- Send a routed packet of this module's own: none when it cannot be sent. TTL is FAB_CTL.TTL less one hop when it leaves
the module. -/
def State.originate (s : State) (pk : Packet) : Option State :=
  if !s.fab.valid then none
  else if pk.dstFid = s.fab.fid then some { s with fab := { s.fab with inbox := s.fab.inbox ++ [pk] } }
  else
    match s.chooseLink pk with
    | some l => if pk.ttl = 0 then none else some (s.enqueue l { pk with ttl := pk.ttl - 1 })
    | none => none

/-- Send it or drop it. -/
def State.send (s : State) (pk : Packet) : State := (s.originate pk).getD s

/-- The PUT_ACK of a put, or the refusal of a request, back to its source (18 R414 to R416, Table 18-5). -/
def ackPacket (s : State) (dst : BitVec 16) (dstPart : BitVec 4) (vc : BitVec 3) (ord : Bool) (id : BitVec 40) (pkt : Nat)
    (status : Nat) : Packet :=
  { dstFid := dst, srcFid := s.fab.fid, dstPart := dstPart, srcPart := 0xF, vc := vc, ord := ord, trace := false
    ttl := s.fab.ttl, typ := 0x02, group := 0, id := id
    w2 := BitVec.ofNat 64 (pkt % 256 * 2 ^ 56 + status % 256 * 2 ^ 48), w3 := 0, payload := [], rsvd := 0, note := 0
    ndb := false }

end Sys2Proof.Machine
end

