-- ==== Sys2Proof/Machine/FabricOps.lean ====
section
/-! DEFINITION. Shared operations of the fabric (18): link-local packets, fault reports (R424, R426), what a cut meets when a
link goes (R423), a link's way to DOWN (R397, R398, R419), and the taking of packets that wait. -/

namespace Sys2Proof.Machine

open Sys2Proof

/-! ### Indigo packets -/

/-- An Indigo packet of this module (18 Tables 18-4, 18-5). -/
def indigo (s : State) (typ : BitVec 8) (dst : BitVec 16) (w2 w3 : Nat) : Packet :=
  { dstFid := dst, srcFid := s.fab.fid, dstPart := 0, srcPart := 0xF, vc := 4, ord := false, trace := false
    ttl := s.fab.ttl, typ := typ, group := 0, id := 0, w2 := BitVec.ofNat 64 w2, w3 := BitVec.ofNat 64 w3, payload := []
    rsvd := 0, note := 0, ndb := false }

/-- SECURE links but those named. -/
def State.secureBut (s : State) (out : List (Fin 36)) : List (Fin 36) :=
  allLinks.filter fun l => (s.link l).st == .secure && !out.contains l

/-- Send a link-local packet on links. -/
def State.flood (s : State) (ls : List (Fin 36)) (pk : Packet) : State := ls.foldl (fun t l => t.enqueue l pk) s

/-- PROBE (18 R405). -/
def State.probe (s : State) (l : Fin 36) : State :=
  s.enqueue l (indigo s 0x40 0 (s.fab.fid.toNat * 2 ^ 48 + (if s.fab.valid then 2 ^ 47 else 0) + l.val) 0)

/-! ### Fault reports (18 R424 to R426) -/

/-- Number of the 10 ms window. -/
def State.faultWin (s : State) : Nat := s.time.toNat / 10000000

/-- n more reports, stopping at 0xFFFF_FFFF. -/
def addReports (a : W32) (n : Nat) : W32 := BitVec.ofNat 32 (min (2 ^ 32 - 1) (a.toNat + n))

/-- A report enters the incident table (18 R426, Table 18-18). -/
def State.incident (s : State) (suspect : Half) (kind : Byte) (n : Nat) : State :=
  let at_ (i : Nat) : Incident := SMap.get (fun _ => ({} : Incident)) s.fab.incidents i
  let put (i : Nat) (v : Incident) : SMap Incident := SMap.set (fun _ => ({} : Incident)) s.fab.incidents i v
  match (List.range 128).find? fun i => (at_ i).opened && (at_ i).suspect = suspect && (at_ i).kind = kind with
  | some i =>
    let v : Incident := { at_ i with last := s.time, reports := addReports (at_ i).reports n }
    { s with fab := { s.fab with incidents := put i v } }
  | none =>
    let i := s.fab.incNext.toNat
    let lost := if (at_ i).opened then s.fab.incLost + 1 else s.fab.incLost
    let v : Incident :=
      { first := s.time, last := s.time, suspect := suspect, kind := kind, reports := addReports 0 n, opened := true }
    State.setBit { s with fab := { s.fab with incidents := put i v, incNext := s.fab.incNext + 1, incLost := lost } } (.incident i)

/-- Send a report with a count to the fabric manager's module, or enter it here when this is that module; none is sent with
FM_VALID = 0 (18 R424). -/
def State.sendReport (s : State) (suspect : Half) (kind : Byte) (n : Nat) (first : Word) : State :=
  if !s.fab.fmValid then s
  else if s.fidIs s.fab.fmFid then s.incident suspect kind n
  else s.send (indigo s 0x50 s.fab.fmFid (suspect.toNat * 2 ^ 48 + kind.toNat * 2 ^ 40 + n % 2 ^ 32) first.toNat)

/-- A fault is detected: the first of a suspect and kind in a window is reported, and later ones of that window are not (18 R424). -/
def State.faultReport (s : State) (suspect : Half) (kind : Byte) : State :=
  let key := (suspect, kind, s.faultWin)
  if s.fab.reported.contains key then s
  else
    let t : State := { s with fab := { s.fab with reported := key :: s.fab.reported.filter fun r => r.2.2 = s.faultWin } }
    t.sendReport suspect kind 1 s.time

/-! ### Cuts and links (18 R423) -/

def State.cutAt (s : State) (n : Nat) : Cut := SMap.get (fun _ => ({} : Cut)) s.fab.cuts n
def State.setCut (s : State) (n : Nat) (c : Cut) : State :=
  { s with fab := { s.fab with cuts := SMap.set (fun _ => ({} : Cut)) s.fab.cuts n c } }

def epochWord (e : Half) : Nat := e.toNat * 2 ^ 32

/-- A packet of a cut: GROUP stands in word 1 (log 40). -/
def cutPacket (s : State) (typ : BitVec 8) (c : Cut) (w2 : Nat) : Packet :=
  { indigo s typ 0 (epochWord c.epoch + w2) 0 with group := c.group }

/-- The cut fails at this module: the parent hears CUT_DONE with ABORT = 1, the initiator's state becomes FAILED. Its hold
remains. -/
def State.abortCut (s : State) (n : Nat) : State :=
  let c := s.cutAt n
  if c.st != .holding then s
  else
    let t := s.setCut n { c with st := .failed, awaitAck := [], awaitDone := [] }
    match c.parent with
    | some l => if c.initiator then t else t.enqueue l (cutPacket t 0x4A c (c.deepest.toNat * 2 ^ 8 + 2))
    | none => t

/-- Cuts that await an answer on a link that is gone. -/
def State.cutsLose (s : State) (l : Fin 36) : State :=
  (List.range 4).foldl (fun (t : State) n =>
    let c := t.cutAt n
    if c.awaitAck.contains l || c.awaitDone.contains l then t.abortCut n else t) s

/-! ### Links that go down (18 R397, R398, R419) -/

/-- Routed TYPEs (18 Table 18-5). -/
def routedType (t : BitVec 8) : Bool := t = 0x01 || t = 0x02 || t = 0x03 || t = 0x04 || t = 0x50

/-- Packets of a link that went are sent again on another link, or dropped and counted. -/
def State.resend (s : State) (l : Fin 36) (pk : Packet) : State :=
  if routedType pk.typ then
    match s.chooseLink pk with
    | some m => s.enqueue m pk
    | none => s.linkCount l 5 1
  else s

/-- A link without its session, its flits and its credits. -/
def Link.cleared (k : Link) (st : LinkState) : Link :=
  { k with
    st := st, seqTx := 0, seqRx := 0, replaying := false, replay := [], replayed := [], keysel := false, flits := 0
    credits := [], tx := [], placed := [], indHeld := [] }

/-- A link goes to DOWN, or at the fourth time in a window of 10 s to FAILED. -/
def State.linkDown (s : State) (l : Fin 36) : State :=
  let k := s.link l
  if k.st == .down || k.st == .failed then s
  else
    let win := s.time.toNat / 10000000000
    let n := if k.downsWin = win then k.downs.toNat + 1 else 1
    let failed := n ≥ 4
    let s1 := s.setLink l { k.cleared (if failed then .failed else .down) with
      downs := BitVec.ofNat 8 (min n 255), downsWin := win }
    let s2 := { s1 with sec := { s1.sec with spdmLink := SMap.set (fun _ => ({} : Spdm)) s1.sec.spdmLink l.val {} } }
    let s3 := if failed then s2.faultReport k.peerFid 0x02
              else if k.st == .secure then s2.faultReport k.peerFid 0x01 else s2
    let s4 := (k.replay.flatMap (·.2) ++ k.tx ++ k.indHeld).foldl (fun (t : State) pk => t.resend l pk) s3
    if k.st == .secure then s4.cutsLose l else s4

/-! ### Packets that wait -/

/-- A packet leaves a link's receive buffer, and its segments' credit goes back to the far side (18 R410). -/
def State.takeRx (s : State) (l : Fin 36) (pk : Packet) : State :=
  let t := s.updLink l fun k => { k with rx := k.rx.erase pk }
  if (t.link l).st == .secure || (t.link l).st == .plain then t.flitOut l false pk.vc (segments pk) [] else t

/-- A link-local packet of a type waits at the link. -/
def State.rxHas (s : State) (l : Fin 36) (pk : Packet) (typ : BitVec 8) : Bool := (s.link l).rx.contains pk && pk.typ = typ

/-- A packet for this module of a type waits. -/
def State.inboxHas (s : State) (pk : Packet) (typ : BitVec 8) : Bool := s.fab.inbox.contains pk && pk.typ = typ

def State.takeInbox (s : State) (pk : Packet) : State := { s with fab := { s.fab with inbox := s.fab.inbox.erase pk } }

end Sys2Proof.Machine
end

