-- ==== Sys2Proof/Machine/Ops.lean ====
section
/-! DEFINITION. Shared operations: the partition view (01 R23, R24, R507), completions and events to hosts (16), packets that
leave the module (18 R403 to R409), zeroisation and assignment of clusters (09 R216), the end of a job (17 R383, R390 to
R393), reads and writes with the disposal of uncorrectable errors (11 Table 11-4), completion slots (02 R42, R48, R50), and
taking an exception and returning from one (02 R60 to R65, 03 R90). -/

namespace Sys2Proof.Machine

open Sys2Proof

/-! ### Partition view -/

/-- The physical clusters of a partition in ascending order (01 R23). -/
def clusterList (r : PartRec) : List (Fin 32) := allClusters.filter fun c => r.clusters.getLsbD c.val

/-- The record of the partition a cluster belongs to. -/
def State.recOf (s : State) (cl : Fin 32) : Option PartRec := (s.partOf cl).bind fun p => (s.part p).cfg

/-- Clusters of partition p. -/
def State.clustersOf (s : State) (p : Fin 12) : List (Fin 32) :=
  match (s.part p).cfg with
  | some r => clusterList r
  | none => []

/-- Partition cluster index of a cluster, 0 when it belongs to no partition (01 R507). -/
def State.partIndex (s : State) (cl : Fin 32) : Nat :=
  match s.recOf cl with
  | some r => (clusterList r).findIdx fun c => c == cl
  | none => 0

/-- The windows a cluster's partition view shows, in order of index (01 R23, R507). -/
def State.windows (s : State) (cl : Fin 32) : List (Fin 32) :=
  match s.recOf cl with
  | some r => clusterList r
  | none => [cl]

def gib : Nat := 0x40000000

/-- Where a partition-view address leads. -/
inductive ViewLoc where
  | d1
  | d2
  | window (cl : Fin 32) (o : Nat)
deriving DecidableEq, Repr

/-- Translate a partition-view address of cluster cl to its module-view address (01 R23, R24, R507, R21). -/
def State.view (s : State) (cl : Fin 32) (a : Nat) : Option (ViewLoc × Nat) :=
  if winBase ≤ a then
    match (s.windows cl)[(a - winBase) / winSize]? with
    | some c =>
      if populated ((a - winBase) % winSize) then
        some (.window c ((a - winBase) % winSize), clusterAddr c ((a - winBase) % winSize))
      else none
    | none => none
  else
    match s.recOf cl with
    | none => none
    | some r =>
      if d2Base ≤ a then
        if a < d2Base + r.d2Region.gib.toNat * gib then some (.d2, a + r.d2Region.base.toNat * gib) else none
      else if a < r.d1Region.gib.toNat * gib then some (.d1, a + r.d1Region.base.toNat * gib)
      else none

/-- Translate a range of n bytes that must lie wholly in a region or in one memory of one cluster window; an empty range
needs nothing. -/
def State.viewRange (s : State) (cl : Fin 32) (a n : Nat) : Option (ViewLoc × Nat) :=
  match s.view cl a, s.view cl (a + (n - 1)) with
  | some (.window c o, m), some (.window c' o', _) =>
    if c = c' && clMemOf o = clMemOf o' then some (.window c o, m) else none
  | some (.d1, m), some (.d1, _) => some (.d1, m)
  | some (.d2, m), some (.d2, _) => some (.d2, m)
  | _, _ => none

/-- Translate a range of n bytes, n at least 1, that must lie within a region or within a cluster window, where it may span adjacent
memories but no unpopulated address (10 Table 10-15; 09 R205). -/
def State.viewSpan (s : State) (cl : Fin 32) (a n : Nat) : Option (ViewLoc × Nat) :=
  match s.view cl a, s.view cl (a + (n - 1)) with
  | some (.window c o, m), some (.window c' o', _) =>
    if c = c' && (o < 0x02800000) == (o' < 0x02800000) then some (.window c o, m) else none
  | some (.d1, m), some (.d1, _) => some (.d1, m)
  | some (.d2, m), some (.d2, _) => some (.d2, m)
  | _, _ => none

/-- The partition-view address of a cluster address of the own window (03 R78, 01 R507). -/
def State.ownView (s : State) (cl : Fin 32) (a : Nat) : Nat := winBase + s.partIndex cl * winSize + a % winSize

/-- A job is loaded in partition p (17 R381). -/
def State.jobLoaded (s : State) (p : Fin 12) : Bool := (s.part p).job.state != .none

def State.anyJob (s : State) : Bool := allParts.any fun p => s.jobLoaded p

/-! ### Hosts -/

/-- The MSI-X vector of a submission queue's completions: vector 0 for the admin queue (16 R351). -/
def Fn.vectorOf (g : Fn) (sq : Half) : Nat :=
  match SMap.get (fun _ => none) g.sqs sq.toNat with
  | some q => match SMap.get (fun _ => none) g.cqs (q.2 : Half).toNat with
    | some c => (c.2 : Half).toNat
    | none => 0
  | none => 0

/-- The MSI-X table after a reset: every vector is masked (log 117). -/
def msixReset (k : Nat) : Word := if k % 2 = 1 then 0x100000000 else 0

/-- A completion on a masked vector sets its pending bit (16 R351). -/
def Bar0.interrupt (b : Bar0) (v : Nat) : Bar0 :=
  if bit (SMap.get msixReset b.msix (2 * v + 1)) 32 then { b with pend := SMap.set (fun _ => false) b.pend v true } else b

def Fn.interrupt (sq : Half) (g : Fn) : Fn := { g with bar0 := g.bar0.interrupt (g.vectorOf sq) }

/-- Post a completion; a status other than success also enters the Error Information log of 256 entries (16 Table 16-4). -/
def State.complete (s : State) (h : Hdr) (sct sc : Byte) (dw0 : W32) : State :=
  let s1 : State := { (s.updFn h.fn (Fn.interrupt h.sq)).emit (.completion h sct sc dw0) with cmdAt := s.time }
  if sct = 0 && sc = 0 then s1
  else { s1 with errLog := ((h, sct, sc) :: s.errLog).take 256 }

/-- Successful Completion with Dword 0. -/
def State.okay (s : State) (h : Hdr) (dw0 : W32) : State := s.complete h 0 0 dw0

/-- A vendor-specific status of 16 Table 16-2 or 17 Table 17-4 (16 R354). -/
def State.vendor (s : State) (h : Hdr) (sc : Byte) : State := s.complete h 7 sc 0

/-- Generic statuses of NVM Express the spec names: Invalid Command Opcode 0x01, Invalid Field in Command 0x02, Internal
Error 0x06, Command Abort Requested 0x07, Namespace Is Write Protected 0x20. -/
def State.generic (s : State) (h : Hdr) (sc : Byte) : State := s.complete h 0 sc 0

/-- Post an asynchronous event to a function, or keep it until a request is outstanding (16 R352). -/
def State.asyncEvent (s : State) (f : FnId) (kind : BitVec 8) : State :=
  match (s.fn f).aers with
  | h :: t => ((s.setFn f { s.fn f with aers := t }).emit (.asyncEvent h kind))
  | [] => s.updFn f fun g => { g with events := g.events ++ [kind] }

/-- The tenants of a partition (17 Table 17-1). -/
def tenantList (r : PartRec) : List (Fin 1024) := (List.finRange 1024).filter fun t => r.tenants.getLsbD t.val

/-- An asynchronous event to the owner and to a partition's tenants (17 R391). -/
def State.eventToPartition (s : State) (p : Fin 12) (kind : BitVec 8) : State :=
  let s1 := (s.asyncEvent (.pf .a) kind).asyncEvent (.pf .b) kind
  match (s.part p).cfg with
  | some r => (tenantList r).foldl (fun t v => t.asyncEvent (.vf v) kind) s1
  | none => s1

/-! ### Requests -/

/-- Answer a request that no service takes: status 0x07 of 16 Table 16-2 to a host, 0x25 of 18 Table 18-9 to a sender on the
fabric (16 R356). -/
def State.answerNone (s : State) (src : ReqSource) : State :=
  match src with
  | .host h _ => s.vendor h 0x07
  | .fabric f fp vc ord id _ => s.send (ackPacket s f fp vc ord id 0 0x25)
  | .dropped => s

/-! ### Clusters: state of R58, zeroisation, assignment -/

/-- What zeroisation leaves of a cluster's registers (02 R58, 09 R216); the memories and cores are cleared beside it. -/
def Cluster.zeroised (c : Cluster) : Cluster :=
  { c with
    quiesce := false, quiesceAbort := false, cutQuiesce := false
    tmq := [], tailSeq := [], tmTurn := 0, tmExec := []
    mxcFault := false, mxq := [], mxExec := [], mxTurn := 0, dumps := []
    heldSteals := [], held := [], rr := [], writebacks := []
    form := 0, weights := [], shadow := [], grd := {}, reruns := 0, slots := [] }

/-- What assignment to a partition clears beside it (02 Table 2-5a, 10 R241, Table 10-8, 14 R319, 16 R356, R373, 17 Table
17-9, 18 R413, 20 R459). -/
def Cluster.assigned (c : Cluster) : Cluster :=
  { c.zeroised with
    ringFault := 0, commit := {}, ixr := {}, ftx := {}, commitExec := none, ixExec := []
    tileReason := [], reqBase := 0, reqSlots := 0, reqKib := 0, spill := {}, intf := 0, step := 0 }

/-- Every core of a cluster back to RESET with its registers clear (02 R58). -/
def State.resetCores (s : State) (cl : Fin 32) : State :=
  { s with cores := s.cores.filter fun e => e.1 / 128 != cl.val }

/-- Every byte of a cluster's memories is zero and every tag empty (09 R216). -/
def State.clearSram (s : State) (cl : Fin 32) : State :=
  let b := clusterAddr cl 0
  let s1 := s.zeroFill b winSize
  { s1 with tags := s1.tags.filter fun e => !(b ≤ e.1 * 64 && e.1 * 64 < b + winSize) }

/-- Zeroisation of a cluster, complete (09 R216). -/
def State.zeroiseCluster (s : State) (cl : Fin 32) : State :=
  ((s.clearSram cl).resetCores cl).updCluster cl Cluster.zeroised

def State.assignCluster (s : State) (cl : Fin 32) : State := (s.zeroiseCluster cl).updCluster cl Cluster.assigned

/-- Zero an area of D1 or D2 (17 R377, R389); base is the tier's first module-view address. -/
def State.zeroArea (s : State) (base : Nat) (ar : Area) : State :=
  s.zeroFill (base + ar.base.toNat * gib) (ar.gib.toNat * gib)

/-- Zeroise the clusters, regions and pools of a partition record (17 R389). -/
def State.zeroiseRec (s : State) (r : PartRec) : State :=
  let s1 := (clusterList r).foldl State.zeroiseCluster s
  (((s1.zeroArea 0 r.d1Region).zeroArea 0 r.d1Pool).zeroArea d2Base r.d2Region).zeroArea d2Base r.d2Pool

/-- CLU_EVENT bits are set and reported to the active management processor (02 Table 2-11). -/
def State.clusterEvent (s : State) (cl : Fin 32) (ev : BitVec 4) : State :=
  let t := (List.finRange 4).foldl (fun (t : State) b => if ev.getLsbD b.val then t.setBit (.event cl b) else t) s
  (t.updCluster cl fun c => { c with event := c.event ||| ev }).emit (.eventToMgmt cl ev)

/-- Drop the last report of events ev of a cluster: a halt request of the same cycle took the exception back before it was
delivered (02 R65). -/
def dropReport (cl : Fin 32) (ev : BitVec 4) (l : List Out) : List Out := (l.reverse.erase (.eventToMgmt cl ev)).reverse

def evMxc : BitVec 4 := 1
def evCore : BitVec 4 := 2
def evMachine : BitVec 4 := 4
def evRing : BitVec 4 := 8

/-! ### Halting -/

/-- A halt request of the cycle named, by the state of the core (02 R64, R65, Table 2-19). -/
def Core.halted (k : Core) (cycle : Nat) : Core :=
  match k.mode with
  | .running => if k.haltReq then k else { k with haltReq := true, haltCycle := cycle }
  | .waiting => { k with mode := .halted, wait := none, haltReq := false, haltCycle := cycle }
  | _ => k

/-- An exception that was delivered in the cycle of a halt request is recorded instead, with EXC_PENDING (02 R65): the core
stands as before its delivery. None of an earlier cycle is taken back, and none that found the core stopped. -/
def State.takeBack (s : State) (c : CoreId) (cycle : Nat) : State :=
  let k := s.core c
  match k.delivered with
  | none => s
  | some u =>
    if u.cycle = cycle && (u.mode == .running || u.mode == .waiting) && (k.mode == .running || k.mode == .faulted) then
      let s1 := s.setCore c { k with
        mode := u.mode, pc := u.pc, inHandler := u.inHandler, excPending := true, delivered := none }
      let s2 := s1.updCluster c.cl fun g => { g with event := g.event &&& ~~~u.event }
      if u.report = 0 then s2 else { s2 with outbox := dropReport c.cl u.report s2.outbox }
    else s

/-- A halt request to one core, of the cycle named; a held full/empty access of a waiting core is abandoned without effect (02
R64, R65). -/
def State.haltCore (s : State) (c : CoreId) (cycle : Nat) : State :=
  let t := s.takeBack c cycle
  let w := (t.core c).mode == .waiting
  let s1 := t.updCore c fun k => k.halted cycle
  if w then s1.updCluster c.cl fun g => { g with held := g.held.filter fun e => e.core != c.k } else s1

def State.haltAll (s : State) (cl : Fin 32) (cycle : Nat) : State :=
  allCores.foldl (fun t k => t.haltCore ⟨cl, k⟩ cycle) s

/-- Set CLU_CTL.QUIESCE, with QUIESCE_ABORT as asked (02 R67, 17 R383): the halt requests are those of the next cycle, behind
whatever called for the quiesce in this one (log 92). -/
def State.quiesceCluster (s : State) (abort : Bool) (cl : Fin 32) : State :=
  (s.updCluster cl fun c => { c with quiesce := true, quiesceAbort := abort }).haltAll cl (s.cycle + 1)

/-- No descriptor executing; no command executing (02 Table 2-10). -/
def Cluster.tmIdle (c : Cluster) : Bool := c.tmExec.isEmpty
def Cluster.mxcIdle (c : Cluster) : Bool := c.mxExec.isEmpty && c.grd.closing.isNone

def CoreMode.stopped (m : CoreMode) : Bool := m == .reset || m == .halted || m == .faulted

/-- All cores halted, reset or faulted. -/
def State.coresStopped (s : State) (cl : Fin 32) : Bool :=
  allCores.all fun k => (s.core ⟨cl, k⟩).mode.stopped

def State.coresReset (s : State) (cl : Fin 32) : Bool :=
  allCores.all fun k => (s.core ⟨cl, k⟩).mode == .reset

/-- CLU_STATUS.QUIET (02 Table 2-10): the index-read and fabric records taken have completed too (14 R333, 18 R413). -/
def State.quiet (s : State) (cl : Fin 32) : Bool :=
  let c := s.cluster cl
  c.quiesce && s.coresStopped cl && c.tmIdle && c.mxcIdle && c.ixExec.isEmpty && s.fab.sends.all fun x => x.cl != cl

/-! ### Pins and pool copies (10 R229, R234, R236) -/

def State.nougatAt (s : State) (e : Nat) : Option Nougat := SMap.get (fun _ => none) s.nougat e
def State.setNougat (s : State) (e : Nat) (v : Option Nougat) : State :=
  { s with nougat := SMap.set (fun _ => none) s.nougat e v }

/-- An entry with neither copy, no pin and no promotion in progress is freed (10 R236). -/
def Nougat.settle (n : Nougat) : Option Nougat :=
  if !n.inD1 && !n.inD2 && n.pin = 0 && n.st = 3 then none else some n

/-- Take k pins of partition p off entry e (10 R229). -/
def State.dropPins (s : State) (p : Fin 12) (e k : Nat) : State :=
  match s.nougatAt e with
  | none => s
  | some n => s.setNougat e (Nougat.settle { n with pin := n.pin - k, pmask := n.pmask &&& ~~~(BitVec.ofNat 12 (2 ^ p.val)) })

/-- Pins partition p holds on entry e (10 R229). -/
def State.ledgerOf (s : State) (p : Fin 12) (e : Nat) : Nat := SMap.get (fun _ => 0) (s.part p).ledger e

def State.setLedger (s : State) (p : Fin 12) (e k : Nat) : State :=
  s.updPart p fun q => { q with ledger := SMap.set (fun _ => 0) q.ledger e k }

/-- Release one pin of partition p on entry e, where its ledger holds one (10 R229, R231). -/
def State.unpinOne (s : State) (p : Fin 12) (e : Nat) : State :=
  if s.ledgerOf p e = 0 then s else
  let left := s.ledgerOf p e - 1
  let s1 := s.setLedger p e left
  match s1.nougatAt e with
  | none => s1
  | some n =>
    let m := if left = 0 then n.pmask &&& ~~~(BitVec.ofNat 12 (2 ^ p.val)) else n.pmask
    s1.setNougat e (Nougat.settle { n with pin := n.pin - 1, pmask := m })

/-- QUIESCE_ABORT ends a descriptor that has something left to do; a TILE_UNPIN (OP 4) runs on (02 R67). -/
def TmExec.cut (e : TmExec) : Bool := !(bits (e.words.getD 0 0) 3 0 = 4 || e.done)

/-- An executing descriptor as QUIESCE_ABORT leaves it (02 R67). -/
def TmExec.aborted (e : TmExec) : TmExec :=
  if e.cut then { e with status := 0x07, done := true, pinned := none } else e

/-- QUIESCE_ABORT ends each executing descriptor at its next 4 KiB unit boundary; a TILE_PIN gives its pin back; a
TILE_UNPIN runs to its end (02 R67). -/
def State.abortTm (s : State) (cl : Fin 32) : State :=
  let pins := ((s.cluster cl).tmExec.filter TmExec.cut).filterMap TmExec.pinned
  let s1 := match s.partOf cl with
    | some p => pins.foldl (fun (t : State) n => t.unpinOne p n) s
    | none => s
  s1.updCluster cl fun c => { c with tmExec := c.tmExec.map TmExec.aborted }

/-- Release every pin of a partition's ledger and free its private entries (10 R234). -/
def State.releasePins (s : State) (p : Fin 12) : State :=
  let s1 := (s.part p).ledger.foldl (fun t e => t.dropPins p e.1 e.2) s
  let s2 := s1.updPart p fun q => { q with ledger := [] }
  { s2 with nougat := s2.nougat.filter fun e => match e.2 with
      | some n => n.owner.toNat != p.val
      | none => true }

/-- The module-view address of an entry's copies (10 Table 10-5, R228). -/
def State.d1Copy (s : State) (n : Nougat) : Nat :=
  let pool := if h : n.owner.toNat < 12 then (match (s.part ⟨n.owner.toNat, h⟩).cfg with
      | some r => r.d1Pool.base.toNat
      | none => 0) else s.arb.d1Share.base.toNat
  pool * gib + n.d1Loc.toNat * 4096

def State.d2Copy (s : State) (n : Nougat) : Nat :=
  let pool := if h : n.owner.toNat < 12 then (match (s.part ⟨n.owner.toNat, h⟩).cfg with
      | some r => r.d2Pool.base.toNat
      | none => 0) else s.arb.d2Share.base.toNat
  d2Base + pool * gib + n.d2Loc.toNat * 4096

def Nougat.bytes (n : Nougat) : Nat := (n.size.toNat + 1) * 4096

/-- A damaged copy at address a is removed and its entry heals (10 R239). -/
def State.startHeal (s : State) (a : Nat) : State :=
  match s.nougat.find? (fun e => match e.2 with
      | some n => (n.inD1 && s.d1Copy n ≤ a && a < s.d1Copy n + n.bytes) ||
          (n.inD2 && s.d2Copy n ≤ a && a < s.d2Copy n + n.bytes)
      | none => false) with
  | some (e, some n) =>
    if n.inD1 && s.d1Copy n ≤ a && a < s.d1Copy n + n.bytes then
      s.setNougat e (some { n with inD1 := false, need1 := true, st := 4, heals := n.heals + 1 })
    else s.setNougat e (some { n with inD2 := false, need2 := true, st := 4, heals := n.heals + 1 })
  | _ => s

/-! ### The end of a job (17 R383, R390 to R393) -/

/-- STATE and END_CAUSE of 17 Table 17-10. -/
def JobState.code : JobState → Nat
  | .none => 0
  | .loaded => 1
  | .running => 2
  | .ending => 3
  | .vacating => 4
  | .restoring => 5
  | .loading => 6

def causeCode : Option EndCause → Nat
  | none => 0
  | some .deactivation => 1
  | some .kill => 2
  | some .partitionFault => 3
  | some .moduleFault => 4
  | some .vacate => 5

/-- Change a partition's job; a change of its state enters the trace (20 Table 20-8, kind 0x02). -/
def State.updJob (s : State) (p : Fin 12) (f : Job → Job) : State :=
  let s1 := s.updPart p fun q => { q with job := f q.job }
  let j := (s1.part p).job
  if j.state = (s.part p).job.state then s1
  else s1.trace 2 (some p) 0 0 (BitVec.ofNat 64 (j.state.code * 2 ^ 56 + causeCode j.endCause * 2 ^ 48)) 0

/-- Answer the requests of a partition that wait for a slot (17 R383 step 1, 16 R356). -/
def State.answerWaiting (s : State) (p : Fin 12) : State :=
  let s1 := (s.part p).requests.foldl (fun t r => t.answerNone r.1) s
  s1.updPart p fun q => { q with requests := [] }

/-- Answer the requests whose slots are in use (16 R356). -/
def State.answerSlots (s : State) (p : Fin 12) : State :=
  let s1 := (s.part p).slots.foldl (fun t r => t.answerNone r.2.1) s
  s1.updPart p fun q => { q with slots := [] }

/-- Cores in RUNNING or WAITING. -/
def State.ranCores (s : State) (p : Fin 12) : List CoreId :=
  (s.clustersOf p).flatMap fun cl => (allCores.filter fun k =>
    (s.core ⟨cl, k⟩).mode == .running || (s.core ⟨cl, k⟩).mode == .waiting).map fun k => ⟨cl, k⟩

/-- Step 1 of 17 R383: QUIESCE is set on every cluster, QUIESCE_ABORT is 0 for deactivation and 1 for every other end, and waiting
requests complete. -/
def State.beginEnd (s : State) (p : Fin 12) (cause : EndCause) : State :=
  let abort := cause != .deactivation
  let s1 := (s.clustersOf p).foldl (fun t c =>
    let u := t.quiesceCluster abort c
    if abort then u.abortTm c else u) s
  (s1.answerWaiting p).updJob p fun j =>
    { j with
      state := if cause = .vacate then .vacating else .ending
      ending := some cause
      endCycle := s.cycle
      ran := s.ranCores p }

/-- Contexts of a partition (14 R334): marked not loaded (14 R324). -/
def State.unloadContexts (s : State) (p : Fin 12) : State :=
  let w : Word := SMap.get (fun _ => (0 : Word)) s.prlPart p.val
  let base := bits w 11 0
  let cnt := bits w 28 16
  { s with ctxUp := s.ctxUp.filter fun e => !(base ≤ e.1 && e.1 < base + cnt) }

/-- A range lock is released (16 R361). -/
def State.dropLock (s : State) (id : Nat) : State := { s with locks := s.locks.filter fun l => l.id != id }

/-- The range locks of the commit records that a partition's clusters execute are released. -/
def State.dropCommitLocks (s : State) (p : Fin 12) : State :=
  ((s.clustersOf p).filterMap fun cl => (s.cluster cl).commitExec.bind (·.lock)).foldl State.dropLock s

/-- What of a job's state goes with it: its pins, contexts, doorbells, slots, commit records and watches (17 R383 step 4, 16 R373, 20
R460). -/
def State.clearJob (s : State) (p : Fin 12) : State :=
  let s1 := (((s.answerSlots p).releasePins p).unloadContexts p).dropCommitLocks p
  let s2 := s1.updClusters (s.clustersOf p) fun c => { c with spill := {}, commitExec := none, ixExec := [] }
  s2.updPart p fun q => { q with watches := [] }

/-- The job is over: its end is recorded (17 Table 17-10). -/
def State.closeJob (s : State) (p : Fin 12) (cause : EndCause) (kof : BitVec 8) : State :=
  s.updJob p fun _ => { state := .none, endCause := some cause, kof := kof, endTime := s.time }

/-- An operation on the partition that waits completes with a status of 17 Table 17-4. -/
def State.answerWaiter (s : State) (p : Fin 12) (sc : Byte) : State :=
  match (s.part p).job.waiter with
  | some h => (s.vendor h sc).updPart p fun q => { q with job := { q.job with waiter := none } }
  | none => s

/-- The commands that waited for this job's start are no longer held. -/
def State.dropHeld (s : State) (mine : Instr → Bool) : State :=
  { s with heldCmds := s.heldCmds.filter fun x => match x with
      | .lockWait _ i => !mine i
      | .wakeWait i => !mine i
      | _ => true }

/-- The command that loads or restores a job of partition p, given by the header that waits for it. -/
def startsJob (h : Option Hdr) (i : Instr) : Bool :=
  match i with
  | .loadProgram g _ _ _ _ => h == some g
  | .jobControlRestore g _ _ _ => h == some g
  | _ => false

/-- The load or restore that waits with this header waits no more: its partition is free again. -/
def State.dropStart (s : State) (h : Hdr) : State :=
  allParts.foldl (fun (t : State) p =>
    let j := (t.part p).job
    if (j.state == .restoring || j.state == .loading) && j.waiter == some h then
      t.updJob p fun j => { j with state := .none, waiter := none }
    else t) s

/-- A fault that meets a job which is ending already: a deactivation goes on as a partition fault, with QUIESCE_ABORT; a kill does so
in the same cycle only (17 R391, R393, log 106). The event is posted in each case. -/
def State.faultEnding (s : State) (p : Fin 12) (j : Job) : State :=
  if j.ending = some .deactivation || (j.ending = some .kill && j.endCycle = s.cycle) then
    let t := (s.clustersOf p).foldl (fun (t : State) c => (t.quiesceCluster true c).abortTm c) s
    (t.updPart p fun q => { q with job := { q.job with ending := some .partitionFault } }).eventToPartition p 0
  else s.eventToPartition p 0

/-- A partition fault (17 R387, R390, R391, R393). -/
def State.partFault (s : State) (p : Fin 12) : State :=
  let j := (s.part p).job
  match j.state with
  | .none => s
  | .ending => s.faultEnding p j
  | .loaded | .running => (s.beginEnd p .partitionFault).eventToPartition p 0
  | .vacating =>
    ((s.answerWaiter p 0x0D).updJob p fun j =>
      { j with state := .ending, ending := some .partitionFault, target := none }).eventToPartition p 0
  | .restoring | .loading =>
    let s1 := ((s.answerWaiter p 0x0D).dropHeld (startsJob j.waiter)).clearJob p
    let s2 := match (s.part p).cfg with
      | some r => s1.zeroiseRec r
      | none => s1
    (s2.closeJob p .partitionFault 0).eventToPartition p 0

/-- The compute domain loses power: all of D1 and all on-chip SRAM are lost (01 R19); they read as after a fill when powered
again (01 R31). Copies in D1 go with it. -/
def State.removeCompute (s : State) : State :=
  let s1 := s.clearRange 0 d1Top
  let s2 := s1.clearRange winBase (32 * winSize)
  { s2 with
    tags := [], cores := []
    clusters := s2.clusters.map fun e => (e.1, { e.2.assigned with pstate := 0, wakeFrom := 0, wakeWrites := [] })
    nougat := (s2.nougat.map fun e => (e.1, e.2.bind fun n => Nougat.settle { n with inD1 := false })).filter
      fun e => e.2.isSome
    pow := { s2.pow with compute := .off } }

/-- The clusters listed keep the canonical form: one back at its reset value is not listed. -/
def State.tidyClusters (s : State) : State := { s with clusters := s.clusters.filter fun e => e.2 != {} }

/-- A module fault (17 R392, R393): every job ends without a copy and its partition is zeroised (R383, R388), links go DOWN (18 Table 18-10), the compute domain is removed,
critical warning bit 2 is set; where the storage side is lost too, the controllers report Controller Fatal Status. -/
def State.moduleFault (s : State) (storageLost : Bool) : State :=
  let ended := allParts.foldl (fun t p =>
    if t.jobLoaded p then
      let u := (((t.answerWaiter p 0x0D).dropHeld (startsJob (t.part p).job.waiter)).answerWaiting p).clearJob p
      (match (t.part p).cfg with
        | some r => u.zeroiseRec r
        | none => u).closeJob p .moduleFault 0
    else t) s
  let cut := allLinks.foldl State.linkDown ended
  let off := cut.removeCompute.tidyClusters
  { off with
    critWarn := off.critWarn ||| 4
    pow := { off.pow with moduleFault := true, fatal := off.pow.fatal || storageLost } }.log .moduleFault

/-! ### Disposal of uncorrectable errors (09 R215, 11 Table 11-4, 17 Table 17-7) -/

/-- The line of D2 that holds an address is read again from F: whole code words without errors are stored (11 Table 11-4, map cache). -/
def State.refetchLine (s : State) (a : Nat) : State :=
  storeWhole 32 s (a / 256 * 256) (Memory.bytes s.mem (a / 256 * 256) 256) []

/-- What an uncorrectable code word at a module-view address brings about, whoever met it. The spec gives no addresses
within the D2 hub reserve: whether one there lies in the map cache, whose line is read again from F, or in the write buffer and FTL
structures is a free value (log 21). -/
def State.dispose (s : State) (a : Nat) : State :=
  match s.ownerOf a with
  | .region p => if locate a = .d1 then s.partFault p else s
  | .cluster p => s.partFault p
  | .pool _ => s.startHeal a
  | .sharePool => s.startHeal a
  | .reserve =>
    if locate a = .d1 then s.moduleFault false
    else if Config.freeBool s.freeCtr then s.drawn.moduleFault true else s.drawn.refetchLine a
  | .nobody => s

/-- Read n bytes for a requester (09 R215, 11 R250). -/
def State.readMem (s : State) (a n : Nat) : Got :=
  let g := s.readRaw .requester a n
  { g with st := g.ues.foldl State.dispose g.st }

/-- Write bytes for a requester (11 R251, R252). -/
def State.writeMem (s : State) (a : Nat) (d : List (Option Byte)) : State :=
  let r := s.writeRaw a d
  r.2.foldl State.dispose r.1

/-- The little-endian words of bytes (00 R3). -/
def toWords : Nat → List Byte → List Word
  | 0, _ => []
  | n + 1, d => BitVec.ofNat 64 (ofBytes (d.take 8)) :: toWords n (d.drop 8)

def ofWords (ws : List Word) : List Byte := ws.flatMap fun w => toBytes w.toNat 8

/-! ### Completion slots and ring faults (02 R42, R48, R50) -/

/-- 02 R50, 05 R141: 64-byte aligned, in activation memory or a core-local data memory. -/
def slotAddr (a : Nat) : Bool :=
  a % 64 = 0 && match clMemOf a with
    | some .act => true
    | some (.dmem _) => true
    | _ => false

/-- A valid COMPL_ADDR of a ring entry (02 R50). -/
def complOk (a : Nat) : Bool := a = 0 || slotAddr a

/-- Write a completion word: the rest of the slot is zero and its tag is set full (02 R42, R48); acts as STF (04 R117, 09 R213). -/
def State.writeSlot (s : State) (m : Nat) (w : Word) : State :=
  ((s.repairTag m).writeMem m (whole (toBytes w.toNat 8 ++ List.replicate 56 0))).setTag m true

/-- The completion of a ring entry of cluster cl; none is written to address 0 (02 R48). -/
def State.ringCompletion (s : State) (cl : Fin 32) (w0 : Word) (count status : Nat) : State :=
  let a := bits w0 63 32
  if a = 0 then s
  else s.writeSlot (clusterAddr cl a)
    (BitVec.ofNat 64 (count % 2 ^ 32 * 2 ^ 32 + bits w0 31 16 * 2 ^ 16 + status % 256 * 2 ^ 8))

/-- CLU_RING_FAULT and its event (02 R50, Table 2-5a). -/
def State.ringFaultAt (s : State) (cl : Fin 32) (ue : Bool) (ring queue index tag : Nat) : State :=
  (s.updCluster cl fun c => { c with ringFault := BitVec.ofNat 64 ((if ue then 2 ^ 46 else 0) +
      index % 4096 * 2 ^ 34 + queue % 16 * 2 ^ 30 + ring % 4 * 2 ^ 28 + (if ue then 0 else tag % 65536)) }).clusterEvent
    cl evRing

/-! ### Exceptions (02 R60 to R65) -/

/-- Record an exception (02 R61, R62, R65): cause, PC and, where there is one, the faulting address. -/
def Core.record (k : Core) (cause : Byte) (addr : Option Nat) (pc : W32) : Core :=
  { k with
    cause := cause
    excPc := pc
    excAddr := match addr with
      | some a => BitVec.ofNat 48 a
      | none => k.excAddr
    nested := k.inHandler }

/-- The bits of CLU_EVENT that are 0 and that ev sets. -/
def State.newEvents (s : State) (cl : Fin 32) (ev : BitVec 4) : BitVec 4 := ev &&& ~~~(s.cluster cl).event

/-- Deliver the recorded exception of a core that is not halting: to its handler, or to FAULTED when it has none, is inside it,
or the exception is a machine check (02 R61 to R63). -/
def State.deliver (s : State) (c : CoreId) : State :=
  let k := s.core c
  let was (ev : BitVec 4) : Delivered :=
    { cycle := s.cycle, mode := k.mode, pc := k.pc, inHandler := k.inHandler, event := s.newEvents c.cl ev, report := ev }
  if k.cause = 0x0F || k.inHandler || k.handler = 0 then
    let ev := if k.cause = 0x0F then evMachine ||| evCore else evCore
    let s1 := s.setCore c { k with
      mode := .faulted, excPending := false, haltReq := false, wait := none, delivered := some (was ev) }
    s1.clusterEvent c.cl ev
  else s.setCore c { k with
    mode := .running, excPending := false, pc := k.handler, inHandler := true, delivered := some (was 0) }

/-- TAKE AN EXCEPTION at the core's PC (02 R60 to R65). While the core is halting it is only recorded, and taken after RUN. -/
def State.takeException (s : State) (c : CoreId) (cause : Byte) (addr : Option Nat) : State :=
  let k := s.core c
  let s1 := s.setCore c (k.record cause addr k.pc)
  if k.haltReq then s1.updCore c fun k => { k with excPending := true }
  else s1.deliver c

/-- A machine check is a fault in writable partition-private state: a partition fault of the core's partition (02 R63, 17 Table
17-7). -/
def State.machineFault (s : State) (cl : Fin 32) : State :=
  match s.partOf cl with
  | some p => s.partFault p
  | none => s

/-- A halt request of this cycle stands or has taken effect. -/
def Core.haltedNow (k : Core) (cycle : Nat) : Bool :=
  k.haltCycle = cycle && ((k.mode == .running && k.haltReq) || k.mode == .halted)

/-- A machine check at the PC given (02 R63, R65, 03 R80): the core enters FAULTED, and a machine check of an earlier load replaces
the record of a later instruction's exception (log 22); in the cycle of a halt request it is recorded with EXC_PENDING. A core in
RESET takes none. -/
def State.machineCheck (s : State) (c : CoreId) (pc : W32) (addr : Option Nat) : State :=
  let k := s.core c
  match k.mode with
  | .reset => s
  | _ =>
    let s1 := s.setCore c (k.record 0x0F addr pc)
    let s2 := if k.haltedNow s.cycle then s1.updCore c fun k => { k with excPending := true }
      else (s1.deliver c).updCluster c.cl fun g => { g with held := g.held.filter fun e => e.core != c.k }
    s2.machineFault c.cl

/-- The core's own instruction memory holds address pc, 4-byte aligned (02 R33, Table 2-18). -/
def fetchable (c : CoreId) (pc : W32) : Bool :=
  pc.toNat % 4 = 0 && imemBase c.k.val ≤ pc.toNat && pc.toNat < imemBase c.k.val + 0x4000

/-- Continue at an address: exception 0x02 with CLU_CORE_EXC_PC holding it when it cannot be fetched (02 R59, 03 R87). -/
def State.continueAt (s : State) (c : CoreId) (pc : W32) : State :=
  let s1 := s.updCore c fun k => { k with pc := pc }
  if fetchable c pc then s1 else s1.takeException c 0x02 none

/-- RETURN FROM AN EXCEPTION (03 R90, 02 R61): CAUSE becomes 0 and the core continues at CLU_CORE_EXC_PC. -/
def State.returnFrom (s : State) (c : CoreId) : State :=
  let s1 := s.updCore c fun k => { k with cause := 0, inHandler := false, retired := k.retired + 1 }
  s1.continueAt c (s.core c).excPc

end Sys2Proof.Machine
end

