-- ==== Sys2Proof/Machine/Operands.lean ====
section
/-! DEFINITION. Operand forms of the sliver instructions: scalar, vector and predicate registers (03 Table 3-1, R69), vector
elements under predication (R70, R71), sign extension, and the address checks of 03 R77, R78, R81 and 10 R240. -/

namespace Sys2Proof.Machine

open Sys2Proof

/-- A register of a sliver core. -/
inductive Reg where
  | s (n : BitVec 5)
  | v (n : BitVec 4)
  | p (n : BitVec 3)
deriving DecidableEq, Repr

/-- 03 R69: s0 reads 0. -/
def Core.sreg (k : Core) (n : BitVec 5) : Word := if n = 0 then 0 else SMap.get (fun _ => 0) k.sregs n.toNat
/-- 03 R69: a write to s0 is discarded. -/
def Core.setS (k : Core) (n : BitVec 5) (w : Word) : Core :=
  if n = 0 then k else { k with sregs := SMap.set (fun _ => 0) k.sregs n.toNat w }
def Core.vreg (k : Core) (n : BitVec 4) : Slot := SMap.get (fun _ => 0) k.vregs n.toNat
def Core.setV (k : Core) (n : BitVec 4) (w : Slot) : Core := { k with vregs := SMap.set (fun _ => 0) k.vregs n.toNat w }
def Core.preg (k : Core) (n : BitVec 3) : Word := SMap.get (fun _ => 0) k.pregs n.toNat
def Core.setP (k : Core) (n : BitVec 3) (w : Word) : Core := { k with pregs := SMap.set (fun _ => 0) k.pregs n.toNat w }

/-- The register an outstanding load will write. -/
def LoadKind.dest : LoadKind → Reg
  | .scalar _ rt => .s rt
  | .vector vt _ => .v vt
  | .atomic _ _ rd _ _ => .s rd
  | .test t => .s t
  | .steal rd _ => .s rd

/-- A register awaits the result of an outstanding load (02 R34); s0 never does (03 R69). -/
def Core.awaits (k : Core) (r : Reg) : Bool := r != .s 0 && k.loads.any fun l => !l.dead && l.kind.dest == r

/-- A 5-bit field that names a vector register (04 R102). -/
def vField (n : BitVec 5) : BitVec 4 := n.truncate 4
def pField (n : BitVec 5) : BitVec 3 := n.truncate 3

/-! ### Elements (03 R70) -/

def esz : ESz → Nat
  | .b1 => 1
  | .b2 => 2
  | .b4 => 4
  | .b8 => 8

/-- Element e of size w bytes. -/
def elem (v : Slot) (w e : Nat) : Nat := (v.toNat >>> (8 * w * e)) % 2 ^ (8 * w)

/-- The register whose elements of w bytes are f 0, f 1, ... -/
def ofElems (w : Nat) (f : Nat → Nat) : Slot :=
  BitVec.ofNat 512 ((List.range (64 / w)).foldl (fun x e => x + (f e % 2 ^ (8 * w)) * 2 ^ (8 * w * e)) 0)

/-- Whether element e of w bytes is active (03 R70). -/
def Core.active (k : Core) (p : Bool) (pg : BitVec 3) (w e : Nat) : Bool := !p || (k.preg pg).getLsbD (e * w)

/-- A predicated destination (03 R71): active elements take f, inactive ones are zeroed or kept. -/
def Core.merge (k : Core) (pr : Pred) (w : Nat) (old : Slot) (f : Nat → Nat) : Slot :=
  ofElems w fun e => if k.active pr.p pr.pg w e then f e else if pr.z then 0 else elem old w e

/-- n-bit value as a signed integer. -/
def signed (n v : Nat) : Int := if 2 * (v % 2 ^ n) ≥ 2 ^ n then (v % 2 ^ n : Nat) - (2 ^ n : Nat) else (v % 2 ^ n : Nat)

/-- An integer as an n-bit two's complement value. -/
def unsigned (n : Nat) (v : Int) : Nat := (v % (2 ^ n : Nat)).toNat

/-- Sources of a predicated vector instruction: the destination too where inactive elements are kept (03 R71). -/
def predSources (pr : Pred) (vd : BitVec 4) : List Reg :=
  (if pr.p then [.p pr.pg] else []) ++ (if pr.p && !pr.z then [.v vd] else [])

/-! ### Address checks (03 R76 to R78) -/

/-- Outcome of address checking: the module-view address, or an exception with its faulting address. -/
inductive Check where
  | at (loc : ViewLoc) (m : Nat)
  | exc (cause : Byte) (addr : Nat)
deriving DecidableEq, Repr

/-- The address of EXC_ADDR: in local space the own window base plus ea[31:0] (03 R78). The register holds 48 bits, and an effective
address of global space that has bits above 47 is recorded by its low 48 (log 96). -/
def State.excView (s : State) (c : CoreId) (g : Bool) (ea : Word) : Nat :=
  if g then ea.toNat % 2 ^ 48 else s.ownView c.cl (ea.toNat % 2 ^ 32)

/-- The partition of a cluster has a job loaded. -/
def State.jobOn (s : State) (cl : Fin 32) : Bool :=
  match s.partOf cl with
  | some p => s.jobLoaded p
  | none => false

/-- Where an effective address leads in the space of its G bit (03 R76). -/
def State.spaceView (s : State) (c : CoreId) (g : Bool) (ea : Word) : Option (ViewLoc × Nat) :=
  if g then
    if ea.toNat < 2 ^ 48 then s.view c.cl ea.toNat else none
  else if ea.toNat < 2 ^ 32 && populated ea.toNat then
    some (.window c.cl ea.toNat, clusterAddr c.cl ea.toNat)
  else none

def ViewLoc.isImem : ViewLoc → Bool
  | .window _ o => match clMemOf o with
    | some (.imem _) => true
    | _ => false
  | _ => false

/-- 03 R77, with 10 R240: a write to the D2 region of a partition with a job loaded takes exception 0x03, before the check of
alignment (log 97: R77's list does not name R240's check). -/
def State.checkAccess (s : State) (c : CoreId) (g : Bool) (ea : Word) (size : Nat) (writes : Bool) : Check :=
  match s.spaceView c g ea with
  | none => .exc 0x03 (s.excView c g ea)
  | some (loc, m) =>
    if writes && loc == .d2 && s.jobOn c.cl then .exc 0x03 (s.excView c g ea)
    else if ea.toNat % size ≠ 0 then .exc 0x04 (s.excView c g ea)
    else if writes && loc.isImem then .exc 0x05 (s.excView c g ea)
    else .at loc m

/-- Full/empty addresses: D1, D2 and other clusters' slots take exception 0x03 (04 R112, R113, 09 R214). -/
def State.checkSlot (s : State) (c : CoreId) (g : Bool) (ea : Word) (size : Nat) (writes : Bool) : Check :=
  match s.spaceView c g ea with
  | some (.window cl _, _) =>
    if cl = c.cl then s.checkAccess c g ea size writes else .exc 0x03 (s.excView c g ea)
  | _ => .exc 0x03 (s.excView c g ea)

end Sys2Proof.Machine
end

