-- ==== Sys2Proof/Machine/Flags.lean ====
section
/-! DEFINITION. Status fields that are computed from the state: CLU_STATUS, CLU_EVENT, MXC_STATUS, CLU_CORE_STATE,
CLU_CORE_ID (02 Tables 2-10 to 2-17), CLU_MEM_STATUS (09 Table 9-7), MXC_GUARD_STAT (07 Table 7-5), SFE_SLOT_VALID and
SFE_SLOT_KIND (08 Table 8-0a), CLU_SPILL_STAT (16 Table 16-12). -/

namespace Sys2Proof.Machine

open Sys2Proof

def b2n (b : Bool) : Nat := if b then 1 else 0

/-- Cores in RUNNING or WAITING (02 Table 2-10). -/
def State.runningCores (s : State) (cl : Fin 32) : Nat :=
  (allCores.filter fun k => let m := (s.core ⟨cl, k⟩).mode
    m == .running || m == .waiting).length

/-- CLU_STATUS (02 Table 2-10). -/
def State.cluStatus (s : State) (cl : Fin 32) : Word :=
  let c := s.cluster cl
  BitVec.ofNat 64 (s.runningCores cl * 256 + b2n c.tmIdle * 4 + b2n c.mxcIdle * 2 + b2n (s.quiet cl))

/-- Commands executing (02 Table 2-13); a closing GUARD whose re-run is under way counts as one. -/
def Cluster.executing (c : Cluster) : Nat := c.mxExec.length + b2n c.grd.closing.isSome

/-- MXC_STATUS (02 Table 2-13). -/
def Cluster.mxcStatus (c : Cluster) : Word :=
  BitVec.ofNat 64 (c.mxq.length * 256 + b2n c.mxcFault * 32 + c.executing)

def CoreMode.code : CoreMode → Nat
  | .reset => 0
  | .halted => 1
  | .running => 2
  | .waiting => 3
  | .faulted => 4

/-- CLU_CORE_STATE (02 Table 2-15). -/
def Core.stateWord (k : Core) : Word :=
  BitVec.ofNat 64 (k.pc.toNat * 2 ^ 32 + b2n k.excPending * 8 + k.mode.code)

/-- CLU_CORE_EXC_CAUSE (02 Table 2-16). -/
def Core.causeWord (k : Core) : Word := BitVec.ofNat 64 (b2n k.nested * 256 + k.cause.toNat)

/-- CLU_CORE_ID (02 Table 2-17, 01 R507). -/
def State.coreId (s : State) (c : CoreId) : Word :=
  let p := match s.partOf c.cl with
    | some p => p.val
    | none => 0xF
  BitVec.ofNat 64 (p * 2 ^ 24 + c.cl.val * 2 ^ 16 + s.partIndex c.cl * 2 ^ 8 + c.k.val)

/-- CLU_MEM_STATUS (09 Table 9-7). -/
def Cluster.memStatus (c : Cluster) : Word := BitVec.ofNat 64 (b2n c.memRefused * 2 + b2n c.zeroising)

def Cluster.slot (c : Cluster) (n : Nat) : FnSlot := SMap.get FnSlot.reset c.slots n

def FnSlot.valid : FnSlot → Bool
  | .empty => false
  | _ => true

/-- SFE_SLOT_VALID (08 Table 8-0a). -/
def Cluster.slotValid (c : Cluster) : Word :=
  BitVec.ofNat 64 ((List.range 64).foldl (fun x n => x + b2n (c.slot n).valid * 2 ^ n) 0)

/-- Entries of the head stage that pops see: 3 cycles after they were stored (16 R371). -/
def Spill.visible (f : Spill) (cycle : Nat) : Nat := (f.head.takeWhile fun e => e.2 ≤ cycle).length

def Spill.depth (f : Spill) : Nat := f.tail.length + f.midLen + f.head.length

/-- CLU_SPILL_STAT (16 Table 16-12). -/
def State.spillStat (s : State) (cl : Fin 32) : Word :=
  let f := (s.cluster cl).spill
  BitVec.ofNat 64 (b2n (f.visible s.cycle < f.depth) * 2 ^ 32 + min f.depth 1048608)

end Sys2Proof.Machine
end

