-- ==== Sys2Proof/Machine/Issue.lean ====
section
/-! DEFINITION. Issue of a sliver instruction (02 R33, R34, R36, 03 R73, R74): the command names a core and the fields of the
instruction word that stands at its PC (log 23). A core that is not RUNNING issues nothing. -/

namespace Sys2Proof.Machine

open Sys2Proof

/-- What an instruction does once it has issued. -/
inductive Act where
  /-- it waits at issue: nothing changes -/
  | wait
  /-- it completes, and the core goes on behind it -/
  | go (s : State)
  /-- it has issued and completes when its load returns; the core goes on behind it -/
  | issued (s : State)
  /-- it completes, and the core continues at an address -/
  | jump (s : State) (pc : W32)
  /-- it takes an exception -/
  | exc (cause : Byte) (addr : Option Nat)
  /-- the core takes a machine check at it -/
  | check (s : State) (addr : Option Nat)
  /-- the state as it is: the core waits in WAITING, or has returned from an exception -/
  | stay (s : State)

/-- The core's PC moves past an instruction of n bytes. -/
def State.advance (s : State) (c : CoreId) (n : Nat) : State :=
  s.updCore c fun k => { k with pc := k.pc + BitVec.ofNat 32 n }

/-- One more instruction completed (03 Table 3-10). -/
def State.retire (s : State) (c : CoreId) : State :=
  s.updCore c fun k => { k with retired := k.retired + 1 }

/-- A core that begins to wait in the cycle of a halt request is halted at once (02 R64). -/
def State.settleHalt (s : State) (c : CoreId) : State :=
  if (s.core c).mode == .waiting && (s.core c).haltReq then s.haltCore c (s.core c).haltCycle else s

/-- Bring an instruction's act about; n is its length in bytes. -/
def State.perform (s : State) (c : CoreId) (n : Nat) (a : Act) : Result :=
  .next (match a with
    | .wait => s
    | .go t => (t.advance c n).retire c
    | .issued t => t.advance c n
    | .jump t pc => (t.retire c).continueAt c pc
    | .exc cause addr => s.takeException c cause addr
    | .check t addr => t.machineCheck c (s.core c).pc addr
    | .stay t => t.settleHalt c)

/-- A core issues: it is RUNNING, no halt request of an earlier cycle stands and no exception is recorded as pending (02 R64, R65);
its cluster has power. -/
def State.issues (s : State) (c : CoreId) : Bool :=
  let k := s.core c
  k.mode == .running && (!k.haltReq || s.cycle ≤ k.haltCycle) && !k.excPending && (s.cluster c.cl).pstate == 0 &&
    !(s.cluster c.cl).zeroising

/-- Issue one instruction of n bytes: fetch checks (02 R59, 03 R74, 09 R215), the encoding (03 R73), the scoreboard (02 R34),
then what the instruction does. -/
def State.issue (s : State) (c : CoreId) (n : Nat) (legal : Bool) (srcs dsts : List Reg) (f : State → Core → Act) : Result :=
  if s.issues c then
    let k := s.core c
    if fetchable c k.pc && (n = 4 || fetchable c (k.pc + 4)) then
      let g := s.readMem (clusterAddr c.cl k.pc.toNat) n
      if g.ues.isEmpty then
        if !legal then g.st.perform c n (.exc 0x01 none)
        else if srcs.any k.awaits || dsts.any k.awaits then .next s
        else g.st.perform c n (f g.st (g.st.core c))
      else g.st.perform c n (.check g.st none)
    else s.perform c n (.exc 0x02 none)
  else .next s

/-- An instruction that reads and writes only its core's registers. -/
def State.issueReg (s : State) (c : CoreId) (n : Nat) (legal : Bool) (srcs dsts : List Reg) (f : Core → Core) : Result :=
  s.issue c n legal srcs dsts fun t k => .go (t.setCore c (f k))

end Sys2Proof.Machine
end

