-- ==== Sys2Proof/Machine/Scalar.lean ====
section
/-! DEFINITION. Scalar integer instructions (03 Tables 3-4, 3-5, R72 to R75). -/

namespace Sys2Proof.Machine

open Sys2Proof

/-- Leading zeros of an n-bit value, n for 0. -/
def clzNat (n v : Nat) : Nat := if v = 0 then n else n - 1 - Nat.log2 v

/-- Trailing zeros of a 64-bit value, 64 for 0. -/
def ctz64 (v : Nat) : Nat := ((List.range 64).find? fun i => v.testBit i).getD 64

/-- 03 Table 3-4, major 0x01. -/
def aluResult (op : AluOp) (a b : Word) : Word :=
  let sh := b.toNat % 64
  match op with
  | .add => a + b
  | .sub => a - b
  | .and => a &&& b
  | .or => a ||| b
  | .xor => a ^^^ b
  | .sll => a <<< sh
  | .srl => a >>> sh
  | .sra => a.sshiftRight sh
  | .ror => a.rotateRight sh
  | .slt => if a.toInt < b.toInt then 1 else 0
  | .sltu => if a.toNat < b.toNat then 1 else 0
  | .min => if a.toInt < b.toInt then a else b
  | .max => if a.toInt < b.toInt then b else a
  | .minu => if a.toNat < b.toNat then a else b
  | .maxu => if a.toNat < b.toNat then b else a
  | .clz => BitVec.ofNat 64 (clzNat 64 a.toNat)
  | .ctz => BitVec.ofNat 64 (ctz64 a.toNat)
  | .popc => BitVec.ofNat 64 (popCount 64 a.toNat)

/-- 03 Table 3-5. -/
def immResult (op : ImmOp) (a : Word) (imm : BitVec 16) : Word :=
  match op with
  | .addi => a + imm.signExtend 64
  | .andi => a &&& imm.signExtend 64
  | .ori => a ||| imm.zeroExtend 64
  | .xori => a ^^^ imm.zeroExtend 64
  | .slti => if a.toInt < imm.toInt then 1 else 0
  | .sltiu => if a.toNat < (imm.signExtend 64).toNat then 1 else 0

/-- 03 Table 3-5, SHIFTI. -/
def shiftResult (a : Word) (imm : BitVec 16) : Word :=
  let sh := bits imm 5 0
  match bits imm 7 6 with
  | 0 => a <<< sh
  | 1 => a >>> sh
  | 2 => a.sshiftRight sh
  | _ => a.rotateRight sh

/-- 03 Table 3-4, major 0x09, FUNC 0 to 2. -/
def mulResult (op : MulOp) (a b : Word) : Word :=
  match op with
  | .mul => a * b
  | .mulh => BitVec.ofInt 64 (a.toInt * b.toInt / 2 ^ 64)
  | .mulhu => BitVec.ofNat 64 (a.toNat * b.toNat / 2 ^ 64)

/-- 03 R75: division by zero gives quotient all ones and remainder ra; -2^63 / -1 gives -2^63 and 0. -/
def divResult (op : DivOp) (a b : Word) : Word :=
  match op with
  | .div => if b = 0 then BitVec.allOnes 64 else BitVec.ofInt 64 (a.toInt.tdiv b.toInt)
  | .divu => if b = 0 then BitVec.allOnes 64 else BitVec.ofNat 64 (a.toNat / b.toNat)
  | .rem => if b = 0 then a else BitVec.ofInt 64 (a.toInt.tmod b.toInt)
  | .remu => if b = 0 then a else BitVec.ofNat 64 (a.toNat % b.toNat)

def execAlu (c : CoreId) (op : AluOp) (rd ra rb : BitVec 5) (s : State) : Result :=
  s.issueReg c 4 (Instr.wellFormed (.alu c op rd ra rb)) [.s ra, .s rb] [.s rd] fun k =>
    k.setS rd (aluResult op (k.sreg ra) (k.sreg rb))

def execAddi (c : CoreId) (op : ImmOp) (rd ra : BitVec 5) (imm : BitVec 16) (s : State) : Result :=
  s.issueReg c 4 true [.s ra] [.s rd] fun k => k.setS rd (immResult op (k.sreg ra) imm)

def execShifti (c : CoreId) (rd ra : BitVec 5) (imm : BitVec 16) (s : State) : Result :=
  s.issueReg c 4 (Instr.wellFormed (.shifti c rd ra imm)) [.s ra] [.s rd] fun k =>
    k.setS rd (shiftResult (k.sreg ra) imm)

def execMul (c : CoreId) (op : MulOp) (rd ra rb : BitVec 5) (s : State) : Result :=
  s.issueReg c 4 true [.s ra, .s rb] [.s rd] fun k => k.setS rd (mulResult op (k.sreg ra) (k.sreg rb))

def execDiv (c : CoreId) (op : DivOp) (rd ra rb : BitVec 5) (s : State) : Result :=
  s.issueReg c 4 true [.s ra, .s rb] [.s rd] fun k => k.setS rd (divResult op (k.sreg ra) (k.sreg rb))

def execLi32 (c : CoreId) (rd : BitVec 5) (imm : W32) (s : State) : Result :=
  s.issueReg c 8 true [] [.s rd] fun k => k.setS rd (imm.signExtend 64)

def execAddi32 (c : CoreId) (rd ra : BitVec 5) (imm : W32) (s : State) : Result :=
  s.issueReg c 8 true [.s ra] [.s rd] fun k => k.setS rd (k.sreg ra + imm.signExtend 64)

def execLih32 (c : CoreId) (rd ra : BitVec 5) (imm : W32) (s : State) : Result :=
  s.issueReg c 8 true [.s ra] [.s rd] fun k =>
    k.setS rd ((imm.zeroExtend 64 <<< 32) ||| ((k.sreg ra).truncate 32 : W32).zeroExtend 64)

end Sys2Proof.Machine
end

