-- ==== Sys2Proof/Machine/LoadStore.lean ====
section
/-! DEFINITION. Loads, stores, atomics, their return and effect, and the fences (02 R36, R37, 03 R76 to R84, R98 to R100). -/

namespace Sys2Proof.Machine

open Sys2Proof

/-! ### Order of a core's memory operations -/

/-- No later load, store, atomic or tensor issue proceeds while something before the last FENCE.FULL is outstanding
(03 Table 3-8). -/
def Core.fullFenced (k : Core) : Bool :=
  k.loads.any (fun l => l.seq < k.fullFence) || k.stores.any (fun t => t.seq < k.fullFence)

/-- The same for loads and atomics after FENCE.LOAD. -/
def Core.loadFenced (k : Core) : Bool := k.fullFenced || k.loads.any fun l => l.seq < k.loadFence

/-- The core has no outstanding load or atomic and no buffered store (04 R115). -/
def Core.drained (k : Core) : Bool := k.loads.isEmpty && k.stores.isEmpty

/-- One more outstanding load (02 R36). -/
def State.pushLoad (s : State) (c : CoreId) (kind : LoadKind) (m v : Nat) : State :=
  s.updCore c fun k => { k with
    loads := k.loads ++ [{ kind := kind, addr := m, vaddr := v, seq := k.memSeq, issued := s.cycle, aged := false, pc := k.pc }]
    memSeq := k.memSeq + 1 }

/-- One more buffered store (02 R36); it takes effect after the stores before the last FENCE.STORE (03 R84). -/
def State.pushStore (s : State) (c : CoreId) (m : Nat) (d : Slot) (mask : Word) : State :=
  s.updCore c fun k => { k with
    stores := k.stores ++ [{ addr := m, data := d, mask := mask, seq := k.memSeq, after := k.storeFence, issued := s.cycle,
                             aged := false }]
    memSeq := k.memSeq + 1 }

def LoadKind.isSteal : LoadKind → Bool
  | .steal _ _ => true
  | _ => false

/-- No older access of the core to the same slot is outstanding (02 R37). -/
def Core.firstAt (k : Core) (m seq : Nat) : Bool :=
  k.loads.all (fun l => l.kind.isSteal || l.seq ≥ seq || l.addr / 64 != m / 64) &&
    k.stores.all (fun t => t.seq ≥ seq || t.addr / 64 != m / 64)

def ldBytes : LdSize → Nat
  | .lb | .lbu => 1
  | .lh | .lhu => 2
  | .lw | .lwu => 4
  | .ld => 8

def stBytes : StSize → Nat
  | .sb => 1
  | .sh => 2
  | .sw => 4
  | .sd => 8

/-- What a scalar load writes (03 Table 3-6). -/
def ldExtend (sz : LdSize) (v : Nat) : Word :=
  match sz with
  | .lb => BitVec.ofInt 64 (signed 8 v)
  | .lh => BitVec.ofInt 64 (signed 16 v)
  | .lw => BitVec.ofInt 64 (signed 32 v)
  | _ => BitVec.ofNat 64 v

/-- ea := s[ra] + sext(imm) * scale (03 R77). -/
def effAddr {n : Nat} (base : Word) (imm : BitVec n) (scale : Nat) : Word :=
  base + imm.signExtend 64 * BitVec.ofNat 64 scale

/-- A load whose address has been formed: it is checked and becomes outstanding (03 R77, 02 R36). -/
def State.issueLoad (s : State) (c : CoreId) (k : Core) (g : Bool) (ea : Word) (size : Nat) (writes : Bool)
    (kind : LoadKind) : Act :=
  match s.checkAccess c g ea size writes with
  | .exc cause a => .exc cause (some a)
  | .at _ m =>
    if k.loads.length ≥ 8 || k.loadFenced then .wait
    else .issued (s.pushLoad c kind m (s.excView c g ea))

/-- A store whose address has been formed: it is checked and buffered (03 R77, 02 R36). -/
def State.issueStore (s : State) (c : CoreId) (k : Core) (g : Bool) (ea : Word) (size : Nat) (d : Slot) (mask : Word) : Act :=
  match s.checkAccess c g ea size true with
  | .exc cause a => .exc cause (some a)
  | .at _ m => if k.stores.length ≥ 16 || k.fullFenced then .wait else .go (s.pushStore c m d mask)

/-- The low n bytes of a slot. -/
def lowMask (n : Nat) : Word := BitVec.ofNat 64 (2 ^ n - 1)

def execLd (c : CoreId) (sz : LdSize) (g : Bool) (rt ra : BitVec 5) (imm : BitVec 12) (s : State) : Result :=
  s.issue c 4 true [.s ra] [.s rt] fun t k =>
    t.issueLoad c k g (effAddr (k.sreg ra) imm (ldBytes sz)) (ldBytes sz) false (.scalar sz rt)

def execSt (c : CoreId) (sz : StSize) (g : Bool) (rt ra : BitVec 5) (imm : BitVec 12) (s : State) : Result :=
  s.issue c 4 true [.s ra, .s rt] [] fun t k =>
    t.issueStore c k g (effAddr (k.sreg ra) imm (stBytes sz)) (stBytes sz) ((k.sreg rt).zeroExtend 512)
      (lowMask (stBytes sz))

/-- Bytes of a vector load or store: all, or those whose predicate bit is 1 (03 R79). -/
def Core.byteMask (k : Core) (p : Bool) (pg : BitVec 3) : Word := if p then k.preg pg else BitVec.allOnes 64

def execVld (c : CoreId) (g p : Bool) (pg : BitVec 3) (vt : BitVec 4) (ra : BitVec 5) (imm : BitVec 12) (s : State) : Result :=
  s.issue c 4 true ([.s ra] ++ (if p then [.p pg] else [])) [.v vt] fun t k =>
    if k.byteMask p pg = 0 then .go (t.setCore c (k.setV vt 0))
    else t.issueLoad c k g (effAddr (k.sreg ra) imm 64) 64 false (.vector vt (k.byteMask p pg))

def execVst (c : CoreId) (g p : Bool) (pg : BitVec 3) (vt : BitVec 4) (ra : BitVec 5) (imm : BitVec 12) (s : State) : Result :=
  s.issue c 4 true ([.s ra, .v vt] ++ (if p then [.p pg] else [])) [] fun t k =>
    if k.byteMask p pg = 0 then .go t
    else t.issueStore c k g (effAddr (k.sreg ra) imm 64) 64 (k.vreg vt) (k.byteMask p pg)

def execAmo (c : CoreId) (op : AmoOp) (g w : Bool) (rd ra rb : BitVec 5) (s : State) : Result :=
  s.issue c 4 true ([.s ra, .s rb] ++ (if op = .cas then [.s rd] else [])) [.s rd] fun t k =>
    t.issueLoad c k g (k.sreg ra) (if w then 4 else 8) true (.atomic op w rd (k.sreg rb) (k.sreg rd))

def execFenceFull (c : CoreId) (s : State) : Result :=
  s.issueReg c 4 true [] [] fun k => { k with fullFence := k.memSeq }

def execFenceStore (c : CoreId) (s : State) : Result :=
  s.issueReg c 4 true [] [] fun k => { k with storeFence := k.memSeq }

def execFenceLoad (c : CoreId) (s : State) : Result :=
  s.issueReg c 4 true [] [] fun k => { k with loadFence := k.memSeq }

/-- The commands carry the instruction words, so no word fetched behind the fence is held (log 23). -/
def execFenceIfetch (c : CoreId) (s : State) : Result :=
  s.issueReg c 4 true [] [] fun k => k

/-! ### Bank arbitration (09 Table 9-1, R209 to R211) -/

/-- A number for the bank that holds a cluster address. -/
def bankOf (a : Nat) : Nat :=
  let diag (o : Nat) : Nat := (o / 64 % 64 + o / 4096 % 64) % 64
  if a < 0x01000000 then a / 64 % 32
  else if a < 0x02000000 then 32 + diag (a - 0x01000000)
  else if a < 0x02800000 then 96 + diag (a - 0x02000000)
  else
    let k := (a - 0x03000000) / 0x10000
    if a % 0x10000 < 0x4000 then 160 + k else 288 + k * 8 + (a % 0x10000 - 0x4000) / 256 % 8

/-- The bank of a module-view address: cluster and bank number. -/
def bankAt (m : Nat) : Option (Fin 32 × Nat) :=
  match locate m with
  | .sram cl a => some (cl, bankOf a)
  | _ => none

/-- A load that its slot's order lets the memory serve (02 R37). -/
def Core.loadReady (k : Core) (l : OutLoad) : Bool := !l.kind.isSteal && k.firstAt l.addr l.seq

/-- A store that its slot's order and FENCE.STORE let the memory serve (02 R37, 03 R84). -/
def Core.storeReady (k : Core) (t : BufStore) : Bool := k.firstAt t.addr t.seq && k.stores.all fun u => u.seq ≥ t.after

/-- A request that waits at a bank: the number of its core in State.cores, none for the tile mover; the cycle of its arrival; and
whether it is aged (09 R211). -/
structure BankAsk where
  core  : Option Nat
  since : Nat
  aged  : Bool
deriving DecidableEq, Repr

/-- The requests that core number n has at a bank. A load or store is at its bank from its issue on (log 94). -/
def Core.asksAt (k : Core) (n : Nat) (b : Fin 32 × Nat) : List BankAsk :=
  (k.loads.filter fun l => k.loadReady l && bankAt l.addr == some b).map (fun l => ⟨some n, l.issued, l.aged⟩) ++
    (k.stores.filter fun t => k.storeReady t && bankAt t.addr == some b).map (fun t => ⟨some n, t.issued, t.aged⟩) ++
    match k.feAt with
    | some (m, i, a) => if bankAt m == some b then [⟨some n, i, a⟩] else []
    | none => []

/-- A range of module-view addresses has a slot in a bank. -/
def rangeAtBank (b : Fin 32 × Nat) (r : Nat × Nat) : Bool :=
  (List.range ((r.1 % 64 + r.2 + 63) / 64)).any fun i => bankAt (r.1 / 64 * 64 + 64 * i) == some b

/-- The aged accesses of a cluster's tile mover at a bank (09 R211). -/
def Cluster.asksAt (c : Cluster) (b : Fin 32 × Nat) : List BankAsk :=
  (c.tmExec.filter fun e => e.aged && e.claim.any (rangeAtBank b)).map fun e => ⟨none, e.since, true⟩

/-- The requests that wait at a bank. -/
def State.asksAt (s : State) (b : Fin 32 × Nat) : List BankAsk :=
  (s.cores.flatMap fun e => e.2.asksAt e.1 b) ++ s.clusters.flatMap fun e => e.2.asksAt b

/-- How far core k stands behind a bank's pointer p, counting upward modulo 128 (09 R210). -/
def rrDistance (p : BitVec 7) (k : Nat) : Nat := (k + 128 - p.toNat) % 128

/-- Whether a bank serves a request of core c now (09 R209 to R211): aged requests come first, the oldest first; then the cluster
port; then the cores of the cluster by the bank's pointer. -/
def State.bankServes (s : State) (c : CoreId) (m issued : Nat) (aged : Bool) : Bool :=
  match bankAt m with
  | none => true
  | some b =>
    let asks := s.asksAt b
    if aged then asks.all fun r => !r.aged || issued ≤ r.since
    else asks.all (fun r => !r.aged) && (c.cl != b.1 ||
      let p : BitVec 7 := SMap.get (fun _ => 0) (s.cluster b.1).rr b.2
      asks.all fun r => match r.core with
        | some n => n / 128 == b.1.val && rrDistance p c.k.val ≤ rrDistance p (n % 128)
        | none => true)

/-- Whether a request at level 2 to 5 other than a core's finds no aged request before it in the banks of its ranges (09 R211). -/
def State.portServes (s : State) (ranges : List (Nat × Nat)) (since : Nat) (aged : Bool) : Bool :=
  s.cores.all (fun e => (e.2.loads.all fun l => !(l.aged && e.2.loadReady l) || (aged && since ≤ l.issued) ||
      ranges.all fun r => match bankAt l.addr with
        | some b => !rangeAtBank b r
        | none => true) &&
    e.2.stores.all fun t => !(t.aged && e.2.storeReady t) || (aged && since ≤ t.issued) ||
      ranges.all fun r => match bankAt t.addr with
        | some b => !rangeAtBank b r
        | none => true)

/-- A bank that served core c's request sets its pointer behind it (09 R210); an aged request, which the pointer did not choose,
leaves it (log 94). -/
def State.served (s : State) (c : CoreId) (m : Nat) (aged : Bool) : State :=
  match bankAt m with
  | none => s
  | some b =>
    if b.1 = c.cl && !aged then
      s.updCluster c.cl fun g => { g with rr := SMap.set (fun _ => 0) g.rr b.2 (BitVec.ofNat 7 (c.k.val + 1)) }
    else s

/-! ### The memory's side -/

/-- The value an atomic writes, n bits (03 Table 3-7). -/
def amoResult (op : AmoOp) (n old rb expected : Nat) : Nat :=
  match op with
  | .swap => rb
  | .add => (old + rb) % 2 ^ n
  | .and => old &&& rb
  | .or => old ||| rb
  | .xor => old ^^^ rb
  | .min => if signed n old ≤ signed n rb then old else rb
  | .max => if signed n rb ≤ signed n old then old else rb
  | .minu => if old ≤ rb then old else rb
  | .maxu => if rb ≤ old then old else rb
  | .cas => if old = expected then rb else old

/-- Remove an outstanding load. -/
def State.dropLoad (s : State) (c : CoreId) (l : OutLoad) : State :=
  s.updCore c fun k => { k with loads := k.loads.erase l }

/-- Write a load's result and count the instruction; a restarted core's register is not written. -/
def State.loadDone (s : State) (c : CoreId) (l : OutLoad) (f : Core → Core) : State :=
  let s1 := s.dropLoad c l
  if l.dead then s1 else (s1.updCore c f).retire c

/-- A read that met an uncorrectable error: the machine check of 03 R80. -/
def State.loadFailed (s : State) (c : CoreId) (l : OutLoad) : State :=
  let s1 := s.dropLoad c l
  if l.dead then s1 else s1.machineCheck c l.pc (some l.vaddr)

/-- Whether an uncorrectable code word holds a byte that the mask names in the slot at m. -/
def ueTouches (ues : List Nat) (m : Nat) (mask : Word) : Bool :=
  (List.range 64).any fun i => mask.getLsbD i && ues.any fun w => w ≤ m + i && m + i < w + codeSize w

/-- One outstanding load returns (02 R36): the memory is read now, in program order for its slot (R37). A predicated VLD reads its
slot whole, so that a code word whose bytes are all inactive is counted and disposed of too; but the core, which is given none of its
bytes, takes no machine check for it (log 95). A steal returns what its deque served it (R55). -/
def State.returnLoad (s : State) (c : CoreId) (l : OutLoad) : State :=
  match l.kind with
  | .scalar sz rt =>
    let g := s.readMem l.addr (ldBytes sz)
    if g.ues.isEmpty then g.st.loadDone c l fun k => k.setS rt (ldExtend sz (ofBytes g.data)) else g.st.loadFailed c l
  | .vector vt mask =>
    let g := s.readMem l.addr 64
    if ueTouches g.ues l.addr mask then g.st.loadFailed c l
    else g.st.loadDone c l fun k => k.setV vt (ofElems 1 fun i =>
      if mask.getLsbD i then (g.data.getD i 0).toNat else 0)
  | .atomic op w rd rb expected =>
    let n := if w then 4 else 8
    let g := s.readMem l.addr n
    if g.ues.isEmpty then
      let old := ofBytes g.data
      let new := amoResult op (8 * n) old (rb.toNat % 2 ^ (8 * n)) (expected.toNat % 2 ^ (8 * n))
      (g.st.writeMem l.addr (whole (toBytes new n))).loadDone c l fun k => k.setS rd (BitVec.ofNat 64 old)
    else g.st.loadFailed c l
  | .test t =>
    let s1 := s.repairTag l.addr
    s1.loadDone c l fun k => k.setS t (if s1.tagFull l.addr then 1 else 0)
  | .steal rd res =>
    match res with
    | some (w, _) => s.loadDone c l fun k => k.setS rd w
    | none => s

def execLoadReturn (c : CoreId) (i : Fin 8) (s : State) : Result :=
  let k := s.core c
  match k.loads[i.val]? with
  | some l =>
    if l.kind.isSteal then .next (s.returnLoad c l)
    else if k.loadReady l && s.bankServes c l.addr l.issued l.aged then
      .next ((s.served c l.addr l.aged).returnLoad c l)
    else .next s
  | none => .next s

/-- The bytes a buffered store writes. -/
def BufStore.bytes (t : BufStore) : List (Option Byte) :=
  (List.range 64).map fun i => if t.mask.getLsbD i then some (BitVec.ofNat 8 (elem t.data 1 i)) else none

def execStoreTakesEffect (c : CoreId) (i : Fin 16) (s : State) : Result :=
  let k := s.core c
  match k.stores[i.val]? with
  | some t =>
    if k.storeReady t && s.bankServes c t.addr t.issued t.aged then
      let n := if t.addr % 64 = 0 then 64 else 64 - t.addr % 64
      .next (((s.served c t.addr t.aged).writeMem t.addr (t.bytes.take n)).updCore c fun k => { k with stores := k.stores.erase t })
    else .next s
  | none => .next s

end Sys2Proof.Machine
end

