-- ==== Sys2Proof/Machine/CoreCtl.lean ====
section
/-! DEFINITION. Control of cores and clusters (02 R58, R59, R64 to R68) and who may write a cluster's registers (02 R57,
16 R374). -/

namespace Sys2Proof.Machine

open Sys2Proof

/-- A write to the register block of cluster cl by w is performed (02 R57, 16 R374): a core reaches its own cluster only;
BAR2 writes are ignored while the cluster's partition has a job loaded and debug is not OPEN_INV. cores says whether the
register's table lets sliver cores write it. -/
def State.mayWrite (s : State) (w : Requester) (cl : Fin 32) (cores : Bool) : Bool :=
  match w with
  | .mgmt => true
  | .bar2 _ => !s.jobOn cl || s.sec.debugSt == .openInv
  | .core c => cores && c.cl == cl

/-- A core that leaves RESET starts at CLU_CORE_START_PC with its registers, its exception registers and its counters at 0 (02 R59,
03 Table 3-10). -/
def State.startCore (s : State) (c : CoreId) : State :=
  let k := s.core c
  (s.setCore c { k with
    mode := .running, cycles := 0, retired := 0, sregs := [], vregs := [], pregs := []
    cause := 0, nested := false, excPc := 0, excAddr := 0, inHandler := false, excPending := false, haltReq := false
    delivered := none }).continueAt c k.startPc

/-- A core that resumes at its PC; a recorded exception is taken first (02 R64, R65). -/
def State.resumeCore (s : State) (c : CoreId) : State :=
  let s1 := s.updCore c fun k => { k with mode := .running }
  if (s.core c).excPending then s1.deliver c else s1

/-- RESTART from HALTED or FAULTED (02 R66, R111): registers, PC, exception registers, candidate queue and event latch are
cleared; START_PC and HANDLER are kept. Loads that have not returned write no register. -/
def Core.restarted (k : Core) : Core :=
  { k with
    sregs := [], vregs := [], pregs := [], pc := 0, mode := .reset, excPending := false, haltReq := false
    cause := 0, nested := false, excPc := 0, excAddr := 0, inHandler := false, cq := [], cqWas := none, latch := false, wait := none
    delivered := none, feAt := none
    loads := k.loads.map fun l => { l with dead := true } }

/-- A gated or powered-off cluster starts to wake (21 R477). -/
def Cluster.woken (c : Cluster) : Cluster :=
  if c.pstate = 1 || c.pstate = 2 then { c with pstate := 3, wakeFrom := c.pstate } else c

/-- A write of the register at offset o of a cluster's block: one to a gated or powered-off cluster wakes it, waits, and is
then performed (21 R477). -/
def State.whenAwake (s : State) (cl : Fin 32) (o : Nat) (v : Word) (f : State → State) : State :=
  let c := s.cluster cl
  if c.pstate = 0 then f s else s.setCluster cl { c.woken with wakeWrites := c.wakeWrites ++ [.write o v] }

/-- A write of CLU_CORE_CTL to a running cluster (02 R65, R66, Table 2-19; R67, 09 R218, 01 R31). -/
def State.coreCtlNow (s : State) (c : CoreId) (run halt restart : Bool) : State :=
  let g := s.cluster c.cl
  if g.zeroising then s
  else
    let k := s.core c
    if restart && (k.mode == .halted || k.mode == .faulted) then s.updCore c Core.restarted
    else if halt then s.haltCore c s.cycle
    else if run && !g.quiesce && s.pow.compute == .ready then
      match k.mode with
      | .reset => s.startCore c
      | .halted => s.resumeCore c
      | _ => s
    else s

/-- The word that a write of CLU_CORE_CTL carries (02 Table 2-14). -/
def coreCtlWord (run halt restart : Bool) : Word := BitVec.ofNat 64 (b2n run + 2 * b2n halt + 4 * b2n restart)

def coreCtlAt (k : Fin 128) : Nat := 0x8000 + k.val * 0x40

/-- A write of CLU_CORE_CTL. -/
def State.coreCtl (s : State) (c : CoreId) (run halt restart : Bool) : State :=
  s.whenAwake c.cl (coreCtlAt c.k) (coreCtlWord run halt restart) fun t => t.coreCtlNow c run halt restart

def execRun (w : Requester) (c : CoreId) (s : State) : Result :=
  .next (if s.mayWrite w c.cl true then s.coreCtl c true false false else s)

def execHalt (w : Requester) (c : CoreId) (s : State) : Result :=
  .next (if s.mayWrite w c.cl true then s.coreCtl c false true false else s)

def execRestart (w : Requester) (c : CoreId) (s : State) : Result :=
  .next (if s.mayWrite w c.cl true then s.coreCtl c false false true else s)

/-- 02 R64: HALTED once every issued instruction has completed. -/
def execCoreHaltComplete (c : CoreId) (s : State) : Result :=
  let k := s.core c
  if k.mode == .running && k.haltReq && k.drained then
    .next (s.setCore c { k with mode := .halted, haltReq := false, feAt := none })
  else .next s

/-- CLU_CTL as a whole (02 Table 2-9, R67). -/
def State.writeCluCtl (s : State) (cl : Fin 32) (quiesce abort : Bool) : State :=
  let c := s.cluster cl
  let s1 := s.setCluster cl { c with quiesce := quiesce, quiesceAbort := abort }
  let s2 := if quiesce then s1.haltAll cl s.cycle else s1
  if quiesce && abort then s2.abortTm cl else s2

/-- A write of CLU_CTL. -/
def State.cluCtl (s : State) (cl : Fin 32) (quiesce abort : Bool) : State :=
  s.whenAwake cl 0 (BitVec.ofNat 64 (b2n quiesce + 2 * b2n abort)) fun t => t.writeCluCtl cl quiesce abort

def execQuiesce (w : Requester) (cl : Fin 32) (s : State) : Result :=
  .next (if s.mayWrite w cl false then s.cluCtl cl true (s.cluster cl).quiesceAbort else s)

def execQuiesceAbort (w : Requester) (cl : Fin 32) (s : State) : Result :=
  .next (if s.mayWrite w cl false then s.cluCtl cl true true else s)

def execQuiesceClear (w : Requester) (cl : Fin 32) (s : State) : Result :=
  .next (if s.mayWrite w cl false then s.cluCtl cl false false else s)

end Sys2Proof.Machine
end

