-- ==== Sys2Proof/Machine/Fp.lean ====
section
/-! DEFINITION. Floating-point values and the one rounding of the module: to nearest, ties away from zero (00 R9, 03 R91).
A finite value is num / den * 2^e with a sign, computed exactly and narrowed once. -/

namespace Sys2Proof.Machine

open Sys2Proof

/-- A floating-point value; zero is num = 0 and keeps its sign. -/
inductive Fpv where
  | nan
  | inf (neg : Bool)
  | fin (neg : Bool) (num den : Nat) (e : Int)
deriving DecidableEq, Repr

def Fpv.zero (neg : Bool) : Fpv := .fin neg 0 1 0

/-- num / den * 2^sh rounded to an integer, ties away from zero. -/
def roundAway (num den : Nat) (sh : Int) : Nat :=
  if 0 ≤ sh then (2 * num * 2 ^ sh.toNat + den) / (2 * den)
  else (2 * num + den * 2 ^ (-sh).toNat) / (2 * den * 2 ^ (-sh).toNat)

/-- Whether num / den * 2^e is at least 2^k. -/
def atLeastPow (num den : Nat) (e k : Int) : Bool :=
  if k ≤ e then den ≤ num * 2 ^ (e - k).toNat else den * 2 ^ (k - e).toNat ≤ num

/-- The k with 2^k <= num / den * 2^e < 2^(k + 1), for num > 0. -/
def floorLog (num den : Nat) (e : Int) : Int :=
  let k : Int := (Nat.log2 num : Int) - (Nat.log2 den : Int) + e
  if atLeastPow num den e k then k else k - 1

/-- The integer of ulps and the ulp's exponent of num / den * 2^e in a format with mb mantissa bits and least normal exponent
emin. -/
def roundUlp (mb : Nat) (emin : Int) (num den : Nat) (e : Int) : Nat × Int :=
  let k := floorLog num den e
  let q := (if k < emin then emin else k) - (mb : Int)
  (roundAway num den (e - q), q)

/-- Bits of num / den * 2^e in an IEEE format of eb exponent and mb mantissa bits, sign apart; the infinity pattern on
overflow; subnormals kept (03 R91). -/
def encodeMag (eb mb : Nat) (num den : Nat) (e : Int) : Nat :=
  if num = 0 then 0
  else
    let bias : Int := 2 ^ (eb - 1) - 1
    let r := roundUlp mb (1 - bias) num den e
    if r.1 < 2 ^ mb then r.1
    else
      let m := if r.1 = 2 ^ (mb + 1) then 2 ^ mb else r.1
      let q := if r.1 = 2 ^ (mb + 1) then r.2 + 1 else r.2
      let b := q + (mb : Int) + bias
      if b ≥ 2 ^ eb - 1 then (2 ^ eb - 1) * 2 ^ mb
      else b.toNat * 2 ^ mb + (m - 2 ^ mb)

/-- Bits of a value in an IEEE format; NaN is the quiet pattern with sign 0 (03 R91, R92). -/
def encodeIeee (eb mb : Nat) (v : Fpv) : Nat :=
  match v with
  | .nan => (2 ^ eb - 1) * 2 ^ mb + 2 ^ (mb - 1)
  | .inf neg => (if neg then 2 ^ (eb + mb) else 0) + (2 ^ eb - 1) * 2 ^ mb
  | .fin neg num den e => (if neg then 2 ^ (eb + mb) else 0) + encodeMag eb mb num den e

/-- The value of bits in an IEEE format. -/
def decodeIeee (eb mb : Nat) (x : Nat) : Fpv :=
  let m := x % 2 ^ mb
  let ex := x / 2 ^ mb % 2 ^ eb
  let neg := x / 2 ^ (eb + mb) % 2 = 1
  let bias : Int := 2 ^ (eb - 1) - 1
  if ex = 2 ^ eb - 1 then (if m = 0 then .inf neg else .nan)
  else if ex = 0 then .fin neg m 1 (1 - bias - mb)
  else .fin neg (2 ^ mb + m) 1 ((ex : Int) - bias - mb)

def f32Of (x : Nat) : Fpv := decodeIeee 8 23 x
def f32Bits (v : Fpv) : Nat := encodeIeee 8 23 v

/-- The signed exact sum of two finite magnitudes, over a common denominator and exponent. -/
def sumFin (na : Bool) (ma da : Nat) (ea : Int) (nb : Bool) (mb db : Nat) (eb : Int) : Int × Nat × Int :=
  let e := if ea ≤ eb then ea else eb
  let x : Int := ma * db * 2 ^ (ea - e).toNat
  let y : Int := mb * da * 2 ^ (eb - e).toNat
  ((if na then -x else x) + (if nb then -y else y), da * db, e)

/-- The exact sum; an exact zero is +0 unless both addends are -0 (03 R91). -/
def Fpv.add (a b : Fpv) : Fpv :=
  match a, b with
  | .nan, _ => .nan
  | _, .nan => .nan
  | .inf x, .inf y => if x = y then .inf x else .nan
  | .inf x, _ => .inf x
  | _, .inf y => .inf y
  | .fin na ma da ea, .fin nb mb db eb =>
    let r := sumFin na ma da ea nb mb db eb
    if r.1 = 0 then
      .zero (ma = 0 && mb = 0 && na && nb)
    else .fin (r.1 < 0) r.1.natAbs r.2.1 r.2.2

def Fpv.neg (a : Fpv) : Fpv :=
  match a with
  | .nan => .nan
  | .inf n => .inf (!n)
  | .fin n m d e => .fin (!n) m d e

/-- The exact product (03 R91). -/
def Fpv.mul (a b : Fpv) : Fpv :=
  match a, b with
  | .nan, _ => .nan
  | _, .nan => .nan
  | .inf x, .inf y => .inf (x != y)
  | .inf x, .fin n m _ _ => if m = 0 then .nan else .inf (x != n)
  | .fin n m _ _, .inf y => if m = 0 then .nan else .inf (n != y)
  | .fin na ma da ea, .fin nb mb db eb =>
    if ma = 0 || mb = 0 then .zero (na != nb) else .fin (na != nb) (ma * mb) (da * db) (ea + eb)

/-- a < b as numbers, false with a NaN; -0 equals +0. -/
def Fpv.lt (a b : Fpv) : Bool :=
  match a, b with
  | .nan, _ => false
  | _, .nan => false
  | .inf x, .inf y => x && !y
  | .inf x, _ => x
  | _, .inf y => !y
  | .fin na ma da ea, .fin nb mb db eb => (sumFin na ma da ea (!nb) mb db eb).1 < 0

def Fpv.isNan (a : Fpv) : Bool := a == .nan

def Fpv.negative : Fpv → Bool
  | .nan => false
  | .inf n => n
  | .fin n _ _ _ => n

/-! ### FP32 operations on bit patterns, each rounded once (03 R91) -/

def fadd (x y : Nat) : Nat := f32Bits ((f32Of x).add (f32Of y))
def fsub (x y : Nat) : Nat := f32Bits ((f32Of x).add (f32Of y).neg)
def fmul (x y : Nat) : Nat := f32Bits ((f32Of x).mul (f32Of y))
/-- x * y + z with one rounding. -/
def ffma (x y z : Nat) : Nat := f32Bits (((f32Of x).mul (f32Of y)).add (f32Of z))

/-- The smaller of two; -0 is below +0; the canonical NaN if either is NaN (03 Table 3-12). -/
def fmin (x y : Nat) : Nat :=
  let a := f32Of x
  let b := f32Of y
  if a.isNan || b.isNan then 0x7FC00000
  else if a.lt b then x else if b.lt a then y else if a.negative then x else y

def fmax (x y : Nat) : Nat :=
  let a := f32Of x
  let b := f32Of y
  if a.isNan || b.isNan then 0x7FC00000
  else if a.lt b then y else if b.lt a then x else if a.negative then y else x

/-- A value rounded to a signed integer, ties away from zero, saturated to n bits; NaN gives 0 (03 Table 3-13). -/
def Fpv.toInt (n : Nat) (v : Fpv) : Int :=
  let lo : Int := -(2 ^ (n - 1) : Nat)
  let hi : Int := (2 ^ (n - 1) : Nat) - 1
  match v with
  | .nan => 0
  | .inf neg => if neg then lo else hi
  | .fin neg num den e =>
    let m : Int := roundAway num den e
    let i := if neg then -m else m
    if i < lo then lo else if hi < i then hi else i

/-- An integer as a value. -/
def Fpv.ofInt (i : Int) : Fpv := .fin (i < 0) i.natAbs 1 0

end Sys2Proof.Machine
end

