-- ==== Sys2Proof/Machine/Formats.lean ====
section
/-! DEFINITION. Element formats, block scales and conversions (05 Table 5-1; 07 R167 to R177). A code is a format code of
Table 5-1; FP32 values are handled as bit patterns, and each step narrows once. -/

namespace Sys2Proof.Machine

open Sys2Proof

/-! ### Format codes (05 Table 5-1) -/

def fmtAssigned (c : Nat) : Bool := c ≤ 6 || c = 8 || c = 9 || c = 0xA

def fmtWidth (c : Nat) : Nat :=
  match c with
  | 0 | 6 => 4
  | 1 | 2 => 6
  | 3 | 4 | 5 => 8
  | 8 | 9 => 16
  | _ => 32

def fmtBand (c : Nat) : Nat := if c = 6 then 16 else 32

/-- Formats with block scales. -/
def fmtScaled (c : Nat) : Bool := c ≤ 6

/-! ### Values (07 R167 to R170) -/

/-- Value of a floating-point element without special encodings (07 R167). -/
def smallValue (eb mb bias x : Nat) : Fpv :=
  let m := x % 2 ^ mb
  let e := x / 2 ^ mb % 2 ^ eb
  let neg := x / 2 ^ (eb + mb) % 2 = 1
  if e = 0 then .fin neg m 1 (1 - (bias : Int) - mb) else .fin neg (2 ^ mb + m) 1 ((e : Int) - bias - mb)

/-- Value of an E4M3 code: NaN at 0x7F and 0xFF, no infinity. -/
def e4m3Value (x : Nat) : Fpv := if x % 128 = 0x7F then .nan else smallValue 4 3 7 x

/-- Value of an element of a format, its scale apart. -/
def elemValue (c x : Nat) : Fpv :=
  match c with
  | 0 | 6 => smallValue 2 1 1 x
  | 1 => smallValue 2 3 1 x
  | 2 => smallValue 3 2 3 x
  | 3 => e4m3Value x
  | 4 => decodeIeee 5 2 x
  | 5 => let k : Int := if x % 256 < 128 then (x % 256 : Nat) else (x % 256 : Nat) - 256
         .fin (k < 0) k.natAbs 64 0
  | 8 => decodeIeee 8 7 x
  | 9 => decodeIeee 5 10 x
  | _ => f32Of x

/-- Value of a block scale byte (07 R169, R170); 1 for the formats without scales. -/
def scaleValue (c b : Nat) : Fpv :=
  if c = 6 then e4m3Value b
  else if fmtScaled c then (if b = 0xFF then .nan else .fin false 1 1 ((b : Int) - 127))
  else .fin false 1 1 0

/-- A quotient; used where 07 R176 and 08 R200 to R202 divide. -/
def Fpv.div (a b : Fpv) : Fpv :=
  match a, b with
  | .nan, _ => .nan
  | _, .nan => .nan
  | .inf _, .inf _ => .nan
  | .inf x, .fin n _ _ _ => .inf (x != n)
  | .fin n _ _ _, .inf y => .zero (n != y)
  | .fin n m d e, .fin n' m' d' e' =>
    if m' = 0 then (if m = 0 then .nan else .inf (n != n'))
    else if m = 0 then .zero (n != n')
    else .fin (n != n') (m * d') (d * m') (e - e')

/-- Magnitude of a value. -/
def Fpv.abs (a : Fpv) : Fpv :=
  match a with
  | .nan => .nan
  | .inf _ => .inf false
  | .fin _ m d e => .fin false m d e

def Fpv.isZero (a : Fpv) : Bool :=
  match a with
  | .fin _ m _ _ => m = 0
  | _ => false

def Fpv.isFin (a : Fpv) : Bool :=
  match a with
  | .fin _ _ _ _ => true
  | _ => false

/-! ### Conversion of a finite value to an element (07 R171 to R173, R177) -/

/-- Code of the largest finite magnitude (07 Table 7-1). -/
def maxCode (c : Nat) : Nat :=
  match c with
  | 0 | 6 => 7
  | 1 | 2 => 0x1F
  | 3 => 0x7E
  | 4 => 0x7B
  | _ => 0x7F

/-- Exponent bits, mantissa bits and bias of the floating-point element formats. -/
def fmtShape (c : Nat) : Nat × Nat × Nat :=
  match c with
  | 0 | 6 => (2, 1, 1)
  | 1 => (2, 3, 1)
  | 2 => (3, 2, 3)
  | 3 => (4, 3, 7)
  | _ => (5, 2, 15)

/-- Magnitude code of num / den * 2^e rounded to nearest, ties away, in a format of unbounded exponent; codes rise with
magnitude. -/
def magCode (mb bias num den : Nat) (e : Int) : Nat :=
  if num = 0 then 0
  else
    let r := roundUlp mb (1 - (bias : Int)) num den e
    if r.1 < 2 ^ mb then r.1
    else
      let m := if r.1 = 2 ^ (mb + 1) then 2 ^ mb else r.1
      let q := if r.1 = 2 ^ (mb + 1) then r.2 + 1 else r.2
      (q + (mb : Int) + bias).toNat * 2 ^ mb + (m - 2 ^ mb)

/-- Smallest normal magnitude (07 Table 7-1). -/
def smallestNormal (c : Nat) : Fpv :=
  match c with
  | 5 => .fin false 1 64 0
  | 8 => .fin false 1 1 (-126)
  | 9 => .fin false 1 1 (-14)
  | c => .fin false 1 1 (1 - ((fmtShape c).2.2 : Int))

/-- Nonzero and below the smallest normal (07 R177). -/
def belowNormal (c : Nat) (v : Fpv) : Bool := v.isFin && !v.isZero && v.abs.lt (smallestNormal c)

/-- An element with the value's sign and a magnitude code; MXINT8 is two's complement without negative zero (07 R173). -/
def signedCode (c : Nat) (neg : Bool) (mag : Nat) : Nat :=
  if c = 5 then (if neg then (256 - mag) % 256 else mag)
  else (if neg then 2 ^ (fmtWidth c - 1) else 0) + mag

/-- Convert a finite value in element units to a scaled format: the element, and whether it was saturated. -/
def convElem (c : Nat) (v : Fpv) : Nat × Bool :=
  match v with
  | .fin neg num den e =>
    let mag := if c = 5 then roundAway (64 * num) den e else magCode (fmtShape c).2.1 (fmtShape c).2.2 num den e
    if mag > maxCode c then (signedCode c neg (maxCode c), true) else (signedCode c neg mag, false)
  | _ => (0, false)

/-! ### A block of the output's last axis (07 R176) -/

/-- Largest magnitude among the finite values, none when there is none. -/
def amaxOf (zs : List Fpv) : Fpv :=
  zs.foldl (fun b z => if z.isFin && b.lt z.abs then z.abs else b) (.zero false)

/-- The least e in -127..127 with amax <= m * 2^e, and 127 when there is none. -/
def e8m0Exp (m amax : Fpv) : Int :=
  match (List.range 255).find? fun (i : Nat) => !(m.mul (.fin false 1 1 ((i : Int) - 127))).lt amax with
  | some i => (i : Int) - 127
  | none => 127

/-- The least E4M3 code whose value is at least v, at most 0x7E. -/
def e4m3AtLeast (v : Fpv) : Nat :=
  match (List.range 0x7F).find? fun i => !(e4m3Value i).lt v with
  | some i => i
  | none => 0x7E

/-- The scale byte of a block without NaN and the unit its values are divided by (07 R176). -/
def blockScale (c : Nat) (tscale : Fpv) (zs : List Fpv) : Nat × Fpv :=
  let amax := amaxOf zs
  if c = 6 then
    if amax.isZero then (0, .zero false)
    else
      let code := e4m3AtLeast (amax.div ((Fpv.fin false 6 1 0).mul tscale))
      (code, (e4m3Value code).mul tscale)
  else
    let e := if amax.isZero then -127 else e8m0Exp (elemValue c (maxCode c)) amax
    ((e + 127).toNat, .fin false 1 1 e)

/-- One value of a block: its element, and whether it counts under R177. -/
def blockElem (c : Nat) (unit : Fpv) (z : Fpv) : Nat × Bool :=
  match z with
  | .nan => (0, false)
  | .inf neg => (if c = 4 then (if neg then 0xFC else 0x7C) else signedCode c neg (maxCode c), true)
  | .fin neg _ _ _ =>
    if unit.isZero then (signedCode c neg 0, false)
    else
      let v := z.div unit
      let r := convElem c v
      (r.1, r.2 || belowNormal c v)

/-- A block of values converted to a scaled format: scale byte, elements, and which of them count (07 R176, R177). -/
def convBlock (c : Nat) (tscale : Fpv) (zs : List Fpv) : Nat × List (Nat × Bool) :=
  if zs.any Fpv.isNan then (if c = 6 then 0x7F else 0xFF, zs.map fun _ => (0, false))
  else
    let s := blockScale c tscale zs
    (s.1, zs.map (blockElem c s.2))

/-- One value converted to BF16, FP16 or FP32 (07 R176, 03 Table 3-13), and whether it counts under R177. -/
def convPlain (c : Nat) (x : Nat) : Nat × Bool :=
  let z := f32Of x
  if c = 0xA then (x, false)
  else
    let y := if c = 8 then encodeIeee 8 7 z else encodeIeee 5 10 z
    let isInf := y % 2 ^ 15 = (if c = 8 then 0x7F80 else 0x7C00)
    (y, (!z.isNan) && (isInf || belowNormal c z))

/-! ### Hadamard rotation (07 R175) -/

/-- Constant of a rotation of n = 2^(h + 4) values (07 Table 7-3). -/
def hadConst (h : Nat) : Nat :=
  match h with
  | 1 => 0x3E3504F3
  | 2 => 0x3E000000
  | 3 => 0x3DB504F3
  | 4 => 0x3D800000
  | _ => 0x3D3504F3

/-- Parity of the common bits of i and j. -/
def hadNeg (i j : Nat) : Bool := ((List.range 9).filter fun b => i.testBit b && j.testBit b).length % 2 = 1

/-- The rotation of one block of FP32 values (07 R175). -/
def hadBlock (h : Nat) (ys : List Nat) : List Nat :=
  (List.range ys.length).map fun i =>
    let terms := ys.zipIdx.map fun y => if hadNeg i y.2 then (f32Of y.1).neg else f32Of y.1
    let sum := match terms with
      | [] => Fpv.zero false
      | t :: ts => ts.foldl Fpv.add t
    f32Bits ((f32Of (hadConst h)).mul sum)

end Sys2Proof.Machine
end

