-- ==== Sys2Proof/Machine/Layout.lean ====
section
/-! DEFINITION. Layout descriptors (06 R149 to R159), reads of many ranges as one access to each code word, and writes of
elements that are not whole bytes. The store unit and the tile mover share them. -/

namespace Sys2Proof.Machine

open Sys2Proof

/-- The first nonzero status. -/
def firstStatus : List Nat → Nat
  | [] => 0
  | x :: xs => if x ≠ 0 then x else firstStatus xs

def chk (ok : Bool) (st : Nat) : Nat := if ok then 0 else st

/-! ### Reading by ranges -/

/-- A byte as a read delivers it. -/
def State.peek (s : State) (a : Nat) : Byte :=
  if s.flips.isEmpty then Memory.byte s.mem a
  else Memory.byte s.mem a ^^^ BitVec.ofNat 8 ((s.decodeAt a).mask / 2 ^ (8 * (a % codeSize a)))

def State.peekBytes (s : State) (a : Nat) : Nat → List Byte
  | 0 => []
  | n + 1 => s.peek a :: State.peekBytes s (a + 1) n

/-- w bits from a bit address on, bit 0 of a byte first (05 R131, 06 R151). -/
def State.peekBits (s : State) (ba w : Nat) : Nat :=
  ofBytes (s.peekBytes (ba / 8) ((ba % 8 + w + 7) / 8)) / 2 ^ (ba % 8) % 2 ^ w

/-- Module-view address of the code word a key of flips stands for. -/
def flipBase (k : Nat) : Nat := if k < d1Top / 64 then k * 64 else if k < d2Top / 16 then k * 16 else k * 8

/-- The code words that may decode with an error: those with one stored, and in D2 every beat of their lines (11 R247). -/
def State.suspects (s : State) : List Nat :=
  (s.flips.flatMap fun e =>
    let b := flipBase e.1
    if locate b == .d2 then (List.range 16).map fun i => b / 256 * 256 + 16 * i else [b]).eraseDups

/-- A range (start, length) meets [a, a + n). -/
def meets (r : Nat × Nat) (a n : Nat) : Bool := r.2 != 0 && n != 0 && r.1 < a + n && a < r.1 + r.2

/-- Two ranges meet. -/
def meet (r t : Nat × Nat) : Bool := meets r t.1 t.2

/-- Read every code word that one of the ranges touches, once: the state the reads leave, without the disposal of
uncorrectable errors, and the code words that were uncorrectable (11 R250). -/
def State.touch (s : State) (rs : List (Nat × Nat)) : State × List Nat :=
  let ws := (s.suspects.filter fun b => rs.any fun r => meets r b (codeSize b)).map fun b => (b, s.decodeAt b)
  (s.afterReads .requester ws, badWords ws)

/-- The disposal of uncorrectable errors met by a unit (11 Table 11-4, 17 Table 17-7). -/
def State.disposeAll (s : State) (ues : List Nat) : State := ues.foldl State.dispose s

/-- An uncorrectable code word lies in a range. -/
def ueIn (ues : List Nat) (r : Nat × Nat) : Bool := ues.any fun b => meets r b (codeSize b)

/-! ### Writing elements (06 R151, 11 R251, R252) -/

/-- An element to be written: bit address, width and value. -/
structure BitWrite where
  at_   : Nat
  width : Nat
  value : Nat
deriving DecidableEq, Repr

/-- Overwrite bits [o, o + w) of old by v. -/
def overBits (old o w v : Nat) : Nat :=
  old % 2 ^ o + (v % 2 ^ w) * 2 ^ o + old / 2 ^ (o + w) * 2 ^ (o + w)

/-- The n-byte code word at b after the writes, in order; cov collects the bits written. Both as numbers of 8 * n bits. -/
def overWord (b n : Nat) (old cov : Nat) : List BitWrite → Nat × Nat
  | [] => (old, cov)
  | x :: xs =>
    let lo := 8 * b
    let hi := 8 * (b + n)
    if x.at_ < hi && lo < x.at_ + x.width then
      let st := max x.at_ lo
      let en := min (x.at_ + x.width) hi
      overWord b n (overBits old (st - lo) (en - st) (x.value / 2 ^ (st - x.at_)))
        (overBits cov (st - lo) (en - st) (2 ^ (en - st) - 1)) xs
    else overWord b n old cov xs

/-- The code words a list of writes touches, each once, in order of first touch. -/
def wordsOf (xs : List BitWrite) : List Nat :=
  (xs.flatMap fun x =>
    let a := x.at_ / 8
    let z := (x.at_ + x.width - 1) / 8
    if x.width = 0 then [] else (List.range (z / codeSize a + 1 - a / codeSize a)).map fun i =>
      (a / codeSize a + i) * codeSize a).eraseDups

/-- Write one code word; part of it is a read-modify-write. -/
def State.putWord (s : State) (b : Nat) (xs : List BitWrite) : State :=
  let n := codeSize b
  let dec := s.decodeAt b
  let old := ofBytes (s.peekBytes b n)
  let r := overWord b n old 0 xs
  let d := whole (toBytes r.1 n)
  if r.2 = 2 ^ (8 * n) - 1 then
    let w := s.storeWord b d
    w.1.disarm w.2
  else
    let s1 := s.rmwRead b dec
    if dec.cls = .bad then s1.dispose b
    else
      let w := s1.storeWord b d
      w.1.disarm w.2

/-- Write elements in order; of two that touch one bit the later remains (06 R152). -/
def State.writeBits (s : State) (xs : List BitWrite) : State :=
  (wordsOf xs).foldl (fun t b => t.putWord b xs) s

/-! ### Descriptors (06 R149) -/

structure Dim where
  ext    : Nat
  stride : Int
  padLo  : Nat
deriving DecidableEq, Repr

structure Layout where
  /-- element width in bits -/
  w      : Nat
  skew   : Nat
  skewKt : Nat
  pad    : Bool
  /-- dimension 0 first -/
  dims   : List Dim
deriving DecidableEq, Repr

def word (ws : List Word) (i : Nat) : Word := ws.getD i 0

def esizeBits (e : Nat) : Nat :=
  match e with
  | 0 => 4
  | 1 => 6
  | 2 => 8
  | 3 => 16
  | 4 => 32
  | _ => 64

def layoutDim (x : Word) : Dim :=
  { ext := bits x 15 0 + 1, stride := signed 32 (bits x 63 32), padLo := bits x 31 16 }

def layoutOf (ws : List Word) : Layout :=
  let d := word ws 0
  { w := esizeBits (bits d 2 0), skew := bits d 18 16, skewKt := bits d 30 24, pad := bit d 8
    dims := (List.range (min (bits d 6 4) 5)).map fun i => layoutDim (word ws (i + 1)) }

/-- The dimension d of a layout, extent 1 where it has none. -/
def Layout.dim (l : Layout) (d : Nat) : Dim := l.dims.getD d ⟨1, 0, 0⟩

/-- Element i of dimension 0 in the units of its bits, and the other dimensions in bytes (06 R151): bit address relative to
the base. -/
def Layout.offset (l : Layout) (idx : List Nat) : Int :=
  let outer : Int := ((l.dims.zip idx).drop 1).foldl (fun x e => x + (e.2 : Int) * e.1.stride) 0
  8 * outer + (idx.getD 0 0 : Int) * (if l.w ≥ 8 then (l.dim 0).stride else 1) * l.w

/-- Elements of the layout (06 R152). -/
def Layout.count (l : Layout) : Nat := l.dims.foldl (fun x d => x * d.ext) 1

/-- Indices of the element of rank r in ascending row-major order (06 R152). -/
def indicesOf : List Dim → Nat → List Nat
  | [], _ => []
  | d :: ds, r => r % d.ext :: indicesOf ds (r / d.ext)

def Layout.indices (l : Layout) (r : Nat) : List Nat := indicesOf l.dims r

/-! ### Validity (06 R153) -/

/-- The rules a descriptor meets by itself; dest says that it is a destination, xform that it belongs to an XFORM. -/
def layoutValid (ws : List Word) (dest xform : Bool) : Bool :=
  let d := word ws 0
  let l := layoutOf ws
  let n := bits d 6 4
  bits d 63 31 = 0 && bits d 23 19 = 0 && bits d 15 9 = 0 && bits d 7 7 = 0 && bits d 3 3 = 0 &&
  word ws 6 = 0 && word ws 7 = 0 &&
  1 ≤ n && n ≤ 5 && bits d 2 0 < 6 &&
  (List.range 5).all (fun i => i < n || word ws (i + 1) = 0) &&
  (l.w ≥ 8 || (l.dim 0).stride = 1) &&
  (l.w < 8 || (l.dims.drop 1).all fun e => e.stride % (l.w / 8 : Nat) = 0) &&
  (!dest || l.dims.all fun e => e.stride != 0 || e.ext = 1) &&
  (l.pad || l.dims.all fun e => e.padLo = 0) &&
  (l.skew != 0 || l.skewKt = 0) && l.skew != 7 &&
  ((dest && xform) || (!l.pad && l.skew = 0))

/-! ### Skewed feed images (06 R159) -/

/-- Values per line slot. -/
def skewP (mode : Nat) : Nat := if mode = 2 || mode = 4 || mode = 6 then 2 else 1
def skewElem (mode : Nat) : Bool := mode = 1 || mode = 2
def skewBand (mode : Nat) : Nat := if mode = 3 || mode = 4 then 32 else 16

/-- G of 05 R136. -/
def skewG (kt : Nat) : Nat := 64 * (kt / 64)

/-- Line length F of 05 R137, and S. -/
def feedLine (kt w p : Nat) : Nat := (kt * w * p + 511) / 512 * 64
def scaleLine (kt band p : Nat) : Nat := ((kt + band - 1) / band * p + 63) / 64 * 64

/-- The row a line's element belongs to. -/
def skewRow (mode j : Nat) : Nat := if skewElem mode then j else j * skewBand mode

/-- Conditions of a skewed destination. -/
def skewValid (l : Layout) : Bool :=
  let kt := l.skewKt + 1
  let line := if skewElem l.skew then feedLine kt l.w (skewP l.skew) else scaleLine kt (skewBand l.skew) (skewP l.skew)
  l.skew = 0 ||
  (l.dims.length = 2 && !l.pad && (l.dim 0).stride = 1 &&
   0 < (l.dim 1).stride && (l.dim 1).stride % 64 = 0 && (line : Int) ≤ (l.dim 1).stride &&
   (l.dim 0).ext = (if skewElem l.skew then kt else (kt + skewBand l.skew - 1) / skewBand l.skew) &&
   (match l.skew with
    | 1 => l.w = 4 || l.w = 6 || l.w = 8 || l.w = 16
    | 2 => l.w = 4 || l.w = 6
    | _ => l.w = 8))

/-- Bit offset of destination element (m, j) of a skewed image. -/
def skewOffset (l : Layout) (m j : Nat) : Int :=
  let p := skewP l.skew
  let line := m / p + min (skewRow l.skew j) (skewG (l.skewKt + 1))
  8 * ((line : Int) * (l.dim 1).stride) + ((j * p + m % p) * l.w : Nat)

/-- Lines of a skewed image. -/
def skewLines (l : Layout) : Nat :=
  let p := skewP l.skew
  ((l.dim 1).ext + p - 1) / p + min (skewRow l.skew ((l.dim 0).ext - 1)) (skewG (l.skewKt + 1))

/-- Bit offset of the element with the indices given. -/
def Layout.place (l : Layout) (idx : List Nat) : Int :=
  if l.skew = 0 then l.offset idx else skewOffset l (idx.getD 1 0) (idx.getD 0 0)

/-! ### Footprints (06 R155) -/

/-- Lowest and highest byte relative to the base. -/
def Layout.bounds (l : Layout) : Int × Int :=
  if l.skew ≠ 0 then (0, (skewLines l : Int) * (l.dim 1).stride - 1)
  else
    let outer := l.dims.drop 1
    let span (d : Dim) : Int := ((d.ext : Int) - 1) * d.stride
    let lo := outer.foldl (fun x d => x + min 0 (span d)) (0 : Int)
    let hi := outer.foldl (fun x d => x + max 0 (span d)) (0 : Int)
    let d0 := l.dim 0
    if l.w ≥ 8 then
      (lo + min 0 (span d0) * (l.w / 8 : Nat), hi + max 0 (span d0) * (l.w / 8 : Nat) + (l.w / 8 : Nat) - 1)
    else (lo, hi + ((d0.ext * l.w - 1) / 8 : Nat))

/-- The footprint at a base: start and length; none when it begins below address 0. -/
def Layout.footprint (l : Layout) (base : Nat) : Option (Nat × Nat) :=
  let b := l.bounds
  if (base : Int) + b.1 < 0 then none
  else some (((base : Int) + b.1).toNat, (b.2 - b.1 + 1).toNat)

/-- Byte range that holds w bits from a bit address on. -/
def bitRange (ba w : Nat) : Nat × Nat := (ba / 8, (ba % 8 + w + 7) / 8)

/-! ### Agreement of an XFORM's descriptors (06 R156) -/

def xformAgree (src dst : Layout) : Bool :=
  src.w = dst.w && src.dims.length = dst.dims.length &&
  (dst.pad || (src.dims.zip dst.dims).all fun e => e.1.ext = e.2.ext)

/-- The source indices a destination element takes, none for padding (06 R156). -/
def padSource (src dst : Layout) (idx : List Nat) : Option (List Nat) :=
  if !dst.pad then some idx
  else
    let js := (idx.zip dst.dims).map fun e => (e.1 : Int) - e.2.padLo
    if (js.zip src.dims).all fun e => 0 ≤ e.1 && e.1 < (e.2.ext : Int) then some (js.map Int.toNat) else none

/-! ### The address of a descriptor (06 R149) -/

/-- Status of the address alone: 0x02 misaligned, 0x01 elsewhere than activation or core-local data memory. -/
def layoutAddr (a : Nat) : Nat := if a % 64 ≠ 0 then 0x02 else if slotAddr a then 0 else 0x01

end Sys2Proof.Machine
end

