-- ==== Sys2Proof/Machine/Ecc.lean ====
section
/-! DEFINITION. Write-backs and zeroisation (09 R215 to R218), patrol scrubbing, device marks and injections
(11 R249, R254 to R257), and the registers of these units. -/

namespace Sys2Proof.Machine

open Sys2Proof

/-- A register of the hub is written by the management processors and, through BAR2, by the owner (02 R57, 16 R374). -/
def hubWriter (w : Requester) : Bool :=
  match w with
  | .core _ => false
  | _ => true

/-! ### Write-backs (09 R215, 11 R255) -/

/-- 09 R215, 11 R255: the write-back that no later write of the word has abandoned; aged requests at its bank come first (R211). -/
def execCorrectedWordWriteback (cl : Fin 32) (addr : BitVec 32) (s : State) : Result :=
  let o := addr.toNat / 8 * 8
  let b := clusterAddr cl o
  if (s.cluster cl).writebacks.contains o && s.portServes [(b, 8)] s.cycle false then
    .next (s.rewrite b (s.decodeAt b))
  else .next s

/-! ### Patrol scrubbing (11 R254, R255) -/

/-- Line n of a D1 stack or a D2 group, ascending (01 R22). -/
def d1Line (stack n : Nat) : Nat := (n / 64 * 8 + stack) * 4096 + n % 64 * 64
def d2LineAt (group n : Nat) : Nat := d2Base + (n / 16 * 16 + group) * 4096 + n % 16 * 256

/-- Words per bank of the cluster memories (09 Tables 9-1, 9-4). -/
def bankDepth (m : ClMem) : Nat :=
  match m with
  | .weight => 8192
  | .act => 4096
  | .psum => 2048
  | .imem _ => 256
  | .dmem _ => 96

/-- The word of its bank that a cluster address lies in (09 Table 9-1). -/
def bankWord (a : Nat) : Nat :=
  match clMemOf a with
  | some .weight => a / 2048
  | some .act => (a - 0x01000000) / 4096
  | some .psum => (a - 0x02000000) / 4096
  | some (.imem _) => a % 0x10000 / 64
  | some (.dmem _) => (a % 0x10000 - 0x4000) / 2048 * 4 + (a % 0x10000) / 64 % 4
  | none => 0

/-- Whether the scrub read at position n of a unit reads the code word at b; an SRAM position beyond a bank's depth wraps. -/
def scrubbed (u : ScrubUnit) (n b : Nat) : Bool :=
  match u with
  | .d1 k => d1Line k.val n ≤ b && b < d1Line k.val n + 64
  | .d2 g => d2LineAt g.val n ≤ b && b < d2LineAt g.val n + 256
  | .sram cl =>
    match locate b with
    | .sram c o => c == cl && match clMemOf o with
      | some m => bankWord o = n % bankDepth m
      | none => false
    | _ => false

/-- One code word of a scrub read, as it was decoded: counted, and rewritten where it could be corrected, an erasure of a marked device
too. -/
def State.scrubWord (s : State) (w : Nat × Decoded) : State :=
  let s1 := s.eccCount .scrub w.1 w.2
  match w.2.cls with
  | .bad => s1
  | .good => if s.flipsAt w.1 = [] then s1 else s1.rewrite w.1 w.2
  | .data | .check => s1.rewrite w.1 w.2

/-- The code words of a scrub read, decoded as they stood; then a device is marked, and the uncorrectable ones are disposed of, a line of
D2 as one. -/
def State.scrubWords (s : State) (bs : List Nat) : State :=
  let ws := bs.map fun b => (b, s.decodeAt b)
  let t := ws.foldl State.scrubWord s
  let u := (linesOf bs).foldl (fun (t : State) l => t.autoMark .scrub l (s.d2Line l)) t
  ((badWords ws).map fun b => if locate b = .d2 then b / 256 * 256 else b).eraseDups.foldl State.dispose u

/-- The scrub register of a unit, the unit's position and the number of its positions. -/
def State.scrubCtl (s : State) (u : ScrubUnit) : Scrub × Nat × Nat :=
  match u with
  | .d1 k => (s.scrubD1, SMap.get (fun _ => 0) s.scrubPos k.val, 805306368)
  | .d2 g => (s.scrubD2, SMap.get (fun _ => 0) s.scrubPos (8 + g.val), 201326592)
  | .sram cl => (s.scrubSr, (s.cluster cl).scrubPos, 8192)

def State.setScrubPos (s : State) (u : ScrubUnit) (n : Nat) : State :=
  match u with
  | .d1 k => { s with scrubPos := SMap.set (fun _ => 0) s.scrubPos k.val n }
  | .d2 g => { s with scrubPos := SMap.set (fun _ => 0) s.scrubPos (8 + g.val) n }
  | .sram cl => s.updCluster cl fun c => { c with scrubPos := n }

/-- Scrubbing runs from the end of the memory's fill (11 R253; 21 Table 21-4). That of the SRAM ends when compute is ready. -/
def State.scrubRuns (s : State) (u : ScrubUnit) : Bool :=
  match u with
  | .d2 _ => s.pow.stage == .d2Filled || s.pow.stage == .rootsLoaded || s.pow.stage == .ready
  | .d1 _ => s.pow.compute == .filled || s.pow.compute == .ready
  | .sram _ => s.pow.compute == .ready

/-- The code words that may decode with an error are the only ones a scrub read changes anything about. -/
def execPatrolScrubRead (u : ScrubUnit) (s : State) : Result :=
  let r := s.scrubCtl u
  if r.1.enable && s.scrubRuns u then
    .next ((s.scrubWords (s.suspects.filter fun b => scrubbed u r.2.1 b)).setScrubPos u ((r.2.1 + 1) % r.2.2))
  else .next s

/-! ### Zeroisation (09 R216, R218) -/

/-- CLU_MEM_CTL.ZEROISE. The cluster is reset and its memories are cleared at once: hub accesses are held to the end and then
performed (R218), which leaves what performing them on the cleared memories leaves. -/
def State.zeroiseNow (s : State) (cl : Fin 32) : State :=
  let c := s.cluster cl
  if c.zeroising then s
  else if s.quiet cl || s.coresReset cl then
    ((s.clearSram cl).resetCores cl).updCluster cl fun c => { c.zeroised with zeroising := true }
  else (s.setCluster cl { c with memRefused := true }).setBit (.memRefused cl)

/-- Only the management processors start zeroisation. -/
def execZeroise (w : Requester) (cl : Fin 32) (s : State) : Result :=
  .next (if w = .mgmt then s.whenAwake cl 0x430 1 fun t => t.zeroiseNow cl else s)

/-- 09 R216 to R218. -/
def execZeroiseComplete (cl : Fin 32) (s : State) : Result :=
  let c := s.cluster cl
  .next (if c.zeroising then s.setCluster cl { c with zeroising := false } else s)

/-! ### Device marks and injections (11 R249, R257) -/

def setD2Mark (s : State) (g : Fin 16) (v : Word) : State :=
  if s.anyJob then s else ({ s with d2Mark := SMap.set (fun _ => 0) s.d2Mark g.val (v &&& 0x3F3F) }).commitRoot

def execHubD2MarkWrite (w : Requester) (g : Fin 16) (v : Word) (s : State) : Result :=
  .next (if hubWriter w then setD2Mark s g v else s)

/-- The address lies in memory kind m (01 Table 1-5). -/
def kindHolds (m : Fin 3) (a : Nat) : Bool :=
  match m with
  | 0 => winBase ≤ a && a < winTop
  | 1 => a < d1Top
  | 2 => d2Base ≤ a && a < d2Top

def lastPosition (m : Fin 3) : Nat :=
  match m with
  | 0 => 71
  | 1 => 34
  | 2 => 17

/-- 11 R257: the arm is refused. -/
def State.armRefused (s : State) (m : Fin 3) (j : Inject) : Bool :=
  let a := j.addr.toNat
  !kindHolds m a || !(j.npos = 1 || j.npos = 2) || j.posA.toNat > lastPosition m ||
  (j.npos = 2 && j.posB.toNat > lastPosition m) || (m = 2 && !(j.beat.toNat < 16 || j.beat = 0xFF)) ||
  (s.sec.debugSt == .closed && match (s.ownerOf a).part with
    | some p => s.jobLoaded p
    | none => false)

/-- A write of HUB_INJ_CTL(m) (11 Table 11-7). -/
def State.writeInjCtl (s : State) (m : Fin 3) (v : Word) : State :=
  let j := s.injectOf m
  let n : Inject := { j with
    pattern := BitVec.ofNat 16 (bits v 63 48), beat := BitVec.ofNat 8 (bits v 39 32)
    posB := BitVec.ofNat 8 (bits v 31 24), posA := BitVec.ofNat 8 (bits v 23 16), npos := BitVec.ofNat 2 (bits v 3 2)
    refused := s.w1c (.injRefused m) j.refused (bit v 1), arm := bit v 0 }
  if n.arm && s.armRefused m n then
    ((s.setInjectOf m { n with arm := false, refused := true }).setBit (.injRefused m)).eccRecord .injection 2 n.addr.toNat 0 0xFF
  else s.setInjectOf m n

def execInjectionArm (w : Requester) (m : Fin 3) (v : Word) (s : State) : Result :=
  .next (if hubWriter w then s.writeInjCtl m v else s)

end Sys2Proof.Machine
end

