-- ==== Sys2Proof/Machine/FlashBands.lean ====
section
/-! DEFINITION. Die groups, bands and stripes (12 R263, R265, R273 to R275; 13 R285 to R297), and which codewords are readable (12 R268,
R274, R280). Band n of a group is block n of every plane of its dies, or the block that replaces it there, and the XOR page moves on by
one die with each stripe (log 26). -/

namespace Sys2Proof.Machine

open Sys2Proof

/-! ### Flash addresses (12 Table 12-3) -/

/-- Key of a page: its flash address without codeword and RSVD bits. -/
def pageKey (pg : PageAddr) : Nat :=
  pg.die.ch.val * 2 ^ 29 + pg.die.die.val * 2 ^ 25 + pg.plane.val * 2 ^ 23 + pg.block.val * 2 ^ 11 + pg.page.val

/-- Key of a codeword: FADDR[39:3]. -/
def cwKey (page : Nat) (cw : Nat) : Nat := page * 4 + cw

def faddr (page cw : Nat) : Nat := cwKey page cw * 8

def pageCh (page : Nat) : Fin 64 := ⟨page / 2 ^ 29 % 64, Nat.mod_lt _ (by decide)⟩
def pageDieNo (page : Nat) : Fin 15 := ⟨page / 2 ^ 25 % 16 % 15, Nat.mod_lt _ (by decide)⟩
def pageDie (page : Nat) : DieId := ⟨pageCh page, pageDieNo page⟩
def pagePlane (page : Nat) : Fin 4 := ⟨page / 2 ^ 23 % 4, Nat.mod_lt _ (by decide)⟩
def pageBlock (page : Nat) : Nat := page / 2 ^ 11 % 4096
/-- Key of a block in State.blocks: the page's key without the page number. -/
def blockKey (page : Nat) : Nat := page / 2 ^ 11
/-- Key of a block of a die. -/
def dieBlock (d : DieId) (plane block : Nat) : Nat := d.ch.val * 2 ^ 18 + d.die.val * 2 ^ 14 + plane * 2 ^ 12 + block

/-- Flash addresses of a channel and of a die, as error-log records hold them (12 R263). -/
def chanAddr (c : Fin 64) : Nat := c.val * 2 ^ 34
def dieAddr (d : DieId) : Nat := d.ch.val * 2 ^ 34 + d.die.val * 2 ^ 30

/-- Dies populated by variant (12 Table 12-11). -/
def State.present (s : State) (ch : Fin 64) : BitVec 15 :=
  match s.variant with
  | .v245 => 0x7FFF
  | .v123 => if ch.val % 2 = 0 then 0xFF else 0x7F

def State.dieThere (s : State) (d : DieId) : Bool := (s.present d.ch).getLsbD d.die.val

/-- A die that is failed, or whose channel is (12 R279). -/
def State.dieFailed (s : State) (d : DieId) : Bool := (s.die d).failed || (s.chan d.ch).failed

def State.blockAt (s : State) (k : Nat) : Block := SMap.get (fun _ => {}) s.blocks k
def State.updBlock (s : State) (k : Nat) (f : Block → Block) : State :=
  { s with blocks := SMap.upd (fun _ => {}) s.blocks k f }

def State.cwAt (s : State) (k : Nat) : Option CodeWord := SMap.get (fun _ => none) s.cwords k
def State.setCw (s : State) (k : Nat) (v : Option CodeWord) : State :=
  { s with cwords := SMap.set (fun _ => none) s.cwords k v }

/-! ### Die groups (13 R285) -/

def groupsOf (v : Variant) : Nat :=
  match v with
  | .v245 => 30
  | .v123 => 15

/-- Die i of a group's 32. -/
def groupDie (v : Variant) (g i : Nat) : DieId :=
  let ch (n : Nat) : Fin 64 := ⟨n % 64, Nat.mod_lt _ (by decide)⟩
  let dn (n : Nat) : Fin 15 := ⟨n % 15, Nat.mod_lt _ (by decide)⟩
  match v with
  | .v245 => ⟨ch (32 * (g % 2) + i), dn (g / 2)⟩
  | .v123 => if g < 8 then ⟨ch (2 * i), dn g⟩ else ⟨ch (2 * i + 1), dn (g - 8)⟩

def groupDies (v : Variant) (g : Nat) : List DieId := (List.range 32).map (groupDie v g)

/-- The group of a die. -/
def groupOf (v : Variant) (d : DieId) : Nat :=
  match v with
  | .v245 => 2 * d.die.val + d.ch.val / 32
  | .v123 => if d.ch.val % 2 = 0 then d.die.val else 8 + d.die.val

/-! ### Bands (13 R286, R295) -/

/-- Bands that a group yields at least; the other 30 blocks of each plane replace bad ones (12 R260, 13 R286). -/
def bandsPerGroup : Nat := 2730
def blocksPerPlane : Nat := 2760
def stripesPerBand : Nat := 6144
def bandKey (g n : Nat) : Nat := g * 4096 + n
def State.bandAt (s : State) (k : Nat) : Band := SMap.get (fun _ => {}) s.bands k
def State.setBand (s : State) (k : Nat) (b : Band) : State := { s with bands := SMap.set (fun _ => {}) s.bands k b }

/-- The block of a plane that band n has there: its own, or the one that replaces it. -/
def ownBlock (k : Nat) : Nat := k % 4096
def State.bandBlock (s : State) (d : DieId) (plane n : Nat) : Nat := SMap.get ownBlock s.spares (dieBlock d plane n)

/-- The number of the band that a block belongs to, 4,095 for a block in none. -/
def State.bandOfBlock (s : State) (k : Nat) : Nat :=
  if ownBlock k < bandsPerGroup && SMap.get ownBlock s.spares k = ownBlock k then ownBlock k
  else match s.spares.find? fun e => e.1 / 4096 = k / 4096 && e.2 = ownBlock k with
    | some e => e.1 % 4096
    | none => 4095

/-- The band of a page. -/
def State.bandOfPage (s : State) (page : Nat) : Nat := bandKey (groupOf s.variant (pageDie page)) (s.bandOfBlock (blockKey page))

/-- What a band or a buffered unit is written as: a temperature class, or none for the metadata stream (13 R290, R293). -/
abbrev Stream := Option Class
def Band.stream (b : Band) : Stream := if b.isMeta then none else some b.cls
def BufUnit.stream (b : BufUnit) : Stream := if b.kind == .unit then some b.cls else none

/-- Bands of a group in no state to be written. -/
def State.usedBands (s : State) (g : Nat) : Nat :=
  (s.bands.filter fun e => e.1 / 4096 = g && (e.2.state == .opened || e.2.state == .closed || e.2.state == .dead)).length

/-- Free bands of a group, over all classes and the unused pool (13 R297). -/
def State.freeBands (s : State) (g : Nat) : Nat := bandsPerGroup - s.usedBands g

/-- Free blocks of a die (12 R272; four make one free band, 13 R297). -/
def State.freeBlocks (s : State) (d : DieId) : Nat := 4 * s.freeBands (groupOf s.variant d)

/-- Bands of the unused pool, over all groups (13 R295). -/
def State.unusedPool (s : State) : Nat :=
  groupsOf s.variant * bandsPerGroup - (s.bands.filter fun e => e.2.state != .unused).length

def State.reserveOf (s : State) (k : Nat) : Nat := (SMap.get (fun _ => (0 : W32)) s.reserve k).toNat

/-- Bands of the unused pool that only other classes may take (13 Table 13-12). -/
def State.othersReserve (s : State) (k : Stream) : Nat :=
  ((List.range 4).filter fun j => k.map classCode ≠ some j).foldl (fun n j => n + s.reserveOf j) 0

/-- A stream may take a band of the unused pool: more are left than the other classes have reserved. -/
def State.mayTake (s : State) (k : Stream) : Bool := s.othersReserve k < s.unusedPool

/-- The free band of a stream in a group that was freed first. -/
def State.ownFree (s : State) (g : Nat) (k : Stream) : Option Nat :=
  (s.bands.foldl (fun (b : Option (Nat × Band)) e =>
    if e.1 / 4096 = g && e.2.state == .free && e.2.stream == k then
      match b with
      | some x => if e.2.stamp < x.2.stamp then some e else b
      | none => some e
    else b) none).map (·.1)

/-- The open band of a stream in a group, or one that it opens. -/
def State.openBand (s : State) (g : Nat) (k : Stream) : Option Nat :=
  match s.bands.find? fun e => e.1 / 4096 = g && e.2.state == .opened && e.2.stream == k with
  | some e => some e.1
  | none =>
    match s.ownFree g k with
    | some b => some b
    | none =>
      if s.mayTake k then
        ((List.range bandsPerGroup).find? fun n => (s.bandAt (bandKey g n)).state == .unused).map (bandKey g)
      else none

/-- Dies of a group that are programmed: present and not failed (13 R287). -/
def State.liveDies (s : State) (g : Nat) : List DieId :=
  (groupDies s.variant g).filter fun d => s.dieThere d && !s.dieFailed d

/-- Units that a band of a group holds: 6,144 stripes of one data page less than the group has live dies (13 R286, R287). -/
def State.bandUnits (s : State) (g : Nat) : Nat := stripesPerBand * 4 * ((s.liveDies g).length - 1)

/-- The page of stripe t of band b on a die: stripes run in order of wordline, then page, then plane. -/
def State.stripePage (s : State) (d : DieId) (b t : Nat) : Nat :=
  dieBlock d (t % 4) (s.bandBlock d (t % 4) (b % 4096)) * 2 ^ 11 + (t / 12 * 3 + t / 4 % 3)

/-! ### Codewords (12 R265) -/

/-- The 4,320 bytes of a codeword before scrambling: encrypted data, FTL metadata, parity over both. -/
def cwWord (cipher : Unit4K) (info : BitVec 128) : BitVec 34560 :=
  let first : BitVec 32896 := BitVec.ofNat 32896 (cipher.toNat + info.toNat * 2 ^ 32768)
  BitVec.ofNat 34560 (first.toNat + (Config.ldpcParity first).toNat * 2 ^ 32896)

/-- What lies in the page: the codeword scrambled with the sequence of its flash address; and back. -/
def scrambled (k : Nat) (w : BitVec 34560) : BitVec 34560 := w ^^^ Config.scrambler (k * 8)

/-- A codeword as it leaves the controller of its channel. -/
def State.cwWordAt (s : State) (k : Nat) : BitVec 34560 :=
  match s.cwAt k with
  | some w => scrambled k w.media
  | none => 0

def xorWords (l : List (BitVec 34560)) : BitVec 34560 := l.foldl (· ^^^ ·) 0

/-! ### Which codewords are readable -/

/-- The other pages of the stripe that holds a page: those programmed at the same place of its band on the group's other dies. -/
def State.stripeMates (s : State) (k : Nat) : List Nat :=
  let page := k / 4
  let plane := (pagePlane page).val
  let n := s.bandOfBlock (blockKey page)
  ((groupDies s.variant (groupOf s.variant (pageDie page))).map fun d =>
      (dieBlock d plane (s.bandBlock d plane n) * 2 ^ 11 + page % 2 ^ 11) * 4 + k % 4).filter fun j =>
    j != k && (s.cwAt j).isSome

/-- Read on its own die (12 Table 12-4 steps 1 to 3). -/
def State.cwOwn (s : State) (k : Nat) : Bool :=
  match s.cwAt k with
  | some w => !w.bad && !s.dieFailed (pageDie (k / 4))
  | none => false

/-- A rebuild serves it: every other codeword of the stripe is read on its own die, and their XOR is the codeword (12 R273, R274). -/
def State.cwRebuilt (s : State) (k : Nat) : Bool :=
  match s.cwAt k with
  | some w =>
    let m := s.stripeMates k
    m.length + 1 = w.width && m.all s.cwOwn && xorWords (m.map s.cwWordAt) = s.cwWordAt k
  | none => false

/-! ### Read counters (12 R276, R278) -/

/-- The read counter of a page's block counts n more senses. -/
def State.addReads (s : State) (page n : Nat) : State :=
  s.updBlock (blockKey page) fun b => { b with reads := b.reads + BitVec.ofNat 32 n }

/-- Bits a hard decode corrects in a codeword (12, below Table 12-7; log 27). -/
def hardLimit : Nat := 240

/-- Schedule a block for refresh with a count of corrected bits. -/
def State.schedule (s : State) (k n : Nat) : State :=
  s.updBlock k fun b => { b with refresh := some (match b.refresh with
    | some m => max m n
    | none => n) }

/-- Each page on the codeword's stripe but its own is read once for a rebuild (12 R274); those on failed dies are not. -/
def State.countRebuild (s : State) (k : Nat) : State :=
  (s.stripeMates k).foldl (fun (t : State) j => if s.dieFailed (pageDie (j / 4)) then t else t.addReads (j / 4) 1) s

/-- A codeword that the normal read does not correct: seven re-reads, two further reads and a rebuild, and its block is scheduled for
refresh; one on a failed die: the rebuild alone (12 Table 12-4, R269, R280). -/
def State.countRecovery (s : State) (k : Nat) : State :=
  if s.dieFailed (pageDie (k / 4)) then s.countRebuild k
  else if s.cwOwn k then s
  else ((s.addReads (k / 4) 9).schedule (blockKey (k / 4)) (hardLimit + 1)).countRebuild k

/-- The hub reads these codewords: each page on a die that works is sensed once (12 R276). -/
def State.countReads (s : State) (ks : List Nat) : State :=
  let pages := ((ks.map (· / 4)).filter fun p => !s.dieFailed (pageDie p)).eraseDups
  ks.foldl State.countRecovery (pages.foldl (fun (t : State) p => t.addReads p 1) s)

end Sys2Proof.Machine
end

