-- ==== Sys2Proof/Machine/Storage.lean ====
section
/-! DEFINITION. Namespaces as reads and writes find them (01 R25 to R29; 13 R282 to R289; 16 R361): the map, the write buffer, range locks, and the tile directory (10 R225, R226). -/

namespace Sys2Proof.Machine

open Sys2Proof

/-! ### Namespaces -/

/-- No sanitize or format holds the namespace, it exists and is attached to some function (10 R230, R242). -/
def State.nsReadable (s : State) (n : Nat) : Bool :=
  match s.ns n with
  | some v => !v.attached.isEmpty && s.san.active.isNone
  | none => false

def State.nsWritable (s : State) (n : Nat) : Bool :=
  s.nsReadable n && !s.readOnly && match s.ns n with
    | some v => !v.writeProt
    | none => false

def State.nsBlocks (s : State) (n : Nat) : Nat :=
  match s.ns n with
  | some v => v.blocks
  | none => 0

/-! ### Units of the media (13 R283, R284) -/

/-- A unit in the write buffer, the newest. -/
def State.buffered (s : State) (nsid unit : Nat) : Option BufUnit :=
  s.buffer.reverse.find? fun b => b.kind == .unit && b.nsid.toNat = nsid && b.unit.toNat = unit

/-- The codeword i units on from another in the write order of its band (13 R283, R287). -/
def State.cwAfter (s : State) (k i : Nat) : Option Nat :=
  if i = 0 then some k
  else (s.cwAt k).bind fun w => (s.cwords.find? fun e =>
    s.bandOfPage (e.1 / 4) = s.bandOfPage (k / 4) && match e.2 with
      | some v => v.owner.isSome && v.seq = w.seq + i
      | none => false).map (·.1)

/-- The codeword that holds a unit, by its map entry: the entry of a tile namespace names the first of 256 units that follow one
another. -/
def State.unitCw (s : State) (nsid unit : Nat) : Option Nat :=
  let w := s.mapAt nsid unit
  if !mapMapped w then none
  else s.cwAfter (mapCw w) (if s.nsIsTile nsid then unit % 256 else 0)

/-- A codeword's data, from its own die or by a rebuild; none of a unit marked lost (12 R268, R280, 13 R283). -/
def State.cwData (s : State) (k : Nat) : Option Unit4K :=
  match s.cwAt k with
  | some w => if !w.lost && (s.cwOwn k || s.cwRebuilt k) then some w.data else none
  | none => none

/-- A logical unit as a read returns it: none when it is unrecoverable (01 R27, 12 R269, 13 R283, R284). -/
def State.readUnit (s : State) (nsid unit : Nat) : Option Unit4K :=
  match s.buffered nsid unit with
  | some b => if b.lost then none else some b.data
  | none =>
    let w := s.mapAt nsid unit
    if mapLost w then none else if mapMapped w then (s.unitCw nsid unit).bind s.cwData else some 0

/-- Units first to first + n - 1; none when one of them is unrecoverable. -/
def State.readUnits (s : State) (nsid first n : Nat) : Option (List Unit4K) :=
  let us := (List.range n).map fun i => s.readUnit nsid (first + i)
  if us.all (·.isSome) then some (us.filterMap id) else none

/-! ### What reading costs the media (12 R269, R276; 13 R290 to R292) -/

/-- The flash address of a unit's codeword, for the error log; 0 where it lies in none (12 R263). -/
def State.unitAddr (s : State) (nsid unit : Nat) : Nat := ((s.unitCw nsid unit).getD 0) * 8

/-- A record of the host memory buffer is used: its tag verifies, SLOT names the slot read, GEN is the FTL's own, and PAGE names the page
sought (13 R292). -/
def State.hmbGood (s : State) (j pk : Nat) (record : List Byte) : Bool :=
  let slot := field record 0 4
  let gen := field record 8 8
  let tag := Config.gcmTag s.hmbKey (slot + gen * 2 ^ 32) (field record 0 32) (ofUnit (record.drop 64))
  record.length = hmbRecordBytes && tag.toNat = field record 32 16 && slot = j && gen = s.hmbGen j && field record 16 8 = hmbPage pk

/-- A record failed: it is counted, in its window of 1 s too, and the slot is written again. -/
def State.hmbFailed (s : State) (j pk : Nat) : State :=
  let w := s.time.toNat / 1000000000
  { s with hmbFails := s.hmbFails + 1, hmbNow := (if s.hmbWin = w then s.hmbNow else 0) + 1, hmbWin := w }.hmbWrite j pk

/-- The FTL's own copy of a map page is read from F (13 R290). -/
def State.readMapPage (s : State) (pk : Nat) : State :=
  match SMap.get (fun _ => (none : Option Nat)) s.mapDir pk with
  | some k => s.countReads [k]
  | none => s

/-- A map page that a read or write needs: in the map cache; else as the host returns its record; else from F. What the map says does not
depend on it (13 R292). -/
def State.fetchPage (s : State) (pk : Nat) (record : Option (List Byte)) : State :=
  if s.nsIsTile (pk / 2 ^ 29) then s
  else if s.mapCache.any fun m => m.page = pk then s.cachePage pk false
  else
    let t := match record, s.hmbSlotOf pk with
      | some r, some j => if !s.hmbInUse then s.readMapPage pk else if s.hmbGood j pk r then s else (s.readMapPage pk).hmbFailed j pk
      | _, _ => s.readMapPage pk
    t.cachePage pk false

/-- The map pages of a range, in order; each that a slot of the host memory buffer holds takes the next record the host returns. -/
def State.fetchPages (s : State) (records : List (List Byte)) : List Nat → State
  | [] => s
  | pk :: rest =>
    if s.hmbInUse && (s.hmbSlotOf pk).isSome && s.mapCache.all (fun m => m.page ≠ pk) then
      (s.fetchPage pk records.head?).fetchPages records.tail rest
    else (s.fetchPage pk none).fetchPages records rest

/-- Keys of the map pages of a range of units. -/
def State.pagesOf (s : State) (nsid first n : Nat) : List Nat :=
  let a := s.unitKey nsid first / 512
  if n = 0 then [] else (List.range (s.unitKey nsid (first + n - 1) / 512 + 1 - a)).map (a + ·)

/-- Those of some units that are not in the write buffer are read from the media. -/
def State.countUnits (s : State) (nsid : Nat) (us : List Nat) : State :=
  s.countReads (us.filterMap fun u => if (s.buffered nsid u).isSome then none else s.unitCw nsid u)

/-- Units are read: their map pages are fetched, then they are read from the media. -/
def State.noteRead (s : State) (nsid first n : Nat) (records : List (List Byte) := []) : State :=
  (s.fetchPages records (s.pagesOf nsid first n)).countUnits nsid ((List.range n).map (first + ·))

/-! ### The write buffer (01 R25 to R27) -/

/-- Put units into the write buffer, none for one marked lost; an older version of a unit there is superseded (01 R25, R27). -/
def State.bufferUnits (s : State) (nsid first : Nat) (k : Class) (moved : Bool) (data : List (Option Unit4K)) : State :=
  let keep := s.buffer.filter fun b =>
    !(b.kind == .unit && b.nsid.toNat = nsid && first ≤ b.unit.toNat && b.unit.toNat < first + data.length)
  { s with buffer := keep ++ data.zipIdx.map fun d =>
      { nsid := BitVec.ofNat 10 nsid, unit := BitVec.ofNat 38 (first + d.2), data := d.1.getD 0, cls := k, lost := d.1.isNone
        moved := moved } }

/-- 64 MiB, below which writes complete only once programmed (13 R305). -/
def bufferLeast : Nat := 16384

/-- Whether n more units fit. -/
def State.bufferRoom (s : State) (n : Nat) : Bool := s.buffer.length + n ≤ max s.bufCap bufferLeast

/-- Units of the buffer that no stripe carries and no codeword holds yet. -/
def State.loose (s : State) (k : Stream) : List BufUnit :=
  s.buffer.filter fun b => b.stream == k && b.place.isNone && s.stripes.all fun t => t.failed || t.units.all fun x => x.2.2 != b

/-- Units that a class can still write: the rest of its open bands, its free bands, and its part of the unused pool (13 R295). -/
def State.streamRoom (s : State) (k : Stream) : Nat :=
  (List.range (groupsOf s.variant)).foldl (fun n g => n +
    s.bands.foldl (fun m e => m +
      if e.1 / 4096 = g && e.2.stream == k then match e.2.state with
        | .opened => (stripesPerBand - e.2.next) * 4 * ((s.liveDies g).length - 1)
        | .free => s.bandUnits g
        | _ => 0
      else 0) 0) ((s.unusedPool - s.othersReserve k) * stripesPerBand * 4 * 30)

/-! ### Shares of the program capacity (13 R298; 17 R378, Table 17-3) -/

def partNo (p : Option (Fin 12)) : Nat :=
  match p with
  | some q => q.val
  | none => 12

/-- Bytes programmed for a partition's writes and commits in this window. -/
def State.wrNow (s : State) (p : Option (Fin 12)) : Nat := if s.wrWin = s.msWindow then SMap.get (fun _ => 0) s.wrUsed (partNo p) else 0

/-- WR_SHARE of a partition; the hub's own writes have what is assigned to none. -/
def State.wrShare (s : State) (p : Option (Fin 12)) : Nat :=
  let share (q : Fin 12) : Nat := match (s.part q).cfg with
    | some r => r.wrShare.toNat
    | none => 0
  match p with
  | some q => share q
  | none => 100 - allParts.foldl (fun n q => n + share q) 0

/-- n bytes stay within 48 GB/s, and in isolated arbitration within the share; a command larger than a window's bytes is admitted where
nothing was before it (log 34). -/
def State.withinWrite (s : State) (p : Option (Fin 12)) (n : Nat) : Bool :=
  let all := (List.range 13).foldl (fun m i => m + if s.wrWin = s.msWindow then SMap.get (fun _ => 0) s.wrUsed i else 0) 0
  (all = 0 || all + n ≤ 48000000) &&
    (!s.arb.isolated || (s.wrShare p ≠ 0 && (s.wrNow p = 0 || s.wrNow p + n ≤ 480000 * s.wrShare p)))

def State.countWrite (s : State) (p : Option (Fin 12)) (n : Nat) : State :=
  { s with
    wrWin := s.msWindow
    wrUsed := SMap.set (fun _ => 0) (if s.wrWin = s.msWindow then s.wrUsed else []) (partNo p) (s.wrNow p + n) }

/-- A group below RECLAIM_LO takes no host writes and commits (13 R297). -/
def State.groupLow (s : State) (g : Nat) : Bool := s.freeBands g < bits s.mediaCtl 7 0

/-- Room for n units of a host write or a commit in a class: in the buffer, in a group that takes them, in the class's bands, and within the
shares (01 R26, 13 R295, R297, R298). -/
def State.hostRoom (s : State) (p : Option (Fin 12)) (k : Class) (n : Nat) : Bool :=
  s.bufferRoom n && (List.range (groupsOf s.variant)).any (fun g => !s.groupLow g && (s.openBand g (some k)).isSome) &&
    (s.loose (some k)).length + n ≤ s.streamRoom (some k) && s.withinWrite p (n * 4096)

/-- Unmap units (13 R284). -/
def State.unmap (s : State) (nsid first n : Nat) : State :=
  let tile := s.nsIsTile nsid
  let a := mapKey nsid (mapIndex tile first)
  let b := mapKey nsid (mapIndex tile (first + n))
  let s1 := { s with buffer := s.buffer.filter fun x =>
    !(x.kind == .unit && x.nsid.toNat = nsid && first ≤ x.unit.toNat && x.unit.toNat < first + n) }
  (s.nsMap.filter fun e => a ≤ e.1 && e.1 < b).foldl (fun (t : State) e => t.setEntry e.1 0) s1

/-- Forget everything of a namespace: its map and its buffered data. -/
def State.unmapAll (s : State) (nsid : Nat) : State := s.unmap nsid 0 (2 ^ 38)

/-- Whole map units that a range of a tile namespace covers, 256 units each (13 R283); a block namespace's units are the
range itself. -/
def widenRange (tile : Bool) (first n : Nat) : Nat × Nat :=
  if tile then (first / 256 * 256, ((first + n + 255) / 256 - first / 256) * 256) else (first, n)

/-- Rewrite whole map units of a tile namespace, units of new data given; the rest is read, and units of it that cannot be read are marked
lost and reported (13 R283). -/
def State.rewriteTile (s : State) (nsid : Nat) (r : Nat × Nat) (new : Nat → Option Unit4K) (moved : Bool) : State :=
  let us := (List.range r.2).map fun i => (r.1 + i, match new (r.1 + i) with
    | some d => some d
    | none => s.readUnit nsid (r.1 + i))
  let t := s.countUnits nsid ((us.map (·.1)).filter fun u => (new u).isNone)
  let u := (us.filter fun u => u.2.isNone).foldl (fun (v : State) x => v.log (.unitLost nsid x.1 (s.unitAddr nsid x.1))) t
  u.bufferUnits nsid r.1 .frozen moved (us.map (·.2))

/-- Write units of a namespace. In a tile namespace the rest of each 1 MiB unit is rewritten with it (13 R283, R294). -/
def State.writeUnits (s : State) (nsid first : Nat) (k : Class) (data : List Unit4K) : State :=
  if s.nsIsTile nsid then
    s.rewriteTile nsid (widenRange true first data.length) (fun u => if first ≤ u then data[u - first]? else none) false
  else (s.fetchPages [] (s.pagesOf nsid first data.length)).bufferUnits nsid first k false (data.map some)

/-- Buffer units a write of n units takes. -/
def State.writeCost (s : State) (nsid first n : Nat) : Nat := (widenRange (s.nsIsTile nsid) first n).2

/-! ### Tile directory (10 R225) -/

/-- The little-endian word at a byte offset of a namespace, a multiple of 8; none when unrecoverable. -/
def State.nsWord (s : State) (nsid off : Nat) : Option Nat :=
  (s.readUnit nsid (off / 4096)).map fun u => u.toNat >>> (8 * (off % 4096)) % 2 ^ 64

/-- Units of the directory range: from unit 0 up to DATA, at least unit 0 (10 R226). -/
def State.dirUnits (s : State) (nsid : Nat) : Nat :=
  match s.nsWord nsid 8 with
  | some d => max 1 (d % 2 ^ 36)
  | none => 1

/-- What reading a tile's directory entry comes to. -/
inductive DirEntry where
  /-- the tile: first unit and units -/
  | tile (start size : Nat)
  /-- no such tile, or its entry is not valid -/
  | invalid
  /-- the directory could not be read -/
  | unreadable
deriving DecidableEq, Repr

def State.tileEntry (s : State) (nsid t : Nat) : DirEntry :=
  match s.nsWord nsid 0, s.nsWord nsid 8 with
  | some n, some d =>
    if t ≥ n % 2 ^ 36 then .invalid
    else match s.nsWord nsid (64 + 8 * t) with
      | none => .unreadable
      | some e =>
        let start := e / 2 ^ 24 % 2 ^ 36
        let size := e / 2 ^ 12 % 2 ^ 12 + 1
        if e / 2 ^ 60 ≠ 0 || e % 2 ^ 12 ≠ 0 || start < d % 2 ^ 36 || s.nsBlocks nsid < start + size then .invalid
        else .tile start size
  | _, _ => .unreadable

/-- The tiles of Nougat entries that a range of a tile namespace backs (01 R28, 10 R226). -/
def State.backs (s : State) (n : Nougat) (nsid first cnt : Nat) : Bool :=
  n.nsid.toNat = nsid && cnt ≠ 0 &&
    (first < s.dirUnits nsid || match s.tileEntry nsid n.tile.toNat with
      | .tile start size => meets (start, size) first cnt
      | _ => true)

/-- A write to the range is refused: it backs a pinned tile (01 R28). -/
def State.pinnedRange (s : State) (nsid first cnt : Nat) : Bool :=
  s.nsIsTile nsid && s.nougat.any fun e => match e.2 with
    | some n => n.pin ≠ 0 && s.backs n nsid first cnt
    | none => false

/-- An entry without its copies. -/
def Nougat.uncopied (n : Nougat) : Option Nougat := Nougat.settle { n with inD1 := false, inD2 := false }

/-- Change every entry of the Nougat table; an entry that becomes none is freed. -/
def State.mapNougat (s : State) (f : Nougat → Option Nougat) : State :=
  { s with nougat := (s.nougat.map fun e => (e.1, e.2.bind f)).filter fun e => e.2.isSome }

/-- Some TILE_PIN copies from entry e, so that its D1 copy is being read (10 R236). -/
def State.copying (s : State) (e : Nat) : Bool :=
  allClusters.any fun cl => (s.cluster cl).tmExec.any fun x => x.pinned == some e && !x.done

/-- Every resident copy of a tile the range backs is removed (01 R29). A copy that a TILE_PIN still reads stays until that read ends, and
no later pin finds it (10 R237, log 105). -/
def State.dropCopies (s : State) (nsid first cnt : Nat) : State :=
  if s.nsIsTile nsid then
    { s with nougat := (s.nougat.map fun e => (e.1, e.2.bind fun n =>
        if !s.backs n nsid first cnt then some n
        else if s.copying e.1 then some { n with stale := true }
        else n.uncopied)).filter fun e => e.2.isSome }
  else s

/-- Entries whose tile was written are freed once nothing copies from them. -/
def State.sweepStale (s : State) : State :=
  { s with nougat := s.nougat.filter fun e => match e.2 with
      | some n => !n.stale || s.copying e.1
      | none => true }

/-- The write of R28 and R29 as one step of the Nougat table, then into the buffer: none when a pin refuses it. -/
def State.hostWrite (s : State) (nsid first : Nat) (k : Class) (data : List Unit4K) : Option State :=
  if s.pinnedRange nsid first data.length then none
  else some ((s.dropCopies nsid first data.length).writeUnits nsid first k data)

/-! ### Range locks (16 R361) -/

def Lock.conflicts (l : Lock) (nsid first n : Nat) (read : Bool) : Bool :=
  l.nsid.toNat = nsid && !(l.read && read) && meets (l.first, l.count) first n

/-- An earlier lock, held or waiting, conflicts. -/
def State.lockBusy (s : State) (nsid first n : Nat) (read : Bool) : Bool :=
  s.locks.any fun l => l.conflicts nsid first n read

/-- The table has room for n more. -/
def State.lockRoom (s : State) (n : Nat) : Bool := s.locks.length + n ≤ 4096

/-- Enter a lock; its number. -/
def State.addLock (s : State) (nsid first n : Nat) (read granted : Bool) : State × Nat :=
  ({ s with
     locks := s.locks ++ [{ id := s.nextLock, nsid := BitVec.ofNat 10 nsid, first := first, count := n, read := read,
                            granted := granted }]
     nextLock := s.nextLock + 1 }, s.nextLock)

/-- A lock waits no longer: no conflicting earlier lock is left. -/
def State.lockFree (s : State) (id : Nat) : Bool :=
  match s.locks.find? fun l => l.id = id with
  | none => true
  | some l => (s.locks.takeWhile fun m => m.id != id).all fun m => !m.conflicts l.nsid.toNat l.first l.count l.read

def State.grantLock (s : State) (id : Nat) : State :=
  { s with locks := s.locks.map fun l => if l.id = id then { l with granted := true } else l }

/-- A command waits for free entries of the lock table. -/
def State.tableFull (s : State) : Bool := s.heldCmds.any fun x => match x with
  | .tableWait _ => true
  | _ => false

/-- A write or commit holds or awaits a lock on the range (16 R361, for promotions). -/
def State.writeLocked (s : State) (nsid first n : Nat) : Bool :=
  s.locks.any fun l => l.granted && !l.read && l.nsid.toNat = nsid && meets (l.first, l.count) first n

end Sys2Proof.Machine
end

