-- ==== Sys2Proof/Machine/FlashOps.lean ====
section
/-! DEFINITION. Shared operations of the flash media (12 R270 to R280; 13 R288, R296): holds, senses, retirement, failure,
refresh scheduling, the moving of valid data, and the writing of stripes. -/

namespace Sys2Proof.Machine

open Sys2Proof

/-! ### Holds (12 R271, R272) -/

def dieBit (d : DieId) : BitVec 15 := BitVec.ofNat 15 (2 ^ d.die.val)

def State.holdBit (s : State) (d : DieId) : Bool := (s.chan d.ch).hold.getLsbD d.die.val
def State.setHold (s : State) (d : DieId) (v : Bool) : State :=
  s.updChan d.ch fun c => { c with hold := if v then c.hold ||| dieBit d else c.hold &&& ~~~(dieBit d) }

/-- The write buffer is filled to WB_HI or more. -/
def State.bufferHigh (s : State) : Bool := s.bufCap * bits s.suspCtl 55 48 ≤ s.buffer.length * 100

def DieOp.isProgram (o : DieOp) : Bool :=
  match o.kind with
  | .program _ => true
  | .erase _ _ => false

/-- No suspension is asked for this operation now. -/
def State.unsuspended (s : State) (d : DieId) (o : DieOp) : Bool := s.holdBit d || (o.isProgram && s.bufferHigh)

def State.freeLo (s : State) : Nat := bits s.suspCtl 15 0
def State.freeHi (s : State) : Nat := bits s.suspCtl 31 16
/-- SUSP_LIMIT in ticks. -/
def State.suspLimit (s : State) : Nat := bits s.suspCtl 63 56 * 1000000

/-- Total suspension of an operation until now (12 R272). -/
def State.suspended (s : State) (o : DieOp) : Nat :=
  o.suspTot.toNat + (if o.st == .running then 0 else (s.time - o.suspAt).toNat)

/-- The FTL's check at each suspension and resumption (12 Table 12-5). -/
def State.holdPolicy (s : State) (d : DieId) : State :=
  match (s.die d).op with
  | some o =>
    let f := s.freeBlocks d
    if f < s.freeLo || (f < s.freeHi && s.suspLimit ≤ s.suspended o) then s.setHold d true else s
  | none => s

/-! ### Isolated die time (17 R378, R379) -/

/-- The 6-bit number with its bits in reverse order. -/
def rev6 (n : Nat) : Nat := (List.range 6).foldl (fun r i => r * 2 + n / 2 ^ i % 2) 0

def State.fslot (s : State) (p : Fin 12) : Nat :=
  match (s.part p).cfg with
  | some r => r.fslot.toNat
  | none => 0

/-- FSLOT over all partitions. -/
def State.slotSum (s : State) : Nat := allParts.foldl (fun n p => n + s.fslot p) 0

/-- The partition to which index i of the dealing falls: B_p ≤ i < B_p + FSLOT_p. -/
def State.dealt (s : State) (i : Nat) : Option (Fin 12) :=
  (allParts.foldl (fun (a : Nat × Option (Fin 12)) p =>
    (a.1 + s.fslot p, if a.1 ≤ i && i < a.1 + s.fslot p then some p else a.2)) (0, none)).2

/-- The partition that holds position n of a frame of 64, none for an unassigned one: position rev(i) is dealt with index i, and rev is its
own inverse. -/
def State.posOwner (s : State) (n : Nat) : Option (Fin 12) := s.dealt (rev6 n)

/-- Number of the present die-time turn of 80 µs. -/
def State.dieTurn (s : State) : Nat := s.time.toNat / 80000

/-- The present turn is assigned to no partition. -/
def State.turnUnassigned (s : State) : Bool := s.slotSum ≤ rev6 (s.dieTurn % 64)

/-- More than 30 µs are left of an unassigned turn: a suspension is asked for 30 µs before it ends. -/
def State.turnOpen (s : State) : Bool := s.turnUnassigned && s.time.toNat % 80000 < 50000

/-- A program or erase may run now. -/
def State.mayWork (s : State) : Bool := !s.arb.isolated || s.turnUnassigned

/-! ### Senses (12 R262, R276) -/

/-- A page sense starts: its block's counter counts. -/
def State.sense (s : State) (r : FlashRead) : State :=
  (s.addReads r.page 1).updDie (pageDie r.page) fun d =>
    { d with
      senses := d.senses ++ [(pagePlane r.page, r)]
      turned := SMap.set (fun _ => 0) d.turned (pagePlane r.page).val (s.dieTurn + 1) }

/-- A sense may start by the die's turns: in isolated arbitration a partition's in its own turns, one per plane per turn, and the hub's own
in unassigned turns (17 Table 17-3). -/
def State.maySense (s : State) (r : FlashRead) : Bool :=
  !s.arb.isolated || match r.part with
    | some p => s.posOwner (s.dieTurn % 64) = some p &&
        SMap.get (fun _ => 0) (s.die (pageDie r.page)).turned (pagePlane r.page).val ≠ s.dieTurn + 1
    | none => s.turnUnassigned

/-- The die can sense: nothing runs on it, or the operation is suspended and not held. -/
def State.canSense (s : State) (d : DieId) : Bool :=
  match (s.die d).op with
  | none => true
  | some o => o.st == .suspended && !s.unsuspended d o

def Die.planeFree (d : Die) (p : Fin 4) : Bool := d.senses.all fun x => x.1 != p

/-- Waiting reads start, in order, on planes that are free. -/
def State.startReads (s : State) (d : DieId) : State :=
  if s.canSense d then
    (s.die d).reads.foldl (fun (t : State) r =>
      if (t.die d).planeFree (pagePlane r.page) && t.maySense r then
        (t.updDie d fun x => { x with reads := x.reads.erase r }).sense r
      else t) s
  else s

def engineOf (page : Nat) : Fin 16 := ⟨(pageCh page).val / 4 % 16, Nat.mod_lt _ (by decide)⟩

/-- A read that only a rebuild serves (12 R274, R280). -/
def State.toRebuild (s : State) (r : FlashRead) : State :=
  s.updLdpcOf (engineOf r.page) fun l => { l with rebuild := l.rebuild ++ [r] }

/-! ### Retirement and failure (12 R275, R279; 13 R288) -/

/-- Bands of a group that are not out of use. -/
def State.goodBands (s : State) (g : Nat) : Nat :=
  bandsPerGroup - (s.bands.filter fun e => e.1 / 4096 = g && e.2.state == .dead).length

/-- 13 R288: where mapped data and RECLAIM_LO free bands in each group leave less than 0.5% of what the good bands hold, the module becomes
read-only. -/
def State.checkSpare (s : State) : State :=
  let sum (f : Nat → Nat) : Nat := (List.range (groupsOf s.variant)).foldl (fun n g => n + f g) 0
  let room := sum fun g => s.goodBands g * s.bandUnits g
  let mapped := s.nsMap.foldl (fun n e => n + if !mapMapped e.2 then 0 else if s.nsIsTile (e.1 / 2 ^ 38) then 256 else 1) 0
  let need := mapped + sum fun g => bits s.mediaCtl 7 0 * s.bandUnits g
  if room * 995 < need * 1000 then { s with readOnly := true, critWarn := s.critWarn ||| 8 } else s

/-- A good block of the plane that replaces no other. -/
def State.spareFor (s : State) (k : Nat) : Option Nat :=
  ((List.range (blocksPerPlane - bandsPerGroup)).map (bandsPerGroup + ·)).find? fun n =>
    !(s.blockAt (k / 4096 * 4096 + n)).retired && s.spares.all fun e => !(e.1 / 4096 = k / 4096 && e.2 = n)

/-- Another block takes a block's place in its band (12 R260); none where the plane has no good one left. -/
def State.replaceBlock (s : State) (k : Nat) : Option State :=
  (s.spareFor k).map fun n =>
    { s with spares := SMap.set ownBlock s.spares (k / 4096 * 4096 + s.bandOfBlock k) n }

/-- Every retired block of a band is replaced; where one cannot be, the band is out of use. -/
def State.mendBand (s : State) (b : Nat) : State :=
  let bad := s.blocks.filterMap fun e =>
    if e.2.retired && s.bandOfPage (e.1 * 2 ^ 11) = b && !s.dieFailed (pageDie (e.1 * 2 ^ 11)) then some e.1 else none
  match bad.foldl (fun (o : Option State) k => o.bind fun t => t.replaceBlock k) (some s) with
  | some t => t
  | none => s.setBand b { s.bandAt b with state := .dead }

/-- Stripes that lose pages: they are programmed again from the buffer (12 R275). -/
def State.losePages (s : State) (pages : List Nat) : State :=
  { s with stripes := (s.stripes.map fun t =>
      if t.pages.any pages.contains then { t with failed := true, pending := t.pending.filter fun p => !pages.contains p }
      else t).filter fun t => !(t.failed && t.pending.isEmpty) }

/-- An open band takes no further stripe; what it has gathered and not begun to program goes into new stripes. -/
def State.closeBand (s : State) (b : Nat) : State :=
  let waiting := (s.dies.flatMap fun e => e.2.programs.flatten).filter fun p => s.bandOfPage p = b
  let t := s.losePages waiting
  { t.setBand b { s.bandAt b with state := .closed, stamp := s.bandStamp, carry := none } with
    bandStamp := s.bandStamp + 1
    dies := t.dies.map fun e => (e.1, { e.2 with
      programs := (e.2.programs.map fun w => w.filter fun p => !waiting.contains p).filter fun w => !w.isEmpty }) }

/-- A block is retired. A band that holds no data takes another block in its place; an open one takes no further data, and like one that is
closed it is mended once it is erased. -/
def State.retireBlock (s : State) (k : Nat) : State :=
  if (s.blockAt k).retired then s
  else
    let page := k * 2 ^ 11
    let t := (s.updBlock k fun b => { b with retired := true }).updDie (pageDie page) fun d => { d with retired := d.retired + 1 }
    let b := s.bandOfPage page
    (match (s.bandAt b).state with
      | .unused | .free => if b % 4096 < bandsPerGroup then t.mendBand b else t
      | .opened => t.closeBand b
      | _ => t).checkSpare

/-- The blocks an operation works on. -/
def DieOp.blocks (o : DieOp) (d : DieId) : List Nat :=
  match o.kind with
  | .program pages => (pages.map blockKey).eraseDups
  | .erase planes block => ((List.range 4).filter fun p => planes.getLsbD p).map fun p => dieBlock d p block.val

/-- Everything a die does is abandoned; its reads, with those that await recovery, go to a rebuild. -/
def State.emptyDie (s : State) (d : DieId) : State :=
  let x := s.die d
  let s1 := match x.op with
    | some o => (o.blocks d).foldl State.retireBlock s
    | none => s
  let s2 := s1.losePages ((match x.op with
    | some o => (match o.kind with
        | .program p => p
        | .erase _ _ => [])
    | none => []) ++ x.programs.flatten)
  let e := engineOf (dieBlock d 0 0 * 2 ^ 11)
  let again := ((s.ldpcOf e).recover.map (·.1)).filter fun r => pageDie r.page = d
  let s3 := s2.updLdpcOf e fun l => { l with recover := l.recover.filter fun r => pageDie r.1.page ≠ d }
  let s4 := (x.senses.map (·.2) ++ x.reads ++ again).foldl State.toRebuild s3
  s4.updDie d fun y => { y with op := none, reads := [], senses := [], programs := [] }

/-- A failure ends a Block Erase that runs (13 R308). -/
def State.failSanitize (s : State) : State :=
  if s.san.active = some .block then { s with san := { s.san with active := none, failed := true } } else s

/-- A die is declared failed (12 R279). -/
def State.failDie (s : State) (d : DieId) : State :=
  if (s.die d).failed || !s.dieThere d then s
  else
    let s1 := (s.emptyDie d).updDie d fun x => { x with failed := true }
    (s1.log (.dieFailed (dieAddr d))).failSanitize.checkSpare.commitRoot

/-- A channel is declared failed, with every die on it. -/
def State.failChannel (s : State) (ch : Fin 64) : State :=
  if (s.chan ch).failed then s
  else
    let dies : List DieId := ((List.finRange 15).map fun n => ⟨ch, n⟩).filter fun d => s.dieThere d
    let s1 := dies.foldl (fun (t : State) d => (t.emptyDie d).updDie d fun x => { x with failed := true }) s
    let s2 := s1.updChan ch fun c => { c with failed := true, toLdpc := [] }
    let s3 := (s.chan ch).toLdpc.foldl State.toRebuild s2
    (s3.log (.channelFailed (chanAddr ch))).failSanitize.checkSpare.commitRoot

/-! ### Refresh (12 R278) and the moving of data (13 R283, R294) -/

def State.cbt (s : State) : Nat := bits s.rdCtl 23 16

/-- The first journal page that a start-up from the newest record would replay. -/
def State.replayStart (s : State) : Nat :=
  match s.rootAt.bind fun a => SMap.get (fun _ => (none : Option RootRec)) s.rootRecs a with
  | some r => r.replay
  | none => 0

/-- The unit a codeword holds, when it is the one in force and no newer version is in the buffer: the map names it there, the directory
of map pages does, or a replay of the journal needs it. -/
def State.validUnit (s : State) (k : Nat) : Option (UnitKind × Nat × Nat) :=
  match s.cwAt k with
  | some w =>
    w.owner.bind fun o =>
      let n := o.1.toNat
      let u := o.2.toNat
      let held : Bool := s.buffer.any fun b => b.kind == w.kind && b.nsid = o.1 && b.unit = o.2
      let named : Bool := match w.kind with
        | .unit => s.unitCw n u = some k
        | .mapPage => SMap.get (fun _ => (none : Option Nat)) s.mapDir (n * 2 ^ 29 + u) = some k
        | .journal => s.replayStart ≤ u
      if named && !held then some (w.kind, n, u) else none
  | none => none

/-- Buffer units that moving a codeword takes: a map unit of a tile namespace moves whole. -/
def State.moveCost (s : State) (k : Nat) : Nat :=
  match s.validUnit k with
  | some (.unit, n, _) => if s.nsIsTile n then 256 else 1
  | some _ => 1
  | none => 0

/-- A valid unit is read and rewritten through the buffer, in its class; one that cannot be read is lost and reported (12 R269, 13 R283,
R294). -/
def State.moveUnit (s : State) (k : Nat) : State :=
  match s.validUnit k with
  | none => s
  | some (.unit, n, u) =>
    if s.nsIsTile n then s.rewriteTile n (u / 256 * 256, 256) (fun _ => none) true
    else match s.cwData k with
      | some d => (s.countReads [k]).bufferUnits n u (classOf (s.mapAt n u)) true [some d]
      | none => ((s.countReads [k]).setMap n u lostEntry).log (.unitLost n u (k * 8))
  | some (.mapPage, n, u) => s.bufferMeta .mapPage n u (s.mapPage (n * 2 ^ 29 + u))
  | some (.journal, n, u) =>
    match s.cwData k with
    | some d => (s.countReads [k]).bufferMeta .journal n u d
    | none => s

/-- The codewords of State.cwords with a valid unit that satisfy a test. -/
def State.validCws (s : State) (ok : Nat → Bool) : List Nat :=
  (s.cwords.map (·.1)).filter fun k => ok k && (s.validUnit k).isSome

/-- Move as many as the buffer has room for, in order. -/
def State.moveAll (s : State) (ks : List Nat) : State :=
  ks.foldl (fun (t : State) k => if t.bufferRoom (t.moveCost k) then t.moveUnit k else t) s

/-! ### Stripes (12 R273, R275; 13 R283, R287) -/

/-- The data pages of stripe t of a band and its XOR page, over the group's live dies. -/
def State.stripePages (s : State) (g b t : Nat) : Option (List Nat × Nat) :=
  let ds := s.liveDies g
  match ds[t % ds.length]? with
  | some x => some ((ds.filter (· != x)).map fun d => s.stripePage d b t, s.stripePage x b t)
  | none => none

/-- A unit of a tile namespace's data: it is written with the others of its map unit, one after the other (13 R283). -/
def State.inTile (s : State) (b : BufUnit) : Bool := b.kind == .unit && s.nsIsTile b.nsid.toNat

/-- Both belong to one map unit of a tile namespace. -/
def BufUnit.together (a b : BufUnit) : Bool := a.nsid = b.nsid && a.unit.toNat / 256 = b.unit.toNat / 256

/-- The rest of the map unit that a band's last stripe broke off. -/
def Band.rest (v : Band) (us : List BufUnit) : List BufUnit :=
  match v.carry with
  | some (n, u) =>
    let l := us.filter fun x => x.kind == .unit && x.nsid.toNat = n && u ≤ x.unit.toNat && x.unit.toNat / 256 = u / 256
    if l.length = 256 - u % 256 && us.all (fun x => !(x.kind == .unit && x.nsid.toNat = n && x.unit.toNat = u / 256 * 256)) then l else []
  | none => []

/-- The units that the next stripe of a band takes, in order, with at least room of them where there are: first the rest of a map unit, then
units as they wait; a map unit of a tile namespace only whole, and only where it ends within the band. -/
def State.nextUnits (s : State) (v : Band) (us : List BufUnit) (room : Nat) : List BufUnit :=
  let left := (stripesPerBand - v.next) * room
  us.foldl (fun acc x =>
    if room ≤ acc.length || acc.contains x then acc
    else if s.inTile x then
      let l := us.filter (BufUnit.together x)
      if x.unit.toNat % 256 = 0 && l.length = 256 && acc.length + 256 ≤ left then acc ++ l else acc
    else acc ++ [x]) (v.rest us)

/-- Units that may go into group g: a group below RECLAIM_LO takes only what reclaim, refresh and relocation move, and metadata (13 R297);
a flush takes all (13 Table 13-5). -/
def State.gatherable (s : State) (g : Nat) (k : Stream) (flush : Bool) : List BufUnit :=
  (s.loose k).filter fun x => flush || x.moved || x.kind != .unit || !s.groupLow g

/-- The band moves on to its next stripe, which took the units us of room; a full one is closed. -/
def State.stepBand (s : State) (b : Nat) (k : Stream) (us : List BufUnit) (room : Nat) : State :=
  let v := s.bandAt b
  let carry := us.getLast?.bind fun x =>
    if s.inTile x && x.unit.toNat % 256 ≠ 255 then some (x.nsid.toNat, x.unit.toNat + 1) else none
  let w : Band := { v with cls := k.getD .warm, isMeta := k.isNone, next := v.next + 1, units := v.units + room, carry := carry }
  if v.next + 1 ≥ stripesPerBand then
    { s.setBand b { w with state := .closed, stamp := s.bandStamp } with bandStamp := s.bandStamp + 1 }
  else s.setBand b { w with state := .opened }

/-- Put the units on the pages, four codewords a page. -/
def spread (pages : List Nat) (us : List BufUnit) : List (Nat × Fin 4 × BufUnit) :=
  us.zipIdx.map fun x =>
    (pages.getD (x.2 / 4) 0, ⟨x.2 % 4, Nat.mod_lt _ (by decide)⟩, x.1)

/-- An open band in whose rest no waiting map unit fits is closed. -/
def State.closeShort (s : State) (g : Nat) (k : Stream) (flush : Bool) : State :=
  match s.openBand g k with
  | none => s
  | some b =>
    let v := s.bandAt b
    let us := s.gatherable g k flush
    if v.state == .opened && !us.isEmpty && (s.nextUnits v us (4 * ((s.liveDies g).length - 1))).isEmpty then s.closeBand b else s

/-- Gather a stripe of a stream in group g: fewer units than its data pages hold are padded when flush says so. -/
def State.gather (s : State) (g : Nat) (k : Stream) (flush : Bool) : Option (State × Stripe) :=
  match s.openBand g k with
  | none => none
  | some b =>
    let v := s.bandAt b
    match s.stripePages g b v.next with
    | none => none
    | some (data, x) =>
      let room := 4 * data.length
      let us := (s.nextUnits v (s.gatherable g k flush) room).take room
      if us.isEmpty || room = 0 || (us.length < room && !flush) then none
      else
        let t : Stripe :=
          { group := ⟨g % 30, Nat.mod_lt _ (by decide)⟩, band := b, first := v.units, pages := x :: data, pending := x :: data
            units := spread data us, failed := false }
        some (s.stepBand b k us room, t)

def xorAll (us : List Unit4K) : Unit4K := us.foldl (· ^^^ ·) 0

/-- Key generation of the namespace that a unit belongs to; metadata is not encrypted (19 R439). -/
def State.unitKeyGen (s : State) (b : BufUnit) : Nat :=
  if b.kind == .unit then match s.ns b.nsid.toNat with
    | some v => v.key
    | none => 0
  else 0

/-- A data codeword of a stripe before scrambling (12 R265). -/
def State.dataWord (s : State) (t : Stripe) (page : Nat) (c : Fin 4) : BitVec 34560 :=
  match t.units.find? fun x => x.1 = page && x.2.1 == c with
  | some x =>
    let b := x.2.2
    cwWord (if b.kind == .unit then Config.xts (s.unitKeyGen b) b.unit.toNat b.data else b.data) (Config.ftlMeta b.nsid.toNat b.unit.toNat)
  | none => cwWord 0 (Config.ftlMeta 0 0)

/-- What codeword c of a page of the stripe holds. The XOR page is the first of the stripe's pages: each of its codewords is the XOR of the
data pages' codewords with metadata and parity, before scrambling (12 R273). -/
def State.cwOf (s : State) (t : Stripe) (page : Nat) (c : Fin 4) : CodeWord :=
  let k := cwKey page c.val
  if t.pages.head? = some page then
    { owner := none, data := xorAll ((t.units.filter fun x => x.2.1 == c).map fun x => x.2.2.data), key := 0, width := t.pages.length
      media := scrambled k (xorWords (t.pages.tail.map fun p => s.dataWord t p c)), bad := false }
  else
    let seq := t.first + 4 * (t.pages.tail.idxOf page) + c.val
    match t.units.find? fun x => x.1 = page && x.2.1 == c with
    | some x =>
      let b := x.2.2
      { kind := b.kind, owner := some (b.nsid, b.unit), data := b.data, key := s.unitKeyGen b, lost := b.lost, seq := seq
        width := t.pages.length, media := scrambled k (s.dataWord t page c), bad := false }
    | none =>
      { owner := none, data := 0, key := 0, seq := seq, width := t.pages.length, media := scrambled k (s.dataWord t page c), bad := false }

/-- The page's codewords hold the stripe's data. -/
def State.programPage (s : State) (t : Stripe) (page : Nat) : State :=
  (List.finRange 4).foldl (fun (u : State) c => u.setCw (cwKey page c.val) (some (s.cwOf t page c))) s

/-- One unit of a stripe has programmed: it leaves the buffer, and the map or the directory of map pages names its codeword; a unit of a tile
namespace stays until its map unit is whole. A unit that was superseded in the buffer meanwhile stays there. -/
def State.finishUnit (s : State) (x : Nat × Fin 4 × BufUnit) : State :=
  let b := x.2.2
  let k := cwKey x.1 x.2.1.val
  if !s.buffer.contains b then s
  else if s.inTile b then
    { s with buffer := s.buffer.map fun y => if y = b then { y with place := some k } else y }
  else
    let t := { s with buffer := s.buffer.erase b }
    match b.kind with
    | .unit => t.setMap b.nsid.toNat b.unit.toNat (mapEntry b.cls (k * 8))
    | .mapPage => t.pageSaved (b.nsid.toNat * 2 ^ 29 + b.unit.toNat) k b.data
    | .journal => t

/-- The units of a map unit lie one after the other in one band. -/
def State.inOrder (s : State) (l : List BufUnit) : Bool :=
  match (l.head?.bind (·.place)) with
  | some k0 => l.zipIdx.all fun x => match x.1.place with
    | some k => s.cwAfter k0 x.2 = some k
    | none => false
  | none => false

/-- A map unit of a tile namespace with programmed units: whole and in order, it leaves the buffer and its entry names the first unit; where
that can no longer come about, since a stripe failed or its band closed, its units are written again. -/
def State.settleTile (s : State) (b : BufUnit) : State :=
  let l := s.buffer.filter fun x => s.inTile x && x.together b
  let again : State := { s with buffer := s.buffer.map fun x => if s.inTile x && x.together b then { x with place := none } else x }
  if l.all fun x => x.place.isSome then
    if l.length = 256 && s.inOrder l then
      match l.head?.bind (·.place) with
      | some k => { s with buffer := s.buffer.filter fun x => !(s.inTile x && x.together b) }.setMap b.nsid.toNat b.unit.toNat
          (mapEntry b.cls (k * 8))
      | none => again
    else again
  else
    let carried := s.bands.any fun e => e.2.state == .opened && match e.2.carry with
      | some (n, u) => n = b.nsid.toNat && u / 256 = b.unit.toNat / 256
      | none => false
    if !carried && l.any fun x => (s.loose (some x.cls)).contains x then again else s

/-- The map units of tile namespaces of which something is programmed. -/
def State.settleTiles (s : State) : State :=
  (s.buffer.filter fun b => b.place.isSome).foldl (fun (t : State) b =>
    if t.buffer.any fun x => x.place.isSome && x.together b then t.settleTile b else t) s

/-- Every page of a stripe has programmed. -/
def State.finishStripe (s : State) (t : Stripe) : State := (t.units.foldl State.finishUnit s).settleTiles

/-- A stripe whose pages have all programmed is finished. -/
def State.settleStripes (s : State) : State :=
  let full := s.stripes.filter fun t => t.pending.isEmpty
  if full.isEmpty then s
  else (full.foldl (fun (u : State) t => if t.failed then u else u.finishStripe t)
    { s with stripes := s.stripes.filter fun t => !t.pending.isEmpty }).checkSpare

/-- Program a stripe as a whole, without the dies' timing: the flush of 13 R303. -/
def State.flushStripe (s : State) (g : Nat) (k : Stream) : Option State :=
  ((s.closeShort g k true).gather g k true).map fun r => (r.2.pages.foldl (fun (u : State) p => u.programPage r.2 p) r.1).finishStripe r.2

end Sys2Proof.Machine
end

