-- ==== Sys2Proof/Machine/Vector.lean ====
section
/-! DEFINITION. Vector and predicate instructions (03 R70, R71, R91 to R97, R509). -/

namespace Sys2Proof.Machine

open Sys2Proof

/-- One element of n bits of a VINT operation (03 Table 3-11, R509). -/
def vintElem (op : VIntOp) (n a b : Nat) : Nat :=
  let sh := b % n
  let lo : Int := -(2 ^ (n - 1) : Nat)
  let hi : Int := (2 ^ (n - 1) : Nat) - 1
  let sat (i : Int) : Nat := unsigned n (if i < lo then lo else if hi < i then hi else i)
  match op with
  | .vadd => (a + b) % 2 ^ n
  | .vsub => (a + 2 ^ n - b) % 2 ^ n
  | .vmul => a * b % 2 ^ n
  | .vand => a &&& b
  | .vor => a ||| b
  | .vxor => a ^^^ b
  | .vsll => a * 2 ^ sh % 2 ^ n
  | .vsrl => a / 2 ^ sh
  | .vsra => unsigned n (signed n a / (2 ^ sh : Nat))
  | .vmin => if signed n a < signed n b then a else b
  | .vmax => if signed n a < signed n b then b else a
  | .vminu => if a < b then a else b
  | .vmaxu => if a < b then b else a
  | .vaddsat => sat (signed n a + signed n b)
  | .vsubsat => sat (signed n a - signed n b)
  | .vpopc => popCount n a

/-- One FP32 element of a VFP operation; d is the element of vd (03 Table 3-12). -/
def vfpElem (op : VFpOp) (a b d : Nat) : Nat :=
  match op with
  | .vfadd => fadd a b
  | .vfsub => fsub a b
  | .vfmul => fmul a b
  | .vfma => ffma a b d
  | .vfmin => fmin a b
  | .vfmax => fmax a b
  | .vfabs => a % 2 ^ 31
  | .vfneg => (a + 2 ^ 31) % 2 ^ 32

/-- A comparison of elements of n bits (03 R93). -/
def cmpElem (op : CmpOp) (n a b : Nat) : Bool :=
  let x := f32Of a
  let y := f32Of b
  match op with
  | .eq => a = b
  | .ne => a ≠ b
  | .lt => signed n a < signed n b
  | .le => signed n a ≤ signed n b
  | .ltu => a < b
  | .leu => a ≤ b
  | .feq => !(x.isNan || y.isNan || x.lt y || y.lt x)
  | .flt => x.lt y
  | .fle => !(x.isNan || y.isNan || y.lt x)
  | .funord => x.isNan || y.isNan

/-- Exact widening of an FP16 value; a NaN keeps its sign and payload (03 Table 3-13; log 24). -/
def widenF16 (x : Nat) : Nat :=
  match decodeIeee 5 10 x with
  | .nan => x / 2 ^ 15 % 2 * 2 ^ 31 + 0xFF * 2 ^ 23 + x % 2 ^ 10 * 2 ^ 13
  | v => f32Bits v

/-- The register a conversion writes (03 R92, Table 3-13): va is the source, old the destination's previous value, act says
which destination elements are active, z whether inactive ones are zeroed. -/
def cvtResult (op : CvtOp) (h : Bool) (va old : Slot) (act : Nat → Nat → Bool) (z : Bool) : Slot :=
  let half := if h then 16 else 0
  let narrow (f : Nat → Nat) : Slot := ofElems 2 fun e =>
    if half ≤ e && e < half + 16 then
      (if act 2 e then f (elem va 4 (e - half)) else if z then 0 else elem old 2 e)
    else elem old 2 e
  let wide (f : Nat → Nat) : Slot := ofElems 4 fun e =>
    if act 4 e then f e else if z then 0 else elem old 4 e
  match op with
  | .f32bf16 => narrow fun x => encodeIeee 8 7 (f32Of x)
  | .f32f16 => narrow fun x => encodeIeee 5 10 (f32Of x)
  | .bf16f32 => wide fun e => elem va 2 (half + e) * 2 ^ 16
  | .f16f32 => wide fun e => widenF16 (elem va 2 (half + e))
  | .f32i32 => wide fun e => unsigned 32 ((f32Of (elem va 4 e)).toInt 32)
  | .i32f32 => wide fun e => f32Bits (.ofInt (signed 32 (elem va 4 e)))

/-- A reduction over the active elements, n bits each (03 R95). -/
def redResult (op : RedOp) (n : Nat) (xs : List Nat) (tree : List Nat) : Word :=
  let lo : Int := -(2 ^ (n - 1) : Nat)
  let hi : Int := (2 ^ (n - 1) : Nat) - 1
  match op with
  | .sum => BitVec.ofInt 64 (xs.foldl (fun a x => a + signed n x) 0)
  | .max => BitVec.ofInt 64 (xs.foldl (fun a x => if a < signed n x then signed n x else a) lo)
  | .min => BitVec.ofInt 64 (xs.foldl (fun a x => if signed n x < a then signed n x else a) hi)
  | .maxu => BitVec.ofNat 64 (xs.foldl (fun a x => if a < x then x else a) 0)
  | .minu => BitVec.ofNat 64 (xs.foldl (fun a x => if x < a then x else a) (2 ^ n - 1))
  | .fsum =>
    let pair (l : List Nat) (m : Nat) : List Nat :=
      (List.range m).map fun i => fadd (l.getD (2 * i) 0) (l.getD (2 * i + 1) 0)
    BitVec.ofNat 64 ((pair (pair (pair (pair tree 8) 4) 2) 1).getD 0 0)
  | .fmax => BitVec.ofNat 64 (xs.foldl fmax 0xFF800000)

def execVint (c : CoreId) (op : VIntOp) (sz : ESz) (vd va vb : BitVec 4) (pr : Pred) (s : State) : Result :=
  s.issueReg c 4 (Instr.wellFormed (.vint c op sz vd va vb pr)) ([.v va, .v vb] ++ predSources pr vd) [.v vd] fun k =>
    let w := esz sz
    k.setV vd (k.merge pr w (k.vreg vd) fun e => vintElem op (8 * w) (elem (k.vreg va) w e) (elem (k.vreg vb) w e))

def execVfp (c : CoreId) (op : VFpOp) (vd va vb : BitVec 4) (pr : Pred) (s : State) : Result :=
  s.issueReg c 4 (Instr.wellFormed (.vfp c op vd va vb pr))
    ([.v va, .v vb] ++ (if op = .vfma then [.v vd] else []) ++ predSources pr vd) [.v vd] fun k =>
    k.setV vd (k.merge pr 4 (k.vreg vd) fun e =>
      vfpElem op (elem (k.vreg va) 4 e) (elem (k.vreg vb) 4 e) (elem (k.vreg vd) 4 e))

def execVcvt (c : CoreId) (op : CvtOp) (h : Bool) (vd va : BitVec 4) (pr : Pred) (s : State) : Result :=
  s.issueReg c 4 (Instr.wellFormed (.vcvt c op h vd va pr))
    ([.v va] ++ (if op = .f32bf16 ∨ op = .f32f16 then [.v vd] else []) ++ predSources pr vd) [.v vd] fun k =>
    k.setV vd (cvtResult op h (k.vreg va) (k.vreg vd) (fun w e => k.active pr.p pr.pg w e) pr.z)

/-- The predicate a comparison writes (03 R93): every bit of an active element's lanes is the result, other bits 0. -/
def cmpResult (w : Nat) (f : Nat → Bool) : Word :=
  BitVec.ofNat 64 ((List.range (64 / w)).foldl (fun x e => if f e then x + (2 ^ w - 1) * 2 ^ (w * e) else x) 0)

def execVcmp (c : CoreId) (op : CmpOp) (sz : ESz) (pd : BitVec 3) (va vb : BitVec 4) (pr : Pred) (s : State) : Result :=
  s.issueReg c 4 (Instr.wellFormed (.vcmp c op sz pd va vb pr))
    ([.v va, .v vb] ++ (if pr.p then [.p pr.pg] else [])) [.p pd] fun k =>
    let w := esz sz
    k.setP pd (cmpResult w fun e => k.active pr.p pr.pg w e && cmpElem op (8 * w) (elem (k.vreg va) w e) (elem (k.vreg vb) w e))

def execVbcast (c : CoreId) (sz : ESz) (rs : BitVec 5) (vx : BitVec 4) (p : Bool) (pg : BitVec 3) (s : State) : Result :=
  s.issueReg c 4 true ([.s rs] ++ (if p then [.p pg, .v vx] else [])) [.v vx] fun k =>
    let w := esz sz
    k.setV vx (k.merge ⟨p, pg, false⟩ w (k.vreg vx) fun _ => (k.sreg rs).toNat % 2 ^ (8 * w))

def execVextr (c : CoreId) (sz : ESz) (rs : BitVec 5) (vx : BitVec 4) (s : State) : Result :=
  s.issueReg c 4 true [.s rs, .v vx] [.s rs] fun k =>
    let w := esz sz
    k.setS rs (BitVec.ofNat 64 (elem (k.vreg vx) w ((k.sreg rs).toNat % (64 / w))))

def execVred (c : CoreId) (op : RedOp) (sz : ESz) (rs : BitVec 5) (vx : BitVec 4) (p : Bool) (pg : BitVec 3) (s : State) :
    Result :=
  s.issueReg c 4 (Instr.wellFormed (.vred c op sz rs vx p pg)) ([.v vx] ++ (if p then [.p pg] else [])) [.s rs] fun k =>
    let w := esz sz
    let es := List.range (64 / w)
    k.setS rs (redResult op (8 * w) ((es.filter fun e => k.active p pg w e).map fun e => elem (k.vreg vx) w e)
      (es.map fun e => if k.active p pg w e then elem (k.vreg vx) w e else 0))

def execVperm (c : CoreId) (vd va vb : BitVec 4) (pr : Pred) (s : State) : Result :=
  s.issueReg c 4 true ([.v va, .v vb] ++ predSources pr vd) [.v vd] fun k =>
    k.setV vd (k.merge pr 1 (k.vreg vd) fun e =>
      let i := elem (k.vreg vb) 1 e
      if i ≥ 128 then 0 else elem (k.vreg va) 1 (i % 64))

/-- Registers a PRED operation reads and writes (03 R97). -/
def predRegs (op : PredOp) (rd ra rb : BitVec 5) : List Reg × List Reg :=
  match op with
  | .pand | .por | .pxor | .pandn => ([.p (pField ra), .p (pField rb)], [.p (pField rd)])
  | .pnot => ([.p (pField ra)], [.p (pField rd)])
  | .pfroms => ([.s ra], [.p (pField rd)])
  | .stop | .pcnt | .pfirst => ([.p (pField ra)], [.s rd])

/-- 03 R97. -/
def predApply (op : PredOp) (rd ra rb : BitVec 5) (k : Core) : Core :=
  let a := k.preg (pField ra)
  let b := k.preg (pField rb)
  match op with
  | .pand => k.setP (pField rd) (a &&& b)
  | .por => k.setP (pField rd) (a ||| b)
  | .pxor => k.setP (pField rd) (a ^^^ b)
  | .pandn => k.setP (pField rd) (a &&& ~~~b)
  | .pnot => k.setP (pField rd) (~~~a)
  | .pfroms => k.setP (pField rd) (k.sreg ra)
  | .stop => k.setS rd a
  | .pcnt => k.setS rd (BitVec.ofNat 64 (popCount 64 a.toNat))
  | .pfirst => k.setS rd (BitVec.ofNat 64 (ctz64 a.toNat))

def execPred (c : CoreId) (op : PredOp) (rd ra rb : BitVec 5) (s : State) : Result :=
  s.issueReg c 4 (Instr.wellFormed (.pred c op rd ra rb)) (predRegs op rd ra rb).1 (predRegs op rd ra rb).2
    (predApply op rd ra rb)

end Sys2Proof.Machine
end

