-- ==== Sys2Proof/Machine/Search.lean ====
section
/-! DEFINITION. Sketch distance, product-code sums, filter tests and the candidate queue (04 R103 to R110). -/

namespace Sys2Proof.Machine

open Sys2Proof

/-- Sketch widths (04 R103). -/
def skWidth (width : BitVec 2) : Nat :=
  match width.toNat with
  | 0 => 16
  | 1 => 128
  | 2 => 256
  | _ => 512

/-- 04 R103. -/
def skdistResult (acc : Bool) (w : Nat) (va vb old : Slot) : Slot :=
  let q := va.toNat % 2 ^ w
  ofElems 2 fun e =>
    if e < 512 / w then
      let d := popCount w (q ^^^ (vb.toNat / 2 ^ (e * w) % 2 ^ w))
      if acc then min (elem old 2 e + d) 0xFFFF else d
    else if acc then elem old 2 e else 0

def execSkdist (c : CoreId) (acc : Bool) (width : BitVec 2) (vd va vb : BitVec 4) (s : State) : Result :=
  s.issueReg c 4 true ([.v va, .v vb] ++ (if acc then [.v vd] else [])) [.v vd] fun k =>
    k.setV vd (skdistResult acc (skWidth width) (k.vreg va) (k.vreg vb) (k.vreg vd))

/-- Table bytes read one by one, with the state the reads leave and the code words that failed. -/
def readTable (s : State) (b : Nat) : List Nat → Got
  | [] => ⟨s, [], []⟩
  | o :: os =>
    let g := s.readMem (b + o) 1
    let rest := readTable g.st b os
    ⟨rest.st, g.data ++ rest.data, g.ues ++ rest.ues⟩

/-- 04 R104: the offsets of the table bytes of the 64 codes, in order. -/
def pqOffsets (g m0 : Nat) (va : Slot) : List Nat :=
  (List.range 64).map fun i => (m0 + i % g) * 256 + elem va 1 i

/-- 04 R104: the sums of g codes each. -/
def pqResult (acc : Bool) (g : Nat) (t : List Byte) (old : Slot) : Slot :=
  ofElems 2 fun k =>
    if k < 64 / g then
      let sum := ((List.range g).map fun j => (t.getD (k * g + j) 0).toNat).foldl (· + ·) 0
      if acc then min (elem old 2 k + sum) 0xFFFF else sum
    else if acc then elem old 2 k else 0

/-- The range [a, a + n) lies in the data memory of core k. -/
def inOwnData (k : Fin 128) (a n : Nat) : Bool := imemBase k.val + 0x4000 ≤ a && a + n ≤ imemBase k.val + 0x10000

/-- 04 R104. An uncorrectable table byte is a machine check whose address is the table base as R104 gives it for its other exceptions
(log 96). -/
def execPqsum (c : CoreId) (acc : Bool) (group : BitVec 2) (vd va : BitVec 4) (rs : BitVec 5) (s : State) : Result :=
  s.issue c 4 true ([.v va, .s rs] ++ (if acc then [.v vd] else [])) [.v vd] fun t k =>
    let g := 8 * 2 ^ group.toNat
    let base := bits (k.sreg rs) 31 0
    let m0 := bits (k.sreg rs) 38 32
    let a := t.ownView c.cl base
    if base % 256 ≠ 0 then .exc 0x04 (some a)
    else if !inOwnData c.k base ((m0 + g) * 256) then .exc 0x03 (some a)
    else
      let lo := clusterAddr c.cl base
      if k.stores.any (fun u => lo < u.addr + 64 && u.addr < lo + (m0 + g) * 256) then .wait
      else
        let r := readTable t lo (pqOffsets g m0 (k.vreg va))
        if r.ues.isEmpty then .go (r.st.setCore c (k.setV vd (pqResult acc g r.data (k.vreg vd))))
        else .check r.st (some a)

/-- One term of a filter (04 Table 4-4): none when absent. -/
def filterTerm (code x v : Nat) : Option Bool :=
  match code with
  | 0 => none
  | 1 => some (x = v)
  | 2 => some (x ≠ v)
  | 3 => some (x < v)
  | 4 => some (x ≤ v)
  | 5 => some (v < x)
  | 6 => some (v ≤ x)
  | _ => some false

/-- 04 R106: combined with AND or OR; no present term passes. -/
def filterPass (anyOf : Bool) (ts : List (Option Bool)) : Bool :=
  let present := ts.filterMap id
  present.isEmpty || if anyOf then present.any id else present.all id

/-- The terms of a filter on a word: masks and values alternate (04 R106). -/
def filterTerms (ctl word : Nat) (mv : Nat → Nat) : List (Option Bool) :=
  (List.range 4).map fun t => filterTerm (ctl / 2 ^ (4 * t) % 16) (word &&& mv (2 * t)) (mv (2 * t + 1))

def execFtest (c : CoreId) (rd ra rb : BitVec 5) (vx : BitVec 4) (s : State) : Result :=
  s.issueReg c 4 true [.s ra, .s rb, .v vx] [.s rd] fun k =>
    let ctl := (k.sreg rb).toNat
    k.setS rd (if filterPass (ctl.testBit 16) (filterTerms ctl (k.sreg ra).toNat fun i => elem (k.vreg vx) 8 i) then 1 else 0)

/-! ### The candidate queue (04 R107) -/

/-- NONE. -/
def cqNone : Word := BitVec.allOnes 64

/-- Insert in ascending unsigned order. -/
def cqInsert (e : Word) : List Word → List Word
  | [] => [e]
  | x :: q => if e.toNat < x.toNat then e :: x :: q else x :: cqInsert e q

/-- CQINS: the queue after it and the status (04 R108). -/
def cqIns (q : List Word) (e : Word) : List Word × Nat :=
  if e = cqNone then (q, 2)
  else match q.find? fun x => bits x 39 0 = bits e 39 0 with
    | some x => (if e.toNat < x.toNat then cqInsert e (q.erase x) else q, 3)
    | none =>
      if q.length < 64 then (cqInsert e q, 0)
      else match q.getLast? with
        | some m => if e.toNat < m.toNat then (cqInsert e q.dropLast, 1) else (q, 2)
        | none => (q, 2)

/-- CQMERGE: insert in ascending order until one returns 2; counts those that returned 0 or 1 (04 R109). -/
def cqMerge : List Word → List Word → Nat → List Word × Nat
  | q, [], n => (q, n)
  | q, e :: es, n =>
    let r := cqIns q e
    if r.2 = 2 then (q, n) else cqMerge r.1 es (if r.2 = 3 then n else n + 1)

/-- The queue as it stood before every operation of the cycle named (04 R109). -/
def Core.cqBefore (k : Core) (cycle : Nat) : List Word :=
  match k.cqWas with
  | some (n, q) => if n = cycle then q else k.cq
  | none => k.cq

/-- The queue takes new contents in a cycle. -/
def Core.setCq (k : Core) (cycle : Nat) (q : List Word) : Core :=
  { k with cq := q, cqWas := some (cycle, k.cqBefore cycle) }

def execCqins (c : CoreId) (rd ra : BitVec 5) (s : State) : Result :=
  s.issueReg c 4 true [.s ra] [.s rd] fun k =>
    let r := cqIns k.cq (k.sreg ra)
    (k.setCq s.cycle r.1).setS rd (BitVec.ofNat 64 r.2)

def execCqpop (c : CoreId) (rd : BitVec 5) (s : State) : Result :=
  s.issueReg c 4 true [] [.s rd] fun k => (k.setCq s.cycle k.cq.tail).setS rd (k.cq.headD cqNone)

def execCqpeek (c : CoreId) (rd : BitVec 5) (s : State) : Result :=
  s.issueReg c 4 true [] [.s rd] fun k => k.setS rd (k.cq.headD cqNone)

def execCqmax (c : CoreId) (rd : BitVec 5) (s : State) : Result :=
  s.issueReg c 4 true [] [.s rd] fun k => k.setS rd (k.cq.getLastD cqNone)

def execCqbound (c : CoreId) (rd : BitVec 5) (s : State) : Result :=
  s.issueReg c 4 true [] [.s rd] fun k => k.setS rd (if k.cq.length = 64 then k.cq.getLastD cqNone else cqNone)

def execCqcnt (c : CoreId) (rd : BitVec 5) (s : State) : Result :=
  s.issueReg c 4 true [] [.s rd] fun k => k.setS rd (BitVec.ofNat 64 k.cq.length)

def execCqclr (c : CoreId) (s : State) : Result :=
  s.issueReg c 4 true [] [] fun k => k.setCq s.cycle []

/-- CQMERGE of core n's queue: the snapshot is the queue before every operation of this cycle (04 R109). -/
def execCqmerge (c : CoreId) (rd ra : BitVec 5) (s : State) : Result :=
  s.issue c 4 true [.s ra] [.s rd] fun t k =>
    let n : Fin 128 := ⟨bits (k.sreg ra) 6 0 % 128, Nat.mod_lt _ (by decide)⟩
    if n = c.k then .go (t.setCore c (k.setS rd 0))
    else
      let r := cqMerge k.cq ((t.core ⟨c.cl, n⟩).cqBefore t.cycle) 0
      .go (t.setCore c ((k.setCq t.cycle r.1).setS rd (BitVec.ofNat 64 r.2)))

/-- The eight slots CQSTORE writes (04 R110). -/
def cqSlots (q : List Word) : List Slot :=
  (List.range 8).map fun i => ofElems 8 fun e => (q.getD (8 * i + e) cqNone).toNat

/-- The eight slots enter the store buffer as eight stores, when it has room for all of them; the spec names no number of entries
(log 93). -/
def execCqstore (c : CoreId) (rd ra : BitVec 5) (s : State) : Result :=
  s.issue c 4 true [.s ra] [.s rd] fun t k =>
    let a := (k.sreg ra).toNat
    let ea := t.ownView c.cl (a % 2 ^ 32)
    if a ≥ 2 ^ 32 || (rangeMem a 512).isNone then .exc 0x03 (some ea)
    else if a % 64 ≠ 0 then .exc 0x04 (some ea)
    else if touchesImem a 512 then .exc 0x05 (some ea)
    else if k.stores.length + 8 > 16 || k.fullFenced then .wait
    else
      let t1 := (cqSlots k.cq).zipIdx.foldl
        (fun u d => u.pushStore c (clusterAddr c.cl (a + 64 * d.2)) d.1 (BitVec.allOnes 64)) t
      .go (t1.updCore c fun k => k.setS rd (BitVec.ofNat 64 k.cq.length))

end Sys2Proof.Machine
end

