-- ==== Sys2Proof/Machine/Praline.lean ====
section
/-! DEFINITION. The Praline units (14 R312, R313, R324 to R332): query contexts, what a page scan delivers, and the decoded units of index
reads on their way through the slots of a channel (12 R267). -/

namespace Sys2Proof.Machine

open Sys2Proof

/-! ### Index-read records (14 Table 14-6) -/

def ixOp (ws : List Word) : Nat := bits (word ws 0) 3 0
def ixCtx (ws : List Word) : Nat := bits (word ws 0) 15 4
def ixAddr (ws : List Word) : Nat := bits (word ws 1) 47 0
def ixUnit (ws : List Word) : Nat := bits (word ws 2) 59 24
def ixOffset (ws : List Word) : Nat := bits (word ws 2) 23 12
def ixLen (ws : List Word) : Nat := bits (word ws 2) 11 0 + 1

/-- Bytes at ADDR (14 Table 14-6). -/
def ixBytes (ws : List Word) : Nat :=
  match ixOp ws with
  | 0 => 256
  | 1 => 512
  | _ => ixLen ws

/-- The record names a context. -/
def ixNames (ws : List Word) : Bool := ixOp ws ≤ 1

/-! ### Contexts (14 R324) -/

def State.ctxBase (s : State) (p : Fin 12) : Nat := bits (SMap.get (fun _ => (0 : Word)) s.prlPart p.val) 11 0
def State.ctxCount (s : State) (p : Fin 12) : Nat := bits (SMap.get (fun _ => (0 : Word)) s.prlPart p.val) 28 16
def State.ctxLoaded (s : State) (n : Nat) : Bool := SMap.get (fun _ => false) s.ctxUp n
def State.ctxAt (s : State) (n : Nat) : BitVec 2048 := SMap.get (fun _ => (0 : BitVec 2048)) s.ctx n
def State.setCtxUp (s : State) (n : Nat) (v : Bool) : State := { s with ctxUp := SMap.set (fun _ => false) s.ctxUp n v }

/-- The number of the context a record names, where it is below its partition's count (14 R324). -/
def State.ixContext (s : State) (cl : Fin 32) (ws : List Word) : Option Nat :=
  (s.partOf cl).bind fun p => if ixCtx ws < s.ctxCount p then some (s.ctxBase p + ixCtx ws) else none

/-- Word i of a context image (14 Table 14-8). -/
def ctxWord (x : BitVec 2048) (i : Nat) : Nat := x.toNat / 2 ^ (64 * i) % 2 ^ 64

/-! ### PAGE_SCAN (14 R312, R313, R325) -/

/-- n bytes of a number from byte i on. -/
def part (v i n : Nat) : Nat := v / 2 ^ (8 * i) % 2 ^ (8 * n)

/-- Record i of a node page. -/
def nodeRec (u : Unit4K) (i : Nat) : Nat := part u.toNat (512 * i) 512
def recHdr (r : Nat) : Nat := part r 480 8
def recDeg (r : Nat) : Nat := recHdr r / 2 ^ 40 % 64
def recValid (r : Nat) : Bool := recHdr r / 2 ^ 48 % 2 = 1 && recDeg r ≤ 48
def recNode (r : Nat) : Nat := recHdr r % 2 ^ 40

/-- 04 Table 4-5. -/
def cqEntry (k n : Nat) : Word := BitVec.ofNat 64 (k % 2 ^ 24 * 2 ^ 40 + n % 2 ^ 40)

def ctxPass (x : BitVec 2048) (attr : Nat) : Bool :=
  let ctl := ctxWord x 24
  filterPass (ctl.testBit 16) (filterTerms ctl attr fun i => ctxWord x (16 + i))

/-- Sketch width of a context (14 Table 14-3). -/
def ctxWidth (x : BitVec 2048) : Nat := 128 * 2 ^ (ctxWord x 25 % 4)
def ctxSkMax (x : BitVec 2048) : Nat := ctxWord x 25 / 2 ^ 16 % 2 ^ 11
def ctxPfxMax (x : BitVec 2048) : Nat := ctxWord x 25 / 2 ^ 32 % 32
def ctxFmode (x : BitVec 2048) : Bool := ctxWord x 25 / 2 ^ 40 % 2 = 1

/-- What becomes of a record: 0 invalid, 1 dropped by the filter, 2 dropped by SK_MAX, 3 survives; and its distance. -/
def scanRecord (x : BitVec 2048) (r : Nat) : Nat × Nat :=
  let w := ctxWidth x
  let d := popCount w ((x.toNat % 2 ^ w) ^^^ (r % 2 ^ w))
  if !recValid r then (0, d)
  else if !ctxPass x (part r 464 8) then (1, d)
  else if ctxSkMax x < d then (2, d)
  else (3, d)

/-- Neighbour j of the expanded record: none when it is not one, else its prefix distance and node. -/
def scanNeighbour (x : BitVec 2048) (keep : Bool) (r j : Nat) : Option (Nat × Nat) :=
  if keep && j < recDeg r then
    some (popCount 16 ((x.toNat % 2 ^ 16) ^^^ part r (128 + 2 * j) 2), part r (224 + 5 * j) 5)
  else none

/-- The 64 words of 14 Table 14-9. -/
def scanWords (x : BitVec 2048) (u : Unit4K) (exp_ : Bool) (slot : Nat) : List Word :=
  let recs := (List.range 8).map (nodeRec u)
  let hits := recs.map fun r => (scanRecord x r, r)
  let e := nodeRec u slot
  let keep := exp_ && recValid e && (!ctxFmode x || ctxPass x (part e 464 8))
  hits.map (fun h => if h.1.1 = 3 then cqEntry h.1.2 (recNode h.2) else cqNone) ++
    (List.range 48).map (fun j => match scanNeighbour x keep e j with
      | some n => if n.1 ≤ ctxPfxMax x then cqEntry n.1 n.2 else cqNone
      | none => cqNone) ++
    hits.map fun h => if h.1.1 = 3 then BitVec.ofNat 64 (part h.2 472 8) else 0

/-- Records dropped by the filter and by SK_MAX, and neighbours dropped by PFX_MAX. -/
def scanDrops (x : BitVec 2048) (u : Unit4K) (exp_ : Bool) (slot : Nat) : Nat × Nat × Nat :=
  let hits := (List.range 8).map fun i => (scanRecord x (nodeRec u i)).1
  let e := nodeRec u slot
  let keep := exp_ && recValid e && (!ctxFmode x || ctxPass x (part e 464 8))
  ((hits.filter (· = 1)).length, (hits.filter (· = 2)).length,
    ((List.range 48).filter fun j => match scanNeighbour x keep e j with
      | some n => ctxPfxMax x < n.1
      | none => false).length)

/-- PRL_CNT(e) word w, and HUB_PCNT(p, 7 + w) (14 Table 14-13, 20 Table 20-2). -/
def State.prlCount (s : State) (p : Option (Fin 12)) (e w n : Nat) : State :=
  { s with prlCnt := SMap.upd (fun _ => (0 : Word)) s.prlCnt (e * 4 + w) (· + BitVec.ofNat 64 n) }.count p (7 + w) n

/-! ### Index reads: a decoded unit (14 R325, R327 to R330) -/

/-- Record id of a cluster's ring, while it executes. -/
def State.ixRecord (s : State) (e : Fin 32 × Nat) : Option IxExec := (s.cluster e.1).ixExec.find? fun x => x.id = e.2

def State.updIx (s : State) (e : Fin 32 × Nat) (f : IxExec → IxExec) : State :=
  s.updCluster e.1 fun c => { c with ixExec := c.ixExec.map fun x => if x.id = e.2 then f x else x }

/-- The unit of a record is decoded, or cannot be: UNIT_READ delivers bytes of it, PAGE_SCAN waits for a slot of the Praline unit of its
channel. It is the unit as it stands now (14 R331). -/
def State.ixDecoded (s : State) (ch : Fin 64) (e : Fin 32 × Nat) : State :=
  match s.ixRecord e with
  | none => s
  | some x =>
    let ws := x.words
    match s.readUnit x.nsid (ixUnit ws) with
    | none => s.updIx e fun x => { x with wait := none, status := 0x05 }
    | some u =>
      if ixOp ws = 1 then
        (s.updIx e fun x => { x with wait := some (.slot u) }).updChan ch fun c => { c with toPraline := c.toPraline ++ [e] }
      else
        s.updIx e fun x => { x with
          wait := none, out := ((unitBytes u).drop (ixOffset ws)).take (ixLen ws), count := ixLen ws / 64 }

/-- A codeword leaves the LDPC engine or a rebuild: the index reads that waited for it go on. -/
def State.deliverCw (s : State) (r : FlashRead) (d : Option Unit4K) : State :=
  r.ix.foldl (fun (t : State) e => t.ixDecoded (pageCh r.page) e) (s.emit (.codeword r.page r.cw d))

/-! ### The Praline unit (14 R325, R327, R332) -/

/-- A record's decoded unit passes the Praline unit e: with the context as it stands now. -/
def State.scanPage (s : State) (e : Nat) (x : Fin 32 × Nat) : State :=
  match s.ixRecord x with
  | none => s
  | some r =>
    match r.wait, s.ixContext x.1 r.words with
    | some (.slot u), some n =>
      let ctx := s.ctxAt n
      let ex := bit (word r.words 2) 3
      let slot := bits (word r.words 2) 2 0
      let d := scanDrops ctx u ex slot
      let p := s.partOf x.1
      let out := scanWords ctx u ex slot
      ((((s.prlCount p e 0 1).prlCount p e 1 d.1).prlCount p e 2 d.2.1).prlCount p e 3 d.2.2).updIx x fun y =>
        { y with wait := none, out := ofWords out, count := ((out.take 56).filter (· ≠ cqNone)).length }
    | _, _ => s.updIx x fun y => { y with wait := none, status := 0x04 }

/-- The record that enters a Praline slot: the slots are dealt as those of the LDPC engine (17 Table 17-3). -/
def State.pickPraline (s : State) (pos : Nat) (l : List (Fin 32 × Nat)) : Option (Fin 32 × Nat) :=
  let own := s.posOwner pos
  let first := l.find? fun x => s.partOf x.1 = own && own.isSome
  if s.arb.isolated then if own.isSome then first else l.find? fun x => (s.partOf x.1).isNone
  else first.or l.head?

/-- One decoded codeword of a channel's index reads enters the Praline unit. -/
def State.enterPraline (s : State) (ch : Fin 64) (pos : Nat) : State :=
  match s.pickPraline pos (s.chan ch).toPraline with
  | none => s
  | some x => (s.updChan ch fun c => { c with toPraline := c.toPraline.erase x }).scanPage (ch.val / 4) x

end Sys2Proof.Machine
end

