-- ==== Sys2Proof/Machine/Flash.lean ====
section
/-! DEFINITION. The flash media (12 R260 to R281, 17 R378): reads, suspensions, LDPC, recovery and rebuild, programs, erases,
scans, refresh and failures. -/

namespace Sys2Proof.Machine

open Sys2Proof

/-! ### Reads -/

/-- A page lies in a block that an operation of its die erases, or on the wordline it programs. -/
def DieOp.erases (o : DieOp) (page : Nat) : Bool :=
  match o.kind with
  | .program _ => false
  | .erase planes block => planes.getLsbD (pagePlane page).val && pageBlock page = block.val

def DieOp.programs (o : DieOp) (page : Nat) : Bool :=
  match o.kind with
  | .program ps => ps.contains page
  | .erase _ _ => false

/-- The operation is asked to suspend, unless it is held (12 R271). -/
def State.askSuspend (s : State) (d : DieId) (o : DieOp) : State :=
  if o.st == .running && !s.unsuspended d o then
    (s.updDie d fun x => { x with op := some { o with st := .suspending, suspAt := s.time } }).holdPolicy d
  else s

/-- A read that waits at the die before its sense begins, of the same codeword and for the same partition: with PRL_CTL.MERGE both share one
sense, one transfer and one LDPC pass (14 R329). -/
def State.mergeRead (s : State) (d : DieId) (r : FlashRead) : Option State :=
  if !s.prlMerge || r.part.isNone then none
  else ((s.die d).reads.find? fun x => x.page = r.page && x.cw = r.cw && x.part = r.part).map fun x =>
    s.updDie d fun y => { y with reads := y.reads.map fun z => if z = x then { z with ix := z.ix ++ r.ix } else z }

/-- A read reaches its die (12 R262, R271, R280, Table 12-6). -/
def State.dieRead (s : State) (r : FlashRead) : State :=
  let d := pageDie r.page
  if !s.dieThere d then s
  else if s.dieFailed d then s.toRebuild r
  else match s.mergeRead d r with
    | some t => t
    | none =>
      let s1 := s.updDie d fun x => { x with reads := x.reads ++ [r] }
      match (s.die d).op with
      | none => s1.startReads d
      | some o =>
        if o.erases r.page then s.log (.eraseBusyRead (faddr r.page r.cw.val))
        else if o.programs r.page then s
        else (s1.askSuspend d o).startReads d

def execDieRead (pg : PageAddr) (x : CwRead) (s : State) : Result :=
  .next (s.dieRead { page := pageKey pg, cw := x.cw, part := x.part })

/-- 12 R270. -/
def execSuspendEntered (d : DieId) (s : State) : Result :=
  match (s.die d).op with
  | some o =>
    if o.st == .suspending then
      .next ((s.updDie d fun x => { x with op := some { o with st := .suspended } }).startReads d)
    else .next s
  | none => .next s

/-- The suspended operation goes on (12 R271, R272). -/
def State.resumeOp (s : State) (d : DieId) (o : DieOp) : State :=
  (s.updDie d fun x => { x with op := some { o with st := .running, suspTot := o.suspTot + (s.time - o.suspAt) } }).holdPolicy d

/-- 12 R271: no read is left, or HOLD is set; the senses that run end first. -/
def execDieResume (d : DieId) (s : State) : Result :=
  match (s.die d).op with
  | some o =>
    let x := s.die d
    if o.st == .suspended && x.senses.isEmpty && (x.reads.isEmpty || s.unsuspended d o) && s.mayWork then
      .next (s.resumeOp d o)
    else .next s
  | none => .next s

/-- The sense on a plane ends and its codeword goes over the bus (12 R264, R266). -/
def execReadSenseComplete (d : DieId) (plane : Fin 4) (s : State) : Result :=
  match (s.die d).senses.find? fun x => x.1 == plane with
  | some (_, r) =>
    let s1 := s.updDie d fun x => { x with senses := x.senses.filter fun y => y.1 != plane }
    .next ((s1.updChan d.ch fun c => { c with toLdpc := c.toLdpc ++ [r] }).startReads d)
  | none => .next s

/-! ### LDPC and recovery -/

/-- The channel of an engine's present slot, and the slot's position in that channel's frame (12 R266, 17 Table 17-3). -/
def slotChannel (e : Fin 16) (n : Nat) : Fin 64 := ⟨(4 * e.val + n % 4) % 64, Nat.mod_lt _ (by decide)⟩
def slotPos (n : Nat) : Nat := n / 4 % 64

/-- The codeword that enters a slot: in isolated arbitration one of the partition that holds the slot, or of the hub's own work where none
does; in shared arbitration first one of that partition, then of other partitions, then of the hub's own work (17 Table 17-3). -/
def State.pickSlot (s : State) (pos : Nat) (l : List FlashRead) : Option FlashRead :=
  let own := s.posOwner pos
  let first := l.find? fun r => r.part = own && own.isSome
  if s.arb.isolated then if own.isSome then first else l.find? fun r => r.part.isNone
  else (first.or (l.find? fun r => r.part.isSome)).or l.head?

/-- Whole cluster cycles of one slot of 225 ns, at the step of 21 R478 in units of 50 MHz (log 108). -/
def Cluster.slotCycles (c : Cluster) : Nat := 45 * c.cur.toNat / 4

/-- n stall cycles in window w. -/
def Cluster.stall (c : Cluster) (w n : Nat) : Cluster :=
  if c.stallWin = w then { c with stalls := c.stalls + n }
  else { c with stalls := n, stallsWas := if c.stallWin + 1 = w then c.stalls else 0, stallWin := w }

/-- A slot that serves another partition beyond its share stalls the clusters of each partition within its share that waits at the channel
(17 R394). -/
def State.countStalls (s : State) (ch : Fin 64) (pos : Nat) (served : FlashRead) : State :=
  let used (p : Fin 12) : Nat := SMap.get (fun _ => 0) (s.chan ch).used p.val
  match served.part with
  | none => s
  | some q =>
    if s.arb.isolated || s.posOwner pos = some q || used q < s.fslot q then s
    else
      let waiting := ((s.chan ch).toLdpc.filter fun r => match r.part with
        | some p => p != q && used p < s.fslot p
        | none => false).flatMap fun r => r.ix.map (·.1)
      waiting.eraseDups.foldl (fun (t : State) cl =>
        (t.count (t.partOf cl) 18 (t.cluster cl).slotCycles).updCluster cl fun c => c.stall s.msWindow c.slotCycles) s

/-- One codeword of the slot's channel enters the engine; further decoding of another takes the slot first (12 R267). -/
def State.enterLdpc (s : State) (e : Fin 16) (n : Nat) : State :=
  let ch := slotChannel e n
  let pos := slotPos n
  let s1 := if pos = 0 then s.updChan ch fun c => { c with used := [] } else s
  if (s1.chan ch).busy ≠ 0 then s1.updChan ch fun c => { c with busy := c.busy - 1 }
  else match s1.pickSlot pos (s1.chan ch).toLdpc with
    | none => s1
    | some r =>
      let s2 := s1.countStalls ch pos r
      (s2.updChan ch fun c => { c with
        toLdpc := c.toLdpc.erase r
        used := match r.part with
          | some p => SMap.upd (fun _ => 0) c.used p.val (· + 1)
          | none => c.used }).updLdpcOf e fun l => { l with inflight := l.inflight ++ [r] }

/-- 12 R266, R267: a codeword may enter the LDPC engine, and a decoded codeword of an index read the Praline unit, whose slots run alike. -/
def execLdpcSlot (e : Fin 16) (s : State) : Result :=
  let n := (s.ldpcOf e).slot
  .next (((s.enterLdpc e n).enterPraline (slotChannel e n) (slotPos n)).updLdpcOf e fun l => { l with slot := (n + 1) % 256 })

/-- The read goes to recovery, and the bits found say whether its block is scheduled for refresh (12 R268, R278). -/
def execLdpcPassComplete (e : Fin 16) (bitErrors : Nat) (s : State) : Result :=
  let l := s.ldpcOf e
  match l.inflight with
  | [] => .next s
  | r :: rest =>
    let w := s.cwAt (cwKey r.page r.cw.val)
    if (w.map (·.bad)).getD false || hardLimit < bitErrors then
      .next (s.setLdpcOf e { l with inflight := rest, recover := l.recover ++ [(r, false)] })
    else
      let s1 := s.setLdpcOf e { l with inflight := rest }
      let s2 := if s.cbt ≤ bitErrors then s1.schedule (blockKey r.page) bitErrors else s1
      .next (s2.deliverCw r (w.map (·.data)))

/-- Steps 2 and 3 of 12 Table 12-4 re-read the page on its own die, which is asked to suspend what it runs. Step 2 takes up to seven re-reads,
step 3 two; each decode takes a later slot of the channel, and the block is scheduled for refresh. What no step corrects, and what lies on
a failed die, goes to a rebuild. -/
def execReadRecovery (pg : PageAddr) (cw : Fin 4) (ok : Bool) (s : State) : Result :=
  let page := pageKey pg
  let e := engineOf page
  let d := pg.die
  match (s.ldpcOf e).recover.find? fun x => x.1.page = page && x.1.cw = cw with
  | none => .next s
  | some (r, tried) =>
    let gone := s.updLdpcOf e fun l => { l with recover := l.recover.erase (r, tried) }
    if s.dieFailed d then .next (gone.toRebuild r)
    else if !s.canSense d then .next (match (s.die d).op with
      | some o => s.askSuspend d o
      | none => s)
    else if !(s.die d).planeFree pg.plane then .next s
    else
      let n := if tried then 2 else if ok then 1 + Config.freeNat s.freeCtr % 7 else 7
      let t := ((gone.drawn.addReads page n).schedule (blockKey page) (hardLimit + 1)).updChan d.ch fun c =>
        { c with busy := c.busy + n }
      let k := cwKey page cw.val
      if ok then .next (t.deliverCw r ((s.cwAt k).map (·.data)))
      else if !tried then .next (t.updLdpcOf e fun l => { l with recover := l.recover ++ [(r, true)] })
      else .next ((match s.cwAt k with
        | some w => t.setCw k (some { w with bad := true })
        | none => t).toRebuild r)

/-- 12 R273, R274: the other codewords of the stripe are read and XORed, and each of those reads counts. -/
def execCrossDieRebuildComplete (pg : PageAddr) (cw : Fin 4) (s : State) : Result :=
  let page := pageKey pg
  let e := engineOf page
  match (s.ldpcOf e).rebuild.find? fun x => x.page = page && x.cw = cw with
  | none => .next s
  | some r =>
    let k := cwKey page cw.val
    let t := (s.updLdpcOf e fun l => { l with rebuild := l.rebuild.erase r }).countRebuild k
    .next (t.deliverCw r (if s.cwRebuilt k then (s.cwAt k).map (·.data) else none))

/-! ### Programs -/

/-- Two pages of a die lie on one wordline of one band. -/
def State.sameLine (s : State) (p q : Nat) : Bool := s.bandOfPage p = s.bandOfPage q && p % 2 ^ 11 / 3 = q % 2 ^ 11 / 3

/-- A page joins the wordline program of its wordline that its die gathers. -/
def State.addPage (s : State) (page : Nat) : List (List Nat) → List (List Nat)
  | [] => [[page]]
  | w :: rest => if w.any (s.sameLine page) then (w ++ [page]) :: rest else w :: s.addPage page rest

/-- 12 R273: 31 data pages are gathered, and the 32 pages of the stripe wait for their dies' programs. -/
def execStripeProgram (g : Fin 30) (k : Option Class) (s : State) : Result :=
  if groupsOf s.variant ≤ g.val then .next s
  else
    let s0 := s.settleTiles.closeShort g.val k false
    match s0.gather g.val k false with
    | none => .next s0
    | some (s1, t) =>
      .next (t.pages.foldl (fun (u : State) p => u.updDie (pageDie p) fun x => { x with programs := s1.addPage p x.programs })
        { s1 with stripes := s1.stripes ++ [t] })

/-- The die is free for a program or erase: no read goes first (12 Table 12-6), and none is suspended on it. -/
def State.dieFree (s : State) (d : DieId) : Bool :=
  let x := s.die d
  x.op.isNone && x.senses.isEmpty && x.reads.isEmpty && s.dieThere d && !s.dieFailed d && s.mayWork

def newOp (k : DieOpKind) : DieOp := { kind := k, st := .running, suspAt := 0, suspTot := 0 }

/-- The pages of a wordline in those planes that have all three of theirs: one program (12 Table 12-1). -/
def wholePlanes (w : List Nat) : List Nat := w.filter fun p => (w.filter fun q => pagePlane q = pagePlane p).length = 3

/-- 12 R264: a gathered wordline program starts, in one to four planes. -/
def execDieProgram (d : DieId) (s : State) : Result :=
  match (s.die d).programs with
  | [] => .next s
  | w :: rest =>
    let now := wholePlanes w
    let left := w.filter fun p => !now.contains p
    if s.dieFree d && !now.isEmpty then
      .next ((s.updDie d fun x => { x with
        programs := if left.isEmpty then rest else left :: rest, op := some (newOp (.program now)) }).holdPolicy d)
    else .next s

/-- The operation has ended: HOLD is cleared and waiting reads start. -/
def State.endOp (s : State) (d : DieId) : State :=
  ((s.updDie d fun x => { x with op := none }).setHold d false).startReads d

/-- The stripe waits for these pages no longer. -/
def Stripe.done (t : Stripe) (pages : List Nat) : Stripe := { t with pending := t.pending.filter fun p => !pages.contains p }

/-- The pages have programmed. -/
def State.pagesDone (s : State) (pages : List Nat) : State :=
  let s1 := s.stripes.foldl (fun (u : State) t =>
    (t.pages.filter pages.contains).foldl (fun (v : State) p => v.programPage t p) u) s
  State.settleStripes { s1 with stripes := s1.stripes.map (Stripe.done · pages) }

/-- 12 R275. -/
def execProgramComplete (d : DieId) (ok : Bool) (s : State) : Result :=
  match (s.die d).op with
  | some o =>
    if o.st != .running then .next s
    else match o.kind with
      | .program pages =>
        let s1 := s.endOp d
        if ok then .next (s1.pagesDone pages)
        else .next ((pages.map blockKey).eraseDups.foldl State.retireBlock (s1.losePages pages))
      | .erase _ _ => .next s
  | none => .next s

/-! ### Erases -/

/-- A block that may be erased: its band is closed, and either the band holds no valid data, or the block was refreshed and holds none
itself (12 R278, 13 R296; log 26). -/
def State.erasable (s : State) (k : Nat) : Bool :=
  let b := s.bandOfPage (k * 2 ^ 11)
  (s.bandAt b).state == .closed && (s.validCws fun c => if (s.blockAt k).moved then c / 2 ^ 13 = k else s.bandOfPage (c / 4) = b).isEmpty

/-- The blocks of a die that an erase names. -/
def erasedBlocks (d : DieId) (planes : BitVec 4) (block : Nat) : List Nat :=
  ((List.range 4).filter fun p => planes.getLsbD p).map fun p => dieBlock d p block

/-- 12 R260: one block, or one block in each of up to four planes. -/
def execDieErase (d : DieId) (planes : BitVec 4) (block : Fin 2760) (s : State) : Result :=
  if planes ≠ 0 && s.dieFree d && (erasedBlocks d planes block.val).all s.erasable then
    .next ((s.updDie d fun x => { x with op := some (newOp (.erase planes block)) }).holdPolicy d)
  else .next s

/-- A band whose blocks on working dies are all erased is free, its bad blocks replaced, or out of use where one cannot be (12 R260, 13 R286,
R295). -/
def State.settleBand (s : State) (b : Nat) : State :=
  let v := s.bandAt b
  let held (k : Nat) : Bool := s.bandOfPage (k / 4) = b
  if v.state == .closed && s.cwords.all (fun e => !held e.1 || s.dieFailed (pageDie (e.1 / 4))) then
    let t := ({ s with cwords := s.cwords.filter fun e => !held e.1 }).setBand b
      { v with state := .free, next := 0, units := 0, carry := none, stamp := s.bandStamp, erases := v.erases + 1 }
    State.mendBand { t with bandStamp := s.bandStamp + 1 } b
  else s

/-- The blocks hold nothing and their counters start again (12 R276). -/
def State.eraseBlocks (s : State) (ks : List Nat) : State :=
  ks.foldl (fun (t : State) k => t.updBlock k fun b =>
      { b with reads := 0, scanned := 0, base := s.lossReads, refresh := none, moved := false })
    { s with cwords := s.cwords.filter fun e => !ks.contains (e.1 / 2 ^ 13) }

/-- 12 R275. -/
def execEraseComplete (d : DieId) (ok : Bool) (s : State) : Result :=
  match (s.die d).op with
  | some o =>
    if o.st != .running then .next s
    else match o.kind with
      | .erase _ _ =>
        let s1 := s.endOp d
        let s2 := if ok then s1.eraseBlocks (o.blocks d) else (o.blocks d).foldl State.retireBlock (s1.eraseBlocks (o.blocks d))
        .next (((o.blocks d).map fun k => s.bandOfPage (k * 2 ^ 11)).eraseDups.foldl State.settleBand s2)
      | .program _ => .next s
  | none => .next s

/-- 12 R272, Table 12-5. -/
def execSuspLimitReached (d : DieId) (s : State) : Result :=
  match (s.die d).op with
  | some o => .next (if o.st != .running && s.suspLimit ≤ s.suspended o then s.holdPolicy d else s)
  | none => .next s

/-- HUB_FCH_HOLD(c), by the management processors (12 Table 12-8). -/
def execHoldWrite (w : Requester) (ch : Fin 64) (v : Word) (s : State) : Result :=
  match w with
  | .mgmt => .next (s.updChan ch fun c => { c with hold := BitVec.ofNat 15 (bits v 14 0) })
  | _ => .next s

/-- 17 R378, R379: in isolated arbitration an operation runs in turns that no partition holds; it is asked to suspend 30 µs before
each of them ends, which overrides HOLD, and resumes in the next. Reads start as the turn allows. -/
def execDieTimeTurn (d : DieId) (s : State) : Result :=
  match (s.die d).op with
  | some o =>
    if !s.arb.isolated then .next s
    else if s.turnOpen then
      .next ((if o.st == .suspended && (s.die d).senses.isEmpty then s.resumeOp d o else s).startReads d)
    else if o.st == .running then
      .next (s.updDie d fun x => { x with op := some { o with st := .suspending, suspAt := s.time } })
    else .next (s.startReads d)
  | none => .next (s.startReads d)

/-! ### Read disturb -/

def State.readScan (s : State) : Nat := max 1 (bits s.rdCtl 63 32)

/-- 12 R277, R278: worst is the largest count of corrected bits among the SCAN_CW codewords read. -/
def execBlockScan (d : DieId) (plane : Fin 4) (block : Fin 2760) (worst : Nat) (s : State) : Result :=
  let k := dieBlock d plane.val block.val
  let b := s.blockAt k
  let m := (b.reads + s.lossReads - b.base).toNat / s.readScan
  if m > b.scanned && !s.dieFailed d then
    let s1 := s.updBlock k fun x => { x with reads := x.reads + BitVec.ofNat 32 (bits s.rdCtl 7 0), scanned := m }
    .next (if s.cbt ≤ worst then s1.schedule k worst else s1)
  else .next s

/-- 12 R278: the scheduled block with the highest count; its valid data goes through the buffer to a new block, and once none is left it may be
erased. -/
def execRefresh (d : DieId) (plane : Fin 4) (block : Fin 2760) (s : State) : Result :=
  let k := dieBlock d plane.val block.val
  match (s.blockAt k).refresh with
  | none => .next s
  | some n =>
    if s.blocks.any fun e => match e.2.refresh with
        | some m => n < m
        | none => false then .next s
    else
      let ks := s.validCws fun c => c / 2 ^ 13 = k
      let t := s.moveAll ks
      .next (if (t.validCws fun c => c / 2 ^ 13 = k).isEmpty then t.updBlock k fun b => { b with refresh := none, moved := true } else t)

/-! ### Failures (12 R279, R280) -/

def execDieStatusTimeout (d : DieId) (s : State) : Result := .next (s.failDie d)

def execBlockRetireLimit (d : DieId) (s : State) : Result :=
  .next (if (s.die d).retired > 64 then s.failDie d else s)

def execChannelTrainingFailed (ch : Fin 64) (s : State) : Result := .next (s.failChannel ch)

/-- 12 R280: the valid data of a page whose stripe has lost a die. -/
def execRelocation (pg : PageAddr) (s : State) : Result :=
  let page := pageKey pg
  let hit := (groupDies s.variant (groupOf s.variant pg.die)).any s.dieFailed
  .next (if hit then s.moveAll (s.validCws fun k => k / 4 = page) else s)

end Sys2Proof.Machine
end

