-- ==== Sys2Proof/Machine/Ftl.lean ====
section
/-! DEFINITION. The flash translation (13 R288 to R305): flush, reclaim, commits of the roots, hold-up, class bands. -/

namespace Sys2Proof.Machine

open Sys2Proof

/-! ### Flush (13 R303 step 3, R305) -/

/-- Program the loose units of a stream, stripe by stripe, in the first group that takes them; the last stripe is padded. -/
def State.flushStream (s : State) (k : Stream) : Nat → State
  | 0 => s
  | fuel + 1 =>
    match (List.range (groupsOf s.variant)).findSome? fun g => s.flushStripe g k with
    | some t => t.flushStream k fuel
    | none => s

/-- A die without its waiting programs. -/
def Die.dropped (e : Nat × Die) : Nat × Die := (e.1, { e.2 with programs := [] })

/-- The pages of a stripe that have not programmed are programmed. -/
def State.completeStripe (s : State) (t : Stripe) : State :=
  if t.failed then s else (t.pending.foldl (fun (u : State) p => u.programPage t p) s).finishStripe t

/-- Everything in the write buffer and the journal tail is programmed: open stripes are completed, the rest goes into stripes that are padded
and closed with their XOR pages (13 Table 13-9a). -/
def State.flushAll (s : State) : State :=
  let n := s.buffer.length + 1
  let s1 := (s.stripes.foldl State.completeStripe { s with stripes := [], dies := s.dies.map Die.dropped }).settleTiles
  let s2 := (((s1.flushStream (some .hot) n).flushStream (some .warm) n).flushStream (some .cold) n).flushStream (some .frozen) n
  let s3 := if s2.journalTail.isEmpty then s2 else s2.cutJournal
  (s3.flushStream none (s3.buffer.length + 1)).checkSpare

/-- Where the buffer is too small to be flushed on a loss, a write is programmed before it completes (13 R305). -/
def State.writeThrough (s : State) : State := if s.bufCap < bufferLeast then s.flushAll else s

/-! ### Reclaim (13 R296, R297) -/

/-- Valid units of a band, and its units. -/
def State.bandFill (s : State) (b : Nat) : Nat × Nat :=
  ((s.validCws fun k => s.bandOfPage (k / 4) = b).length,
   (s.cwords.filter fun e => s.bandOfPage (e.1 / 4) = b && (e.2.bind (·.owner)).isSome).length)

/-- The closed band of a stream in a group that was closed earliest, skipping one whose data is all valid. -/
def State.earliest (s : State) (g : Nat) (k : Stream) : Option (Nat × Nat × Nat) :=
  (s.bands.foldl (fun (b : Option (Nat × Nat × Nat × Nat)) e =>
    if e.1 / 4096 = g && e.2.state == .closed && e.2.stream == k then
      let f := s.bandFill e.1
      if f.1 = f.2 && f.2 ≠ 0 then b
      else match b with
        | some x => if e.2.stamp < x.1 then some (e.2.stamp, e.1, f) else b
        | none => some (e.2.stamp, e.1, f)
    else b) none).map (·.2)

/-- The class whose earliest band holds the smallest valid fraction; ties in the order hot, warm, cold, frozen, then the metadata stream, whose
bands are reclaimed like those of a class (13 R290, R296). -/
def State.reclaimChoice (s : State) (g : Nat) : Option (Nat × Nat × Nat) :=
  [some Class.hot, some .warm, some .cold, some .frozen, none].foldl (fun (b : Option (Nat × Nat × Nat)) k =>
    match s.earliest g k, b with
    | none, _ => b
    | some x, none => some x
    | some x, some y => if x.2.1 * y.2.2 < y.2.1 * x.2.2 then some x else b) none

/-- The band's valid data goes to the buffer as it has room, in its class; the band is erased by erases of its blocks. -/
def execReclaim (g : Fin 30) (s : State) : Result :=
  if g.val < groupsOf s.variant && s.freeBands g.val < bits s.mediaCtl 15 8 then
    match s.reclaimChoice g.val with
    | some x => .next (s.moveAll (s.validCws fun k => s.bandOfPage (k / 4) = x.1))
    | none => .next s
  else .next s

/-! ### Roots (13 R302) -/

/-- The FTL runs: its roots are loaded. -/
def State.ftlUp (s : State) : Bool := s.pow.stage == .rootsLoaded || s.pow.stage == .ready

/-- ROOT_INTERVAL in ticks. -/
def State.rootInterval (s : State) : Nat := max 10 (bits s.mediaCtl 31 16) * 1000000000

/-- The periodic commit; those on other events are part of what those events do. -/
def execRootCommit (s : State) : Result :=
  .next (if s.ftlUp && s.rootInterval ≤ (s.time - s.rootTime).toNat then s.commitRoot else s)

/-- The contents of the record that a commit wrote last. -/
def State.lastRoot (s : State) : Option RootRec := s.rootAt.bind fun a => SMap.get (fun _ => none) s.rootRecs a

/-- The map pages are read from F by the directory of the roots. -/
def State.loadMap (s : State) : State :=
  s.mapDir.foldl (fun (t : State) e => match e.2.bind s.cwData with
    | some d => { t with nsMap := (pageEntries e.1 d).foldl (fun m x => SMap.set (fun _ => 0) m x.1 x.2) t.nsMap }
    | none => t) s

/-- The data of journal page n in F. -/
def State.journalAt (s : State) (n : Nat) : Option Unit4K :=
  (s.cwords.find? fun e => match e.2 with
    | some w => w.kind == .journal && w.owner = some (0, BitVec.ofNat 38 n)
    | none => false).bind fun e => s.cwData e.1

/-- A change of journal page n, made again: its map page is not yet in F. -/
def State.replayChange (n : Nat) (s : State) (e : Nat × Word) : State :=
  { (State.cachePage { s with journalSeq := n } (e.1 / 512) true) with nsMap := SMap.set (fun _ => 0) s.nsMap e.1 e.2 }

/-- The journal is replayed from page n up to the first page that breaks its sequence (13 R302); pages beyond are void. -/
def State.replayJournal (s : State) (n : Nat) : Nat → State
  | 0 => { s with journalSeq := n }
  | fuel + 1 =>
    match s.journalAt n with
    | some d => ((journalEntries d).foldl (State.replayChange n) s).replayJournal (n + 1) fuel
    | none => { s with
        journalSeq := n
        cwords := s.cwords.map fun e => (e.1, e.2.map fun w => match w.owner with
          | some o => if w.kind == .journal && n ≤ o.2.toNat then { w with owner := none } else w
          | none => w) }

/-- The map as the roots and the journal give it. -/
def State.reloadMap (s : State) : State := s.loadMap.replayJournal s.replayStart (s.cwords.length + 1)

/-- What D2 held of the translation is lost. -/
def State.dropMap (s : State) : State := { s with buffer := [], stripes := [], nsMap := [], mapCache := [], journalTail := [] }

/-- 4 GiB of map journal. -/
def journalMax : Nat := 0x100000000

def execJournalBoundReached (s : State) : Result := .next (if s.ftlUp && journalMax ≤ s.journal then s.commitRoot else s)

/-! ### Hold-up and host memory buffer (13 R292, R305) -/

/-- Table 13-9a total and 4 ms, in tenths of a millisecond. -/
def holdupNeed (v : Variant) : Nat :=
  match v with
  | .v245 => 281
  | .v123 => 401

/-- Wordlines per die that step 3 of 13 Table 13-9a programs for a full write buffer. -/
def holdupLines (v : Variant) : Nat :=
  match v with
  | .v245 => 7
  | .v123 => 13

/-- Units of the write buffer that a bank of the measured hold-up can flush, as 22 R498 works it out: step 3 has what the
other steps and the margin of 4 ms leave, at 2 ms a wordline. -/
def holdupUnits (v : Variant) (tenthsMs : Nat) : Nat := 262144 * min ((tenthsMs - 141) / 20) (holdupLines v) / holdupLines v

/-- 13 R305. -/
def execHoldupMeasure (tenthsMs : Nat) (s : State) : Result :=
  let s1 := { s with pow := { s.pow with holdupOk := true } }
  if holdupNeed s.variant ≤ tenthsMs then
    .next { s1 with bufCap := 262144, critWarn := s1.critWarn &&& ~~~16 }
  else
    let t := { s1 with bufCap := holdupUnits s.variant tenthsMs, critWarn := s1.critWarn ||| 16 }
    .next (State.writeThrough (t.log .holdupShort))

/-- 13 R292: sixteen failures in one second. -/
def execHmbSuspend (s : State) : Result :=
  if s.hmbInUse && 16 ≤ s.hmbNow then .next (State.log { s with hmbSusp := true } .hmbSuspended) else .next s

/-! ### Class bands (13 R295, Table 13-12) -/

/-- Put a band behind those freed before it. -/
def byStamp (l : List (Nat × Band)) (b : Nat × Band) : List (Nat × Band) :=
  l.takeWhile (fun x => x.2.stamp ≤ b.2.stamp) ++ b :: l.dropWhile fun x => x.2.stamp ≤ b.2.stamp

/-- Free bands of a class in a group, in the order in which they were freed. -/
def State.freeList (s : State) (g : Nat) (k : Class) : List Nat :=
  ((s.bands.filter fun e => e.1 / 4096 = g && e.2.state == .free && e.2.stream == some k).foldl byStamp []).map (·.1)

/-- The bands freed last go back to the unused pool, so that RECLAIM_HI are left in each group. -/
def State.releaseBands (s : State) (k : Class) : State :=
  let keep := bits s.mediaCtl 15 8
  let out := (List.range (groupsOf s.variant)).flatMap fun g => (s.freeList g k).drop keep
  (out.foldl (fun (t : State) b => t.setBand b { t.bandAt b with state := .unused, cls := .warm, stamp := 0 }) s).commitRoot

def execFtlClassRelease (w : Requester) (k : Class) (s : State) : Result :=
  .next (if hubWriter w then s.releaseBands k else s)

end Sys2Proof.Machine
end

