-- ==== Sys2Proof/Machine/PowerOps.lean ====
section
/-! DEFINITION. Power states as commands meet them (16 R364, R365; 21 R470): the conditions of a state, the start of an entry,
of an exit, and their ends. -/

namespace Sys2Proof.Machine

open Sys2Proof

/-! ### Entering (16 Table 16-6) -/

/-- Every cluster is quiet or has all cores in RESET. -/
def State.allIdle (s : State) : Bool := allClusters.all fun c => s.quiet c || s.coresReset c

/-- The condition of a power state. -/
def State.mayEnter (s : State) (t : Fin 5) : Bool :=
  match t with
  | 0 => true
  | 1 => s.allIdle
  | 2 => !s.anyJob
  | 3 => !s.anyJob
  | 4 => !s.anyJob && s.heldCmds.isEmpty

def State.setMove (s : State) (m : Option PowerMove) : State := { s with pow := { s.pow with move := m } }

/-- Begin to enter a state below the present one. -/
def State.enterState (s : State) (t : Fin 5) : State :=
  if s.pow.move.isNone && s.pow.pstate < t && s.mayEnter t && s.pow.stage == .ready then s.setMove (some (.entering t)) else s

/-- All of D2 is lost with the storage domain (01 R19); its copies go with it. -/
def State.removeD2 (s : State) : State :=
  (s.clearRange d2Base (d2Top - d2Base)).mapNougat fun n => Nougat.settle { n with inD2 := false, need2 := false }

def Cluster.gated (c : Cluster) (on : Bool) : Cluster :=
  if on then (if c.pstate = 0 then { c with pstate := 1, wakeFrom := 1 } else c)
  else if c.pstate = 1 then { c with pstate := 0 } else c

/-- What a state turns off. -/
def State.turnOff (s : State) (t : Fin 5) : State :=
  match t with
  | 0 => s
  | 1 => s.updClusters allClusters (·.gated true)
  | 2 => s.removeCompute.tidyClusters
  | 3 => s.removeCompute.tidyClusters
  | 4 => ((s.flushAll.commitRoot.removeCompute.tidyClusters).removeD2).dropMap

/-! ### Leaving (16 R365, 21 R470) -/

/-- The next state on the way up to a target. -/
def exitTo (p t : Fin 5) : Fin 5 := if 2 < p then 2 else t

/-- Start an exit to state t or above; while a state is being entered or left, the wake waits. -/
def State.wake (s : State) (t : Fin 5) : State :=
  match s.pow.move with
  | none =>
    if t < s.pow.pstate then
      let n := exitTo s.pow.pstate t
      { s with pow := { s.pow with move := some (.exiting n), wakeTo := if t < n then some t else none } }
    else s
  | some m =>
    let low := match m with
      | .entering _ => true
      | .exiting n => t < n
    if low then
      { s with pow := { s.pow with wakeTo := some (match s.pow.wakeTo with
          | some u => if u < t then u else t
          | none => t) } }
    else s

/-- The compute domain is powered, trained and filled (16 Table 16-6, PS2; 11 R253, R256). -/
def State.computeOn (s : State) : State :=
  if s.pow.moduleFault then s
  else
    let t := (s.zeroFill 0 d1Top).zeroFill winBase (32 * winSize)
    { t with pow := { t.pow with compute := .ready } }

/-- What the exit to state t turns on. -/
def State.turnOn (s : State) (t : Fin 5) : State :=
  if t = 0 then
    let s1 := s.updClusters allClusters (·.gated false)
    if s1.pow.pstate = 2 then s1.computeOn else s1
  else if s.pow.pstate = 4 then (s.zeroFill d2Base (d2Top - d2Base)).reloadMap
  else s

/-- The wake that waited begins. -/
def State.nextWake (s : State) : State :=
  match s.pow.wakeTo with
  | some t => { s with pow := { s.pow with wakeTo := none } }.wake t
  | none => s

end Sys2Proof.Machine
end

