-- ==== Sys2Proof/Machine/Host.lean ====
section
/-! DEFINITION. What every host command meets (16): the function and the port it arrives on (R348, R349), power states
(R365, 01 R30), shares and caps of tenants (R357, R358), the ownership semaphore (R366, R367), and the status of commands
on a namespace. -/

namespace Sys2Proof.Machine

open Sys2Proof

/-! ### Functions and ports -/

/-- 16 R348, R349. -/
def State.portOf (s : State) (f : FnId) : Port :=
  match f with
  | .pf p => p
  | .vf t => if s.x16 || t.val < 512 then .a else .b

/-- The functions of a port, the physical function first. -/
def State.fnsOf (s : State) (p : Port) : List FnId :=
  .pf p :: (((List.finRange 1024).map FnId.vf).filter fun f => s.portOf f == p)

/-- The partition to which a tenant is assigned, whose shares its host I/O uses (17 R378). -/
def State.fnPart (s : State) (f : FnId) : Option (Fin 12) :=
  match f with
  | .pf _ => none
  | .vf t => allParts.find? fun p => match (s.part p).cfg with
    | some r => r.tenants.getLsbD t.val
    | none => false

def FnId.isPf : FnId → Bool
  | .pf _ => true
  | .vf _ => false

/-- CC.EN of a controller (16 R359). -/
def Fn.enabled (g : Fn) : Bool := g.bar0.cc.getLsbD 0

/-- The link of a function's port is up, and the function is present. -/
def State.reachable (s : State) (f : FnId) : Bool :=
  (s.port (s.portOf f)).linkUp && !(s.port (s.portOf f)).perst && !(s.x16 && f == .pf .b)

/-- A controller takes commands: NVMe is ready, no Controller Fatal Status stands, its link is up, and it is online and enabled. -/
def State.serves (s : State) (f : FnId) : Bool :=
  s.pow.stage == .ready && !s.pow.fatal && s.reachable f && (s.fn f).online && (s.fn f).enabled

/-! ### Commands that wait -/

/-- The header of an NVMe command that can wait. -/
def hdrOf (i : Instr) : Option Hdr :=
  match i with
  | .nvmRead h _ _ _ => some h
  | .nvmWrite h _ _ _ _ => some h
  | .nvmFlush h _ => some h
  | .writeZeroes h _ _ _ => some h
  | .datasetManagement h _ _ => some h
  | .unsupportedCommand h _ => some h
  | .identify h _ _ => some h
  | .getFeatures h _ _ _ => some h
  | .setFeatures h _ _ _ _ => some h
  | .tensorWatchArm h _ _ => some h
  | .getLogPage h _ _ => some h
  | .createIoSq h _ _ _ => some h
  | .createIoCq h _ _ _ => some h
  | .deleteIoSq h _ => some h
  | .deleteIoCq h _ => some h
  | .abort h _ _ => some h
  | .asynchronousEventRequest h => some h
  | .keepAlive h => some h
  | .namespaceManagement h _ => some h
  | .namespaceAttachment h _ _ _ => some h
  | .formatNvm h _ _ => some h
  | .firmwareImageDownload h _ => some h
  | .firmwareCommit h _ => some h
  | .virtualizationManagement h _ _ => some h
  | .directiveSend h _ _ => some h
  | .directiveReceive h _ => some h
  | .memoryRangeSetManagement h _ => some h
  | .memoryRead h _ _ _ => some h
  | .memoryWrite h _ _ _ => some h
  | .memoryCopy h _ _ _ => some h
  | .loadProgram h _ _ _ _ => some h
  | .programActivate h _ => some h
  | .programDeactivate h _ => some h
  | .executeProgram h _ _ => some h
  | .partitionConfigureSet h _ _ => some h
  | .partitionConfigureClear h _ => some h
  | .partitionArbitrationSet h _ => some h
  | .bindingSet h _ _ _ => some h
  | .jobControlVacate h _ _ _ => some h
  | .jobControlRestore h _ _ _ => some h
  | .jobControlKill h _ => some h
  | .fabricIdentity h _ _ _ => some h
  | .sanitizeBlockErase h => some h
  | .sanitizeCryptoErase h => some h
  | .sanitizeExitFailureMode h => some h
  | .enrolOwner h _ _ => some h
  | .revokeOwner h _ _ => some h
  | .setLevelRaise h _ => some h
  | .setLevel2 h _ => some h
  | .setLevelLower h _ => some h
  | .getNonce h => some h
  | .debugOpen h _ _ => some h
  | .debugClose h => some h
  | .setPolicy h _ _ _ => some h
  | .otpWrite h _ _ _ _ => some h
  | .keyPerIoInject h _ _ => some h
  | .tcgOpalCommand h _ _ => some h
  | _ => none

def heldInstr (x : Held) : Instr :=
  match x with
  | .lockWait _ i => i
  | .tableWait i => i
  | .bufferWait _ _ i => i
  | .wakeWait i => i
  | .computeWait i => i
  | .qosWait _ i => i
  | .semWait i => i

def heldLocks (x : Held) : List Nat :=
  match x with
  | .lockWait ids _ => ids
  | .bufferWait ids _ _ => ids
  | _ => []

/-- A waiting command in its data phase has been dispatched (16 R363). -/
def heldDispatched (x : Held) : Bool :=
  match x with
  | .bufferWait _ _ _ => true
  | _ => false

def State.hold (s : State) (x : Held) : State := { s with heldCmds := s.heldCmds ++ [x] }

/-- A host command meets its controller, processors that run (19 R449) and the power state (16 R365, 01 R30); compute says it is a compute command. After a
module fault the compute domain does not come back, so compute commands are answered at once (17 R392). -/
def State.hostCmd (s : State) (h : Hdr) (i : Instr) (compute : Bool) (f : State → State) : State :=
  if !s.serves h.fn then s
  else if s.mgmt.halted then s.hold (.wakeWait i)
  else if s.pow.move.isSome || s.pow.pstate ≥ 3 then (s.hold (.wakeWait i)).wake (if compute then 0 else 2)
  else if compute && !s.pow.moduleFault && !(s.pow.compute == .ready && s.pow.pstate = 0) then
    (s.hold (.computeWait i)).wake 0
  else f s

/-- Commands of the NVM and admin sets. -/
def State.hostStore (s : State) (h : Hdr) (i : Instr) (f : State → State) : State := s.hostCmd h i false f

/-- Commands that a physical function only may issue: Invalid Command Opcode on a virtual function (16 R350, R352). -/
def State.ownerCmd (s : State) (h : Hdr) (i : Instr) (compute : Bool) (f : State → State) : State :=
  s.hostCmd h i compute fun t => if FnId.isPf h.fn then f t else t.generic h 0x01

/-! ### Shares and caps (16 R357, R358) -/

def vfQosReset : Nat → Word := fun _ => 0x0101

def State.vfQosOf (s : State) (t : Nat) : Word := SMap.get vfQosReset s.vfQos t

/-- Bytes that one port carries for tenants in a window of 1 ms: 59 GB/s less 5% (R347, R357); an x16 port carries those
of both. -/
def State.portBytes (s : State) : Nat := if s.x16 then 112100000 else 56050000

def portNo (p : Port) : Nat :=
  match p with
  | .a => 0
  | .b => 1

/-- 5% of a port's data of a window, kept for its physical function (R357); an x16 port has that of both. -/
def State.pfBytes (s : State) : Nat := if s.x16 then 5900000 else 2950000

def FnId.qosKey (f : FnId) : Nat :=
  match f with
  | .pf p => 1024 + portNo p
  | .vf t => t.val

/-- The word of NVM_VF_STAT that a window leaves (16 Table 16-16). -/
def statWord (x : Nat × Nat) : Word := BitVec.ofNat 64 ((x.2 + 4095) / 4096 * 2 ^ 32 + x.1)

/-- A window that has ended: shares and caps start again, NVM_VF_STAT holds the window before this one, and ISOLATED takes effect (R357,
R358). -/
def State.qosRoll (s : State) : State :=
  if s.msWindow = s.qosWin then s
  else { s with
    vfStat := if s.msWindow = s.qosWin + 1 then (s.vfNow.filter fun e => e.1 < 1024).map fun e => (e.1, statWord e.2) else []
    vfNow := [], qosIsoNow := s.qosIso, qosWin := s.msWindow }

/-- Commands and bytes admitted for a function in this window. -/
def State.admitted (s : State) (f : FnId) : Nat × Nat := SMap.get (fun _ => (0, 0)) s.vfNow (FnId.qosKey f)

def Held.isQos : Held → Bool
  | .qosWait _ _ => true
  | _ => false

/-- A tenant's command waits for a window. -/
def State.waits (s : State) (t : Fin 1024) : Bool :=
  s.heldCmds.any fun x => x.isQos && match hdrOf (heldInstr x) with
    | some h => h.fn == .vf t
    | none => false

/-- A tenant counts among those that share a port's data: a configured one where shares are isolated (R358), one that has or had a command
in this window where they are not. -/
def State.shares (s : State) (u : Fin 1024) : Bool :=
  if s.qosIsoNow then (s.fn (.vf u)).online else s.waits u || s.admitted (.vf u) ≠ (0, 0)

/-- The tenants of a tenant's port. -/
def State.portTenants (s : State) (t : Fin 1024) : List (Fin 1024) :=
  (List.finRange 1024).filter fun u => s.portOf (.vf u) == s.portOf (.vf t)

/-- BW_WEIGHT of the tenants that share a tenant's port with it, its own among them. -/
def State.weightSum (s : State) (t : Fin 1024) : Nat :=
  (s.portTenants t).foldl (fun n u => if u = t || s.shares u then n + bits (s.vfQosOf u.val) 7 0 else n) 0

/-- Bytes that a window admits of a tenant by its weight. Where shares are not isolated it may have what the others leave unused: all that
is left of the port's data while none of them has a command that waits. -/
def State.weightBytes (s : State) (t : Fin 1024) : Nat :=
  let share := s.portBytes * bits (s.vfQosOf t.val) 7 0 / s.weightSum t
  let others := (s.portTenants t).filter (· ≠ t)
  let left := s.portBytes - others.foldl (fun n u => n + (s.admitted (.vf u)).2) 0
  if s.qosIsoNow then share else if others.any s.waits then min share left else left

/-- Bytes that the present window admits of a function in all (R357): up to 5% of a port's data for its physical function, a tenant's
weight and BW_CAP for a tenant. -/
def State.windowBytes (s : State) (f : FnId) : Nat :=
  match f with
  | .pf _ => s.pfBytes
  | .vf t =>
    let cap := bits (s.vfQosOf t.val) 47 32 * 64000
    if cap = 0 then s.weightBytes t else min cap (s.weightBytes t)

def State.bytesLeft (s : State) (f : FnId) : Nat := s.windowBytes f - (s.admitted f).2

/-- IOPS_CAP admits one more command. -/
def State.belowCap (s : State) (f : FnId) : Bool :=
  match f with
  | .pf _ => true
  | .vf t =>
    let cap := bits (s.vfQosOf t.val) 63 48
    cap = 0 || (s.admitted f).1 < cap

def State.countQos (s : State) (f : FnId) (cmds bytes : Nat) : State :=
  let a := s.admitted f
  { s with vfNow := SMap.set (fun _ => (0, 0)) s.vfNow (FnId.qosKey f) (a.1 + cmds, a.2 + bytes) }

/-- Bytes of a command that the present window has to let through: those that earlier windows have admitted of it are behind it (log 34). -/
def State.bytesNeeded (s : State) (n : Nat) : Nat := n - s.qosPart

/-- The command starts in the present window. -/
def State.withinQos (s : State) (f : FnId) (n : Nat) : Bool := s.belowCap f && s.bytesNeeded n ≤ s.bytesLeft f

/-- The command waits for the next window; the present one admits of its bytes what it has left. -/
def State.holdQos (s : State) (f : FnId) (i : Instr) (n : Nat) : State :=
  let k := if s.belowCap f then min (s.bytesLeft f) (s.bytesNeeded n) else 0
  State.hold { s.countQos f 0 k with qosPart := 0 } (.qosWait (s.qosPart + k) i)

/-- The command is admitted. -/
def State.enterQos (s : State) (f : FnId) (n : Nat) : State := { s.countQos f 1 (s.bytesNeeded n) with qosPart := 0 }

/-- An I/O command that moves n bytes. -/
def State.hostIo (s : State) (h : Hdr) (i : Instr) (n : Nat) (compute : Bool) (f : State → State) : State :=
  s.hostCmd h i compute fun t =>
    let u := t.qosRoll
    if u.withinQos h.fn n then f (u.enterQos h.fn n) else u.holdQos h.fn i n

/-! ### The semaphore (16 R366, R367) -/

def semOf (p : Port) : BitVec 2 :=
  match p with
  | .a => 1
  | .b => 2

def Held.isSem : Held → Bool
  | .semWait _ => true
  | _ => false

/-- An operation under MOD_OWNSEM, checked when it is fetched: status 0x01 from a port that does not hold it, 0x08 while a sanitize runs or
an accepted operation waits for a wake (log 35). A virtual function's command, and one to a controller that does not serve, go their own way. -/
def State.underSem (s : State) (h : Hdr) (f : State → State) : State :=
  if !s.serves h.fn || !FnId.isPf h.fn then f s
  else if s.ownsem != semOf (s.portOf h.fn) then s.vendor h 0x01
  else if s.san.active.isSome || s.heldCmds.any Held.isSem then s.vendor h 0x08
  else f s

/-- An accepted operation meets the processors and the power state; while it waits it stays accepted (R368). -/
def State.whenRunning (s : State) (i : Instr) (f : State → State) : State :=
  if s.mgmt.halted then s.hold (.semWait i)
  else if s.pow.move.isSome || s.pow.pstate ≥ 3 then (s.hold (.semWait i)).wake 2
  else f s

/-- An operation under MOD_OWNSEM, which a physical function only may issue. -/
def State.semCmd (s : State) (h : Hdr) (f : State → State) : State :=
  s.underSem h fun t => if !t.serves h.fn then t else if FnId.isPf h.fn then f t else t.generic h 0x01

/-- An operation ends: its completion is posted, and its outcome stands in the Module Error Log (R368). -/
def State.endSemOp (s : State) (opcode : Byte) (h : Hdr) (sct sc : Byte) : State :=
  (s.complete h sct sc 0).log (.operation opcode sct sc)

/-! ### Commands on a namespace -/

/-- The namespace exists and is attached to the function: a virtual function reaches only those attached to it (R350). -/
def State.nsFor (s : State) (f : FnId) (nsid : BitVec 32) : Option Namespace :=
  match s.ns nsid.toNat with
  | some v => if v.attached.contains f && nsid.toNat ≠ 0 && nsid.toNat < 1024 then some v else none
  | none => none

/-- Its media key is not usable now: locked (19 Table 19-7), or a tenant's key withheld after debug was open (R448). -/
def State.keyShut (s : State) (v : Namespace) : Bool :=
  v.locked || (s.sec.withheld && match v.keyTenant with
    | some (some _) => true
    | _ => false)

/-- The status that stops a read or write of blocks first to first + n - 1 before it reaches the media, none when it goes on
(log 36). -/
def State.ioStatus (s : State) (f : FnId) (nsid : BitVec 32) (first n : Nat) (write : Bool) : Option (Byte × Byte) :=
  match s.nsFor f nsid with
  | none => some (0, 0x0B)
  | some v =>
    if s.san.active.isSome then some (0, 0x1D)
    else if s.san.failed then some (0, 0x1C)
    else if v.blocks < first + n then some (0, 0x80)
    else if s.keyShut v then some (2, 0x86)
    else if write && (s.readOnly || v.writeProt) then some (0, 0x20)
    else none

end Sys2Proof.Machine
end

