-- ==== Sys2Proof/Machine/Nvm.lean ====
section
/-! DEFINITION. The NVM command set (01 R25 to R29; 12 R269; 13 R284, R294; 16 R352, R361, R362): Read, Write, Flush, Write
Zeroes, Dataset Management, commands not supported, and the resumption of a stalled data phase. -/

namespace Sys2Proof.Machine

open Sys2Proof

/-! ### Range locks of a command -/

/-- Enter one lock for each range, in order. -/
def State.enterLocks (s : State) (nsid : Nat) (read : Bool) : List (Nat × Nat) → State × List Nat
  | [] => (s, [])
  | r :: rs =>
    let a := s.addLock nsid r.1 r.2 read false
    let b := a.1.enterLocks nsid read rs
    (b.1, a.2 :: b.2)

/-- No earlier lock of another command conflicts with a command's locks. -/
def State.locksFree (s : State) (ids : List Nat) : Bool :=
  s.locks.all fun l => !ids.contains l.id || (s.locks.takeWhile fun m => m.id != l.id).all fun m =>
    ids.contains m.id || !m.conflicts l.nsid.toNat l.first l.count l.read

def State.grantAll (s : State) (ids : List Nat) : State := ids.foldl State.grantLock s
def State.dropAll (s : State) (ids : List Nat) : State := ids.foldl State.dropLock s

/-- End a command that holds locks. -/
def State.finishIo (s : State) (ids : List Nat) (h : Hdr) (e : Option (Byte × Byte)) : State :=
  match e with
  | none => (s.dropAll ids).okay h 0
  | some x => (s.dropAll ids).complete h x.1 x.2 0

/-! ### What the commands do once their locks are granted -/

/-- A read (01 R27, 12 R269). -/
def State.doRead (s : State) (ids : List Nat) (h : Hdr) (nsid first n : Nat) (records : List (List Byte)) : State :=
  let t := s.noteRead nsid first n records
  match s.readUnits nsid first n with
  | some us => (t.emit (.units h us)).finishIo ids h none
  | none => t.finishIo ids h (some (2, 0x81))

/-- The class of a write: its placement handle's, warm without one, frozen in a tile namespace (13 R293, R294). -/
def State.classFor (s : State) (nsid : Nat) (ph : Option Class) : Class :=
  if s.nsIsTile nsid then .frozen else ph.getD .warm

/-- The data phase: the units enter the write buffer and the command completes (01 R25), at once programmed where the hold-up
bank cannot flush the buffer (13 R305). A mute command's completion is discarded (16 R360). -/
def State.putData (s : State) (ids : List Nat) (mute : Bool) (h : Hdr) (nsid first : Nat) (k : Class)
    (data : List Unit4K) : State :=
  let t := (((s.writeUnits nsid first k data).countWrite (s.fnPart h.fn) (data.length * 4096)).writeThrough).dropAll ids
  if mute then t else t.okay h 0

/-- A write meets the pins (01 R28), removes resident copies (R29), and enters the buffer or waits for room (R26). -/
def State.doWrite (s : State) (ids : List Nat) (h : Hdr) (i : Instr) (nsid first : Nat) (ph : Option Class)
    (data : List Unit4K) : State :=
  if s.pinnedRange nsid first data.length then s.finishIo ids h (some (0, 0x20))
  else
    let t := s.dropCopies nsid first data.length
    if t.hostRoom (t.fnPart h.fn) (t.classFor nsid ph) (t.writeCost nsid first data.length) then
      t.putData ids false h nsid first (t.classFor nsid ph) data
    else t.hold (.bufferWait ids false i)

/-- The whole map units of a range (13 R284). -/
def wholeUnits (tile : Bool) (r : Nat × Nat) : Nat × Nat :=
  if tile then ((r.1 + 255) / 256 * 256, (r.1 + r.2) / 256 * 256 - (r.1 + 255) / 256 * 256) else r

/-- A deallocation unmaps whole map units; it meets pins and copies as a write does (13 R284, 01 R28, R29; log 37). -/
def State.doDeallocate (s : State) (ids : List Nat) (h : Hdr) (nsid : Nat) (rs : List (Nat × Nat)) : State :=
  let us := rs.map (wholeUnits (s.nsIsTile nsid))
  if us.any fun r => s.pinnedRange nsid r.1 r.2 then s.finishIo ids h (some (0, 0x20))
  else
    (us.foldl (fun (t : State) r =>
      if r.2 = 0 then t else (t.dropCopies nsid r.1 r.2).unmap nsid r.1 r.2) s).finishIo ids h none

/-- NVMe counts logical blocks from 0. -/
def blockCount (nlb : BitVec 16) : Nat := nlb.toNat + 1

def dsmRanges (rs : List (BitVec 64 × BitVec 32)) : List (Nat × Nat) := rs.map fun r => (r.1.toNat, r.2.toNat)

/-- Run a command whose locks are granted. -/
def State.runIo (s : State) (ids : List Nat) (i : Instr) : State :=
  match i with
  | .nvmRead h nsid slba x => s.doRead ids h nsid.toNat slba.toNat (blockCount x.nlb) x.hmb
  | .nvmWrite h nsid slba ph data => s.doWrite ids h i nsid.toNat slba.toNat ph data
  | .writeZeroes h nsid slba nlb =>
    s.doWrite ids h i nsid.toNat slba.toNat none (List.replicate (blockCount nlb) 0)
  | .datasetManagement h nsid ranges => s.doDeallocate ids h nsid.toNat (dsmRanges ranges)
  | _ => s.dropAll ids

/-- Enter a command's locks and run it when none conflicts (16 R361, R362). -/
def State.lockIo (s : State) (nsid : Nat) (read : Bool) (rs : List (Nat × Nat)) (i : Instr) : State :=
  let e := s.enterLocks nsid read rs
  if e.1.locksFree e.2 then (e.1.grantAll e.2).runIo e.2 i else e.1.hold (.lockWait e.2 i)

/-- A command on ranges of a namespace. -/
def State.startIo (s : State) (h : Hdr) (i : Instr) (nsid : BitVec 32) (read : Bool) (rs : List (Nat × Nat)) : State :=
  match rs.findSome? fun r => s.ioStatus h.fn nsid r.1 r.2 (!read) with
  | some e => s.complete h e.1 e.2 0
  | none =>
    if s.tableFull || !s.lockRoom rs.length then s.hold (.tableWait i)
    else s.lockIo nsid.toNat read rs i

def execNvmRead (h : Hdr) (nsid : BitVec 32) (slba : BitVec 64) (x : ReadArgs) (s : State) : Result :=
  let i := Instr.nvmRead h nsid slba x
  .next (s.hostIo h i (blockCount x.nlb * 4096) false fun t => t.startIo h i nsid true [(slba.toNat, blockCount x.nlb)])

/-- An empty write moves nothing. -/
def execNvmWrite (h : Hdr) (nsid : BitVec 32) (slba : BitVec 64) (ph : Option Class) (data : List Unit4K) (s : State) :
    Result :=
  let i := Instr.nvmWrite h nsid slba ph data
  .next (s.hostIo h i (data.length * 4096) false fun t => t.startIo h i nsid false [(slba.toNat, data.length)])

/-- The write cache is power-safe: every completed write is already kept (01 R25, 16 Table 16-1). -/
def execNvmFlush (h : Hdr) (nsid : BitVec 32) (s : State) : Result :=
  .next (s.hostIo h (.nvmFlush h nsid) 0 false fun t =>
    if nsid = 0xFFFFFFFF || (t.nsFor h.fn nsid).isSome then t.okay h 0 else t.generic h 0x0B)

/-- The blocks read zero: a write of zeros. -/
def execWriteZeroes (h : Hdr) (nsid : BitVec 32) (slba : BitVec 64) (nlb : BitVec 16) (s : State) : Result :=
  let i := Instr.writeZeroes h nsid slba nlb
  .next (s.hostIo h i 0 false fun t => t.startIo h i nsid false [(slba.toNat, blockCount nlb)])

def execDatasetManagement (h : Hdr) (nsid : BitVec 32) (ranges : List (BitVec 64 × BitVec 32)) (s : State) : Result :=
  let i := Instr.datasetManagement h nsid ranges
  .next (s.hostIo h i 0 false fun t => t.startIo h i nsid false (dsmRanges ranges))

/-- 16 R352. -/
def execUnsupportedCommand (h : Hdr) (opcode : BitVec 8) (s : State) : Result :=
  .next (s.hostCmd h (.unsupportedCommand h opcode) false fun t => t.generic h 0x01)

/-! ### Commands that waited -/

/-- Take one waiting command off the list. -/
def State.unhold (s : State) (x : Held) : State := { s with heldCmds := s.heldCmds.erase x }

/-- The write of a command whose data phase waited. -/
def State.resumeData (s : State) (ids : List Nat) (mute : Bool) (i : Instr) : State :=
  match i with
  | .nvmWrite h nsid slba ph data => s.putData ids mute h nsid.toNat slba.toNat (s.classFor nsid.toNat ph) data
  | .writeZeroes h nsid slba nlb =>
    s.putData ids mute h nsid.toNat slba.toNat (s.classFor nsid.toNat none) (List.replicate (blockCount nlb) 0)
  | _ => s.dropAll ids

/-- The data phase of a waiting command may go on. -/
def State.dataRoom (s : State) (i : Instr) : Bool :=
  match i with
  | .nvmWrite h nsid slba ph data =>
    s.hostRoom (s.fnPart h.fn) (s.classFor nsid.toNat ph) (s.writeCost nsid.toNat slba.toNat data.length)
  | .writeZeroes h nsid slba nlb =>
    s.hostRoom (s.fnPart h.fn) (s.classFor nsid.toNat none) (s.writeCost nsid.toNat slba.toNat (blockCount nlb))
  | _ => true

/-- The range a command of the table waits with. -/
def ioRange (i : Instr) : Option (Nat × Bool × List (Nat × Nat)) :=
  match i with
  | .nvmRead _ nsid slba x => some (nsid.toNat, true, [(slba.toNat, blockCount x.nlb)])
  | .nvmWrite _ nsid slba _ data => some (nsid.toNat, false, [(slba.toNat, data.length)])
  | .writeZeroes _ nsid slba nlb => some (nsid.toNat, false, [(slba.toNat, blockCount nlb)])
  | .datasetManagement _ nsid ranges => some (nsid.toNat, false, dsmRanges ranges)
  | _ => none

/-- A command's waiting place may be left now. -/
def State.mayGrant (s : State) (x : Held) : Bool :=
  match x with
  | .lockWait ids _ => s.locksFree ids
  | _ => false

/-- The command that has waited longest for a free entry of the lock table. -/
def State.firstTableWait (s : State) : Option Instr := s.heldCmds.findSome? fun x => match x with
  | .tableWait i => some i
  | _ => none

end Sys2Proof.Machine
end

