-- ==== Sys2Proof/Machine/Rings.lean ====
section
/-! DEFINITION. The rings of a cluster (02 R44 to R50, 10 R241, 14 R319, 18 R413): their registers, and the reading of the
next entry. -/

namespace Sys2Proof.Machine

open Sys2Proof

def Cluster.ring (c : Cluster) (r : RingId) : Ring :=
  match r with
  | .tm q => SMap.get (fun _ => {}) c.tmq q.val
  | .commit => c.commit
  | .ixr => c.ixr
  | .ftx => c.ftx

def Cluster.setRing (c : Cluster) (r : RingId) (v : Ring) : Cluster :=
  match r with
  | .tm q => { c with tmq := SMap.set (fun _ => {}) c.tmq q.val v }
  | .commit => { c with commit := v }
  | .ixr => { c with ixr := v }
  | .ftx => { c with ftx := v }

/-- The largest SIZE, and the width of the SIZE field. -/
def ringMax (r : RingId) : Nat :=
  match r with
  | .tm _ => 4096
  | .commit => 256
  | .ixr => 1024
  | .ftx => 1024

/-- The value of the SIZE field in a written word: bits [12:0], [8:0] or [10:0]. -/
def ringSizeField (r : RingId) (v : Word) : Nat := v.toNat % (2 * ringMax r)

/-- RING of 02 Table 2-5a, and the queue number. -/
def ringCode : RingId → Nat
  | .tm _ => 0
  | .commit => 1
  | .ixr => 2
  | .ftx => 3

def ringQueue : RingId → Nat
  | .tm q => q.val
  | _ => 0

/-- 0 or a power of two within the ring's range (02 R45). -/
def ringSizeOk (r : RingId) (n : Nat) : Bool :=
  n = 0 || (4 ≤ n && n ≤ ringMax r && n &&& (n - 1) = 0)

/-- A ring of nonzero size is aligned and wholly inside activation memory or one core-local data memory. -/
def ringFits (base size : Nat) : Bool :=
  size = 0 || (base % 64 = 0 && match rangeMem base (64 * size) with
    | some .act => true
    | some (.dmem _) => true
    | _ => false)

def Ring.isEmpty (r : Ring) : Bool := r.size = 0 || r.head = r.tail

/-- HEAD moves on by one (02 R45). -/
def Ring.step (r : Ring) : Ring :=
  if r.size = 0 then r else { r with head := BitVec.ofNat 32 ((r.head.toNat + 1) % r.size.toNat) }

/-- Entries that a new tail makes waiting, counted from the old tail. -/
def Ring.added (r : Ring) (v : Nat) : List Nat :=
  (List.range ((v + r.size.toNat - r.tail.toNat % r.size.toNat) % r.size.toNat)).map fun i =>
    (r.tail.toNat + i) % r.size.toNat

/-- A write of TAIL (02 R45); the order of tail writes is noted for the FENCE of R46. -/
def State.writeTail (s : State) (cl : Fin 32) (r : RingId) (v : Word) : State :=
  let c := s.cluster cl
  let g := c.ring r
  let t := bits v 31 0
  if c.zeroising || g.size.toNat ≤ t then s
  else
    let c1 := c.setRing r { g with tail := BitVec.ofNat 32 t }
    match r with
    | .tm q =>
      s.setCluster cl { c1 with
        tailSeq := (g.added t).foldl (fun m i => SMap.set (fun _ => 0) m (q.val * 4096 + i) (s.cycle * 16 + q.val + 1)) c.tailSeq }
    | _ => s.setCluster cl c1

/-- A write of BASE or SIZE (02 R45). -/
def State.writeBaseSize (s : State) (cl : Fin 32) (r : RingId) (isSize : Bool) (v : Word) : State :=
  let c := s.cluster cl
  let g := c.ring r
  if g.head ≠ g.tail then s
  else if isSize then
    let n := ringSizeField r v
    if ringSizeOk r n && ringFits g.base.toNat n then
      s.setCluster cl (c.setRing r { g with size := BitVec.ofNat 13 n, tail := 0, head := 0 })
    else s
  else
    let b := bits v 31 0
    if ringFits b g.size.toNat then s.setCluster cl (c.setRing r { g with base := BitVec.ofNat 32 b }) else s

/-- Offset of a ring's BASE register in the cluster register block; SIZE, TAIL and HEAD follow it (02 Table 2-8, 10 Table
10-13, 14 Table 14-5, 18 Table 18-7). -/
def ringBlock : RingId → Nat
  | .tm q => 0x100 + q.val * 0x20
  | .commit => 0x500
  | .ixr => 0x540
  | .ftx => 0x600

def execRingTailWrite (w : Requester) (cl : Fin 32) (r : RingId) (v : Word) (s : State) : Result :=
  .next (if s.mayWrite w cl true then s.whenAwake cl (ringBlock r + 0x10) v fun t => t.writeTail cl r v else s)

def execRingBaseSizeWrite (w : Requester) (cl : Fin 32) (r : RingId) (isSize : Bool) (v : Word) (s : State) : Result :=
  .next (if s.mayWrite w cl true then
      s.whenAwake cl (ringBlock r + (if isSize then 8 else 0)) v fun t => t.writeBaseSize cl r isSize v
    else s)

/-! ### The next entry (02 R50) -/

/-- HEAD of a ring moves on. -/
def State.takeEntry (s : State) (cl : Fin 32) (r : RingId) : State :=
  s.updCluster cl fun c => c.setRing r (c.ring r).step

/-- What reading the entry at HEAD comes to. -/
inductive Entry where
  /-- nothing for this command to do -/
  | nothing
  /-- the entry was refused and passed over: the state with its ring fault -/
  | refused (s : State)
  /-- the entry's eight words, with the state the read leaves -/
  | words (s : State) (ws : List Word)

/-- Read the entry at HEAD whole, as one 64-byte access, when mine names it by its words; an entry that cannot be read, or
whose completion address is not valid, raises a ring fault and is passed over (02 R50). -/
def State.ringEntry (s : State) (cl : Fin 32) (r : RingId) (mine : List Word → Bool) : Entry :=
  let c := s.cluster cl
  let g := c.ring r
  if g.isEmpty || c.pstate ≠ 0 || c.zeroising then .nothing
  else
    let a := clusterAddr cl (g.base.toNat + 64 * g.head.toNat)
    let got := s.readMem a 64
    let ws := toWords 8 got.data
    let i := g.head.toNat
    if got.ues ≠ [] then .refused ((got.st.takeEntry cl r).ringFaultAt cl true (ringCode r) (ringQueue r) i 0)
    else if !mine ws then .nothing
    else if !complOk (bits (ws.getD 0 0) 63 32) then
      .refused ((got.st.takeEntry cl r).ringFaultAt cl false (ringCode r) (ringQueue r) i (bits (ws.getD 0 0) 31 16))
    else .words got.st ws

end Sys2Proof.Machine
end

