-- ==== Sys2Proof/Machine/TileMover.lean ====
section
/-! DEFINITION. The tile mover (02 R44 to R50, R508; 06 R149 to R159): the start of a descriptor, COPY, FILL, XFORM and NOP,
and the end of every descriptor. -/

namespace Sys2Proof.Machine

open Sys2Proof

def tmOp (ws : List Word) : Nat := bits (word ws 0) 3 0
def tmSrc (ws : List Word) : Nat := bits (word ws 1) 47 0
def tmDst (ws : List Word) : Nat := bits (word ws 2) 47 0
def tmLen (ws : List Word) : Nat := bits (word ws 3) 31 0
def tmHandle (ws : List Word) : Nat := bits (word ws 6) 39 0

/-- Status of the descriptor words alone (02 Table 2-4, Table 2-5). -/
def tmWords (ws : List Word) : Nat :=
  chk (tmOp ws ≤ 5 && bits (word ws 0) 15 9 = 0 && bits (word ws 0) 7 4 = 0 && bits (word ws 1) 63 48 = 0 &&
    bits (word ws 2) 63 48 = 0 && bits (word ws 3) 63 32 = 0 && bits (word ws 6) 63 40 = 0 && word ws 7 = 0) 0x03

/-! ### Starting (02 R46, R67) -/

/-- Indices of the entries that wait or execute (02 R45). -/
def Ring.waiting (r : Ring) : List Nat :=
  if r.size = 0 then []
  else (List.range ((r.tail.toNat + r.size.toNat - r.head.toNat % r.size.toNat) % r.size.toNat)).map fun i =>
    (r.head.toNat + i) % r.size.toNat

/-- No entry of another queue stands before entry i of queue q in the order of tail writes (02 R46); those of one cycle are ordered
by queue, so the entry's own cycle must have passed (log 98). -/
def Cluster.fenceOpen (c : Cluster) (q : Fin 16) (i cycle : Nat) : Bool :=
  let seq (k j : Nat) : Nat := SMap.get (fun _ => 0) c.tailSeq (k * 4096 + j)
  seq q.val i ≤ cycle * 16 &&
    (List.finRange 16).all fun k => k == q || ((c.ring (.tm k)).waiting.all fun j => seq q.val i ≤ seq k.val j)

/-- The descriptor of queue q that executes. -/
def Cluster.tmOf (c : Cluster) (q : Fin 16) : Option TmExec := c.tmExec.find? fun e => e.q == q

def State.setTm (s : State) (cl : Fin 32) (e : TmExec) : State :=
  s.updCluster cl fun c => { c with tmExec := c.tmExec.map fun f => if f.q == e.q then e else f }

/-- Queue k has a descriptor that may start: none of its own executes, and no FENCE holds it (02 R46). -/
def State.tmReady (s : State) (cl : Fin 32) (k : Fin 16) : Bool :=
  let c := s.cluster cl
  let g := c.ring (.tm k)
  !g.isEmpty && (c.tmOf k).isNone &&
    (!bit (imWord (s.peekBytes (clusterAddr cl (g.base.toNat + 64 * g.head.toNat)) 8) 0) 8 || c.fenceOpen k g.head.toNat s.cycle)

/-- Queue q is the one that the round-robin reaches next (02 R46). -/
def State.tmChosen (s : State) (cl : Fin 32) (q : Fin 16) : Bool :=
  let far (k : Fin 16) : Nat := (k.val + 16 - (s.cluster cl).tmTurn.toNat) % 16
  (List.finRange 16).all fun k => far q ≤ far k || !s.tmReady cl k

/-- A descriptor that starts, with nothing done. -/
def tmNew (q : Fin 16) (cycle : Nat) (ws : List Word) : TmExec :=
  { q := q, words := ws, status := 0, units := 0, total := 0, done := false, pinned := none, src := 0, dst := 0, snap := []
    ctr := 0, srcD := [], dstD := [], since := cycle }

/-- Start the next descriptor of a queue when its OP is the row's; begin checks it and says what it has to do. -/
def State.tmStart (s : State) (cl : Fin 32) (q : Fin 16) (mine : Nat → Bool) (begin_ : State → TmExec → State × TmExec) :
    State :=
  let c := s.cluster cl
  let g := c.ring (.tm q)
  if (c.tmOf q).isSome || c.tmExec.length ≥ 4 || c.quiesce || !s.tmChosen cl q then s
  else match s.ringEntry cl (.tm q) (fun ws => mine (tmOp ws) && (!bit (word ws 0) 8 || c.fenceOpen q g.head.toNat s.cycle)) with
    | .nothing => s
    | .refused t => t.updCluster cl fun c => { c with tmTurn := BitVec.ofNat 4 (q.val + 1) }
    | .words t ws =>
      let st := tmWords ws
      let e := tmNew q s.cycle ws
      let r := if st ≠ 0 then (t, { e with status := BitVec.ofNat 8 st, done := true }) else begin_ t e
      r.1.updCluster cl fun c => { c with tmExec := c.tmExec ++ [r.2], tmTurn := BitVec.ofNat 4 (q.val + 1) }

def TmExec.failed (e : TmExec) (st : Nat) : TmExec := { e with status := BitVec.ofNat 8 st, done := true }

/-! ### Addresses -/

/-- A destination may be written: not D2 while a job is loaded (10 R240), no instruction memory of another cluster (02 R38). -/
def State.tmDest (s : State) (cl : Fin 32) (l : ViewLoc) : Bool :=
  match l with
  | .d1 => true
  | .d2 => !s.jobOn cl
  | .window c o =>
    match clMemOf o with
    | some (.imem _) => c == cl
    | _ => true

/-- The module-view address of a range to be read; none is status 0x01. -/
def State.tmFrom (s : State) (cl : Fin 32) (a n : Nat) : Option Nat :=
  (s.viewRange cl a n).map (·.2)

/-- The module-view address of a range to be written. -/
def State.tmTo (s : State) (cl : Fin 32) (a n : Nat) : Option Nat :=
  match s.viewRange cl a n with
  | some (l, m) => if s.tmDest cl l then some m else none
  | none => none

def unitsIn (n : Nat) : Nat := (n + 4095) / 4096

/-- A unit was done. The last unit of a COPY or FILL counts as a completed unit when it is shorter than 4 KiB too (log 99). -/
def TmExec.moved (e : TmExec) : TmExec := { e with units := e.units + 1, done := e.units + 1 ≥ e.total }

/-! ### Units of work -/

/-- The bit address of an element at a translated base. -/
def Layout.bitAt (l : Layout) (base : Nat) (idx : List Nat) : Nat := ((8 * base : Int) + l.place idx).toNat

/-- Rank and, unless it is padding, source bit address of each element of unit u, in write order (06 R157). -/
def xformItems (e : TmExec) (u : Nat) : List (Nat × Option Nat) :=
  let src := layoutOf e.srcD
  let dst := layoutOf e.dstD
  let e0 := u * 32768 / dst.w
  let e1 := min dst.count ((u + 1) * 32768 / dst.w)
  (List.range (e1 - e0)).map fun i =>
    (e0 + i, (padSource src dst (dst.indices (e0 + i))).map fun j => src.bitAt e.src j)

/-- The module-view ranges that a descriptor's next unit reads and writes. -/
def TmExec.ranges (e : TmExec) : List (Nat × Nat) :=
  let o := 4096 * e.units
  let n := min 4096 (tmLen e.words - o)
  if e.done then []
  else match tmOp e.words with
    | 0 => [(e.src + o, n), (e.dst + o, n)]
    | 1 =>
      let dst := layoutOf e.dstD
      (xformItems e e.units).flatMap fun x =>
        bitRange (dst.bitAt e.dst (dst.indices x.1)) dst.w :: match x.2 with
          | some b => [bitRange b dst.w]
          | none => []
    | 2 => [(e.dst + o, n)]
    | _ => []

/-- The descriptor of queue q that executes with this OP and is not done is advanced by one unit of 4 KiB, n times; aged
requests of cores at its banks come first (09 R211). -/
def State.tmMove (s : State) (cl : Fin 32) (q : Fin 16) (op : Nat) (unit : State → TmExec → State × TmExec) : Nat → State
  | 0 => s
  | n + 1 =>
    match (s.cluster cl).tmOf q with
    | some e =>
      if tmOp e.words = op && !e.done && (s.cluster cl).pstate = 0 && s.portServes e.ranges e.since e.aged then
        let r := unit s e
        (r.1.setTm cl { r.2 with since := s.cycle, aged := false, claim := [] }).tmMove cl q op unit n
      else s
    | none => s

/-! ### COPY and FILL (02 R508) -/

def State.copyBegin (s : State) (cl : Fin 32) (e : TmExec) : State × TmExec :=
  let a := tmSrc e.words
  let b := tmDst e.words
  let n := tmLen e.words
  if a % 64 ≠ 0 || b % 64 ≠ 0 || n % 64 ≠ 0 then (s, e.failed 0x02)
  else if n = 0 then (s, { e with done := true })
  else match s.tmFrom cl a n, s.tmTo cl b n with
    | some m, some d =>
      (s.drawn, { e with
        src := m, dst := d, total := unitsIn n, ctr := s.freeCtr
        snap := if meets (m, n) d n then s.peekBytes m n else [] })
    | _, _ => (s, e.failed 0x01)

/-- Word i of the destination of a COPY whose ranges intersect: the source word as it stood at the start, or as this COPY
wrote it where the source word lies in the destination; which is a free bit for each word. k is the destination's offset
behind the source, in words. -/
def copyWord (snap : List Byte) (ctr words : Nat) (k : Int) : Nat → Nat → List Byte
  | 0, i => (snap.drop (64 * i)).take 64
  | fuel + 1, i =>
    let j := (i : Int) - k
    if 0 ≤ j && j < words && Config.freeBits ctr i then copyWord snap ctr words k fuel j.toNat
    else (snap.drop (64 * i)).take 64

def State.copyUnit (s : State) (e : TmExec) : State × TmExec :=
  let o := 4096 * e.units
  let n := min 4096 (tmLen e.words - o)
  let g := s.readRaw .requester (e.src + o) n
  if g.ues ≠ [] then (g.st.disposeAll g.ues, e.failed 0x05)
  else
    let words := tmLen e.words / 64
    let d := if e.snap.isEmpty then g.data
      else (List.range (n / 64)).flatMap fun i =>
        copyWord e.snap e.ctr words (((e.dst : Int) - e.src) / 64) words (o / 64 + i)
    (g.st.writeMem (e.dst + o) (whole d), e.moved)

def execTmCopy (cl : Fin 32) (q : Fin 16) (units : Nat) (s : State) : Result :=
  .next ((s.tmStart cl q (· = 0) fun t e => t.copyBegin cl e).tmMove cl q 0 State.copyUnit units)

def State.fillBegin (s : State) (cl : Fin 32) (e : TmExec) : State × TmExec :=
  let b := tmDst e.words
  let n := tmLen e.words
  if b % 64 ≠ 0 || n % 64 ≠ 0 then (s, e.failed 0x02)
  else if n = 0 then (s, { e with done := true })
  else match s.tmTo cl b n with
    | some d => (s, { e with dst := d, total := unitsIn n })
    | none => (s, e.failed 0x01)

def State.fillUnit (s : State) (e : TmExec) : State × TmExec :=
  let o := 4096 * e.units
  let n := min 4096 (tmLen e.words - o)
  let d := (List.replicate (n / 8) (toBytes (word e.words 5).toNat 8)).flatten
  (s.writeMem (e.dst + o) (whole d), e.moved)

def execTmFill (cl : Fin 32) (q : Fin 16) (units : Nat) (s : State) : Result :=
  .next ((s.tmStart cl q (· = 2) fun t e => t.fillBegin cl e).tmMove cl q 2 State.fillUnit units)

/-- NOP, and the reserved OPs, which end with 0x03. -/
def execTmNop (cl : Fin 32) (q : Fin 16) (s : State) : Result :=
  .next (s.tmStart cl q (fun op => op = 5 || 5 < op) fun t e => (t, { e with done := true }))

/-! ### XFORM (06 R155 to R159) -/

/-- 06 R153: every rule a pair of descriptors of an XFORM meets. -/
def xformValid (sd dd : List Word) : Bool :=
  layoutValid sd false true && layoutValid dd true true && xformAgree (layoutOf sd) (layoutOf dd) && skewValid (layoutOf dd)

/-- 06 R154. -/
def xformAligned (l : Layout) (a : Nat) : Bool := l.w < 8 || a % (l.w / 8) = 0

/-- The checks of 06 R155 behind 0x05, and the translated addresses. -/
def State.xformPlace (s : State) (cl : Fin 32) (e : TmExec) (src dst : Layout) : Except Nat (Nat × Nat) :=
  let a := tmSrc e.words
  let b := tmDst e.words
  if !xformAligned src a || !xformAligned dst b then .error 0x02
  else match src.footprint a, dst.footprint b with
    | some f, some g =>
      match s.tmFrom cl f.1 f.2, s.tmTo cl g.1 g.2 with
      | some m, some d =>
        if meet (m, f.2) (d, g.2) then .error 0x04
        else .ok (m + a - f.1, d + b - g.1)
      | _, _ => .error 0x01
    | _, _ => .error 0x01

def State.xformBegin (s : State) (cl : Fin 32) (e : TmExec) : State × TmExec :=
  let sa := bits (word e.words 4) 31 0
  let da := bits (word e.words 4) 63 32
  let st := firstStatus [layoutAddr sa, layoutAddr da]
  if st ≠ 0 then (s, e.failed st)
  else
    let ms := clusterAddr cl sa
    let md := clusterAddr cl da
    let t := s.touch [(ms, 64), (md, 64)]
    let sd := toWords 8 (s.peekBytes ms 64)
    let dd := toWords 8 (s.peekBytes md 64)
    if t.2 ≠ [] then (t.1.disposeAll t.2, e.failed 0x05)
    else if !xformValid sd dd then (t.1, e.failed 0x04)
    else
      let dst := layoutOf dd
      match t.1.xformPlace cl e (layoutOf sd) dst with
      | .error st => (t.1, e.failed st)
      | .ok (m, d) =>
        (t.1, { e with src := m, dst := d, srcD := sd, dstD := dd, total := (dst.count * dst.w + 32767) / 32768 })

def State.xformUnit (s : State) (e : TmExec) : State × TmExec :=
  let dst := layoutOf e.dstD
  let items := xformItems e e.units
  let t := s.touch (items.filterMap fun x => x.2.map fun b => bitRange b dst.w)
  if t.2 ≠ [] then (t.1.disposeAll t.2, e.failed 0x05)
  else
    let ws : List BitWrite := items.map fun x =>
      { at_ := dst.bitAt e.dst (dst.indices x.1), width := dst.w
        value := match x.2 with
          | some b => s.peekBits b dst.w
          | none => (word e.words 5).toNat % 2 ^ dst.w }
    (t.1.writeBits ws, e.moved)

def execTmXform (cl : Fin 32) (q : Fin 16) (units : Nat) (s : State) : Result :=
  .next ((s.tmStart cl q (· = 1) fun t e => t.xformBegin cl e).tmMove cl q 1 State.xformUnit units)

/-! ### The end of a descriptor (02 R45, R48, R49) -/

/-- The completion word is written, HEAD moves on, and the queue may start its next descriptor. -/
def State.tmEnd (s : State) (cl : Fin 32) (e : TmExec) : State :=
  let s1 := s.updCluster cl fun c => { c with tmExec := c.tmExec.filter fun f => f.q != e.q }
  ((s1.ringCompletion cl (word e.words 0) e.units e.status.toNat).takeEntry cl (.tm e.q)).sweepStale

def execTmDescriptorComplete (cl : Fin 32) (q : Fin 16) (s : State) : Result :=
  match (s.cluster cl).tmOf q with
  | some e => .next (if e.done && (s.cluster cl).pstate = 0 then s.tmEnd cl e else s)
  | none => .next s

end Sys2Proof.Machine
end

