-- ==== Sys2Proof/Machine/Tiles.lean ====
section
/-! DEFINITION. Tiles (10 R222 to R239): the Nougat table, room in the pools, TILE_PIN and TILE_UNPIN, the ends of promotions
and heals. -/

namespace Sys2Proof.Machine

open Sys2Proof

/-! ### Pools (10 R221, R228, R235, R236) -/

/-- 4 KiB units of the pool an owner's copies lie in. -/
def State.poolUnits (s : State) (owner : Nat) (d1 : Bool) : Nat :=
  let ar : Area := if h : owner < 12 then (match (s.part ⟨owner, h⟩).cfg with
      | some r => if d1 then r.d1Pool else r.d2Pool
      | none => ⟨0, 0⟩) else if d1 then s.arb.d1Share else s.arb.d2Share
  ar.gib.toNat * 262144

def Nougat.units (n : Nougat) : Nat := n.size.toNat + 1

/-- The space an entry takes in a tier's pool: a copy, or a copy that is being written. -/
def Nougat.space (n : Nougat) (d1 : Bool) : Option (Nat × Nat) :=
  if d1 then (if n.inD1 || n.need1 then some (n.d1Loc.toNat, n.units) else none)
  else if n.inD2 || n.need2 then some (n.d2Loc.toNat, n.units) else none

/-- The spaces taken in the pool of an owner. -/
def State.taken (s : State) (owner : BitVec 4) (d1 : Bool) : List (Nat × Nat) :=
  s.nougat.filterMap fun e => e.2.bind fun n => if n.owner = owner then n.space d1 else none

/-- Unit l of the pool begins n free units. -/
def gapAt (taken : List (Nat × Nat)) (pool l n : Nat) : Bool := l + n ≤ pool && taken.all fun r => !meets r l n

/-- A place for n units: the spec states no order among the gaps, so a free value names the place, and where that is no gap
the first gap is taken. none where no gap is wide enough. -/
def placeFor (taken : List (Nat × Nat)) (pool n draw : Nat) : Option Nat :=
  let l := draw % (pool + 1)
  if gapAt taken pool l n then some l
  else (0 :: taken.map fun r => r.1 + r.2).find? fun l => gapAt taken pool l n

/-- The copy of an entry may be removed for room (10 R236): it is there and not being read, and a pin holds no D1 copy. -/
def State.removable (s : State) (owner : BitVec 4) (d1 : Bool) (e : Nat) (n : Nougat) : Bool :=
  n.owner = owner && (if d1 then n.inD1 && n.pin = 0 && !s.copying e else n.inD2 && !(n.need1 && n.st ≠ 1))

/-- The removable copy with the lowest LAST_USE. -/
def State.oldest (s : State) (ok : Nat → Nougat → Bool) : Option Nat :=
  (s.nougat.foldl (fun (b : Option (Nat × Nougat)) x =>
    match x.2 with
    | none => b
    | some n =>
      if !ok x.1 n then b
      else match b with
        | none => some (x.1, n)
        | some (_, m) => if n.lastUse < m.lastUse then some (x.1, n) else b) none).map (·.1)

/-- Remove one copy of an entry (10 R236). -/
def State.removeCopy (s : State) (e : Nat) (d1 : Bool) : State :=
  match s.nougatAt e with
  | none => s
  | some n => s.setNougat e (Nougat.settle (if d1 then { n with inD1 := false } else { n with inD2 := false }))

/-- Make room for n units in a pool, removing copies in ascending order of LAST_USE until a gap is wide enough. -/
def State.makeRoom (s : State) (owner : BitVec 4) (d1 : Bool) (n : Nat) : Nat → Option (State × Nat)
  | 0 => none
  | fuel + 1 =>
    match placeFor (s.taken owner d1) (s.poolUnits owner.toNat d1) n (Config.freeNat s.freeCtr) with
    | some l => some (s.drawn, l)
    | none =>
      match s.oldest (s.removable owner d1) with
      | some e => (s.removeCopy e d1).makeRoom owner d1 n fuel
      | none => none

/-- Room for n units, with as many removals as the table has entries. -/
def State.room (s : State) (owner : BitVec 4) (d1 : Bool) (n : Nat) : Option (State × Nat) :=
  s.makeRoom owner d1 n (s.nougat.length + 1)

/-! ### Resolving a handle (10 R223, R224, R228, R230) -/

def State.bindingAt (s : State) (p : Fin 12) (i : Nat) : Option Binding := SMap.get (fun _ => none) (s.part p).bindings i

/-- What a handle names. -/
structure Resolved where
  b    : Binding
  tile : Nat
  start : Nat
  size : Nat

inductive Resolve where
  | refuse (reason : Nat)
  /-- the directory entry could not be read -/
  | unread
  | tile (r : Resolved)

/-- The steps of R230 that TILE_PIN and TILE_UNPIN share; live says that the namespace must be readable (TILE_PIN). -/
def State.resolve (s : State) (p : Fin 12) (handle : Nat) (live : Bool) : Resolve :=
  match s.bindingAt p (handle / 2 ^ 36 % 16) with
  | none => .refuse 0x01
  | some b =>
    let n := b.nsid.toNat
    if !b.pin then .refuse 0x01
    else if live && !s.nsReadable n then .refuse 0x09
    else match s.tileEntry n (handle % 2 ^ 36) with
      | .invalid => .refuse 0x02
      | .unreadable => .unread
      | .tile start size => .tile { b := b, tile := handle % 2 ^ 36, start := start, size := size }

/-- OWNER and SGT of the key of R228. -/
def State.keyOf (s : State) (p : Fin 12) (b : Binding) : BitVec 4 × BitVec 16 :=
  if s.shareEn && b.share then (0xF, b.sgt) else (BitVec.ofNat 4 p.val, 0)

/-- The entry with a key. -/
def State.findEntry (s : State) (p : Fin 12) (r : Resolved) : Option Nat :=
  let k := s.keyOf p r.b
  (s.nougat.find? fun e => match e.2 with
    | some n => !n.stale && n.nsid = r.b.nsid && n.tile.toNat = r.tile && n.owner = k.1 && n.sgt = k.2
    | none => false).map (·.1)

def nougatMax : Nat := 1048576

/-- The lowest number that no entry has. -/
def firstGap (m : SMap (Option Nougat)) (i : Nat) : Nat :=
  match m with
  | [] => i
  | (k, _) :: r => if k = i then firstGap r (i + 1) else i

/-- A number for a new entry; where none is free the entry with the oldest LAST_USE among those without pin or promotion is
freed, but for one whose copy is being read (10 R236). -/
def State.newEntry (s : State) : Option (State × Nat) :=
  if s.nougat.length < nougatMax then some (s, firstGap s.nougat 0)
  else match s.oldest (fun e n => n.pin = 0 && n.st ≠ 1 && n.st ≠ 2 && !s.copying e) with
    | some e => some (s.setNougat e none, e)
    | none => none

/-! ### Taking a pin (10 R230) -/

/-- A new entry of a key, with no copy. -/
def State.freshEntry (s : State) (p : Fin 12) (r : Resolved) : Nougat :=
  let k := s.keyOf p r.b
  { nsid := r.b.nsid, tile := BitVec.ofNat 36 r.tile, size := BitVec.ofNat 12 (r.size - 1), owner := k.1, sgt := k.2
    pin := 0, pmask := 0, st := 3, inD1 := false, inD2 := false, d1Loc := 0, d2Loc := 0, lastUse := s.time }

/-- The entry for the key, or a new one. -/
def State.entryFor (s : State) (p : Fin 12) (r : Resolved) : Option (State × Nat × Nougat) :=
  match s.findEntry p r with
  | some e => (s.nougatAt e).map fun n => (s, e, n)
  | none => s.newEntry.map fun x => (x.1, x.2, x.1.freshEntry p r)

/-- Begin a promotion (10 R235): the place of the D1 copy is made, and, from F, that of the D2 copy where it fits. The reason
of a refusal otherwise. -/
def State.promote (s : State) (p : Fin 12) (e : Nat) (n : Nougat) : Except Nat State :=
  if n.units > s.poolUnits n.owner.toNat true then .error 0x03
  else match s.room n.owner true n.units with
    | none => .error 0x04
    | some (t, l) =>
      let m := { n with need1 := true, d1Loc := BitVec.ofNat 32 l }
      if n.inD2 then .ok (t.setNougat e (some { m with st := 2 }))
      else
        let u := (t.setNougat e (some { m with st := 1 })).count (some p) 16 1
        match u.room n.owner false n.units with
        | some (v, k) => .ok (v.setNougat e (some { m with st := 1, need2 := true, d2Loc := BitVec.ofNat 32 k }))
        | none => .ok u

/-- The Nougat step of R230, and the promotion it begins. -/
def State.takePin (s : State) (p : Fin 12) (r : Resolved) : Except Nat (State × Nat) :=
  match s.entryFor p r with
  | none => .error 0x05
  | some (t, e, n) =>
    let held := t.ledgerOf p e
    if held = 0 && (t.part p).ledger.length ≥ 65536 then .error 0x06
    else if n.pin ≥ 65535 then .error 0x07
    else
      let m := { n with pin := n.pin + 1, pmask := n.pmask ||| BitVec.ofNat 12 (2 ^ p.val), lastUse := t.time }
      let u := ((t.setNougat e (some m)).setLedger p e (held + 1)).count (some p) 15 1
      if m.inD1 || m.st ≠ 3 then .ok (u, e)
      else match u.promote p e m with
        | .ok v => .ok (v, e)
        | .error st => .error st

/-! ### TILE_PIN and TILE_UNPIN -/

/-- A refusal (10 R232): status 0x06, the reason recorded. -/
def State.tileRefuse (s : State) (cl : Fin 32) (e : TmExec) (reason : Nat) : State × TmExec :=
  let w : Word := BitVec.ofNat 64 (tmHandle e.words * 2 ^ 24 + bits (word e.words 0) 31 16 * 2 ^ 8 + reason)
  (s.updCluster cl fun c => { c with tileReason := SMap.set (fun _ => 0) c.tileReason e.q.val w }, e.failed 0x06)

def pinOnly : Nat := 0xFFFFFFFFFFFF

/-- Status and translated address of DST over the tile's units (10 R230). -/
def State.pinDest (s : State) (cl : Fin 32) (dst n : Nat) : Except Nat Nat :=
  if dst % 64 ≠ 0 then .error 0x02
  else match s.viewRange cl dst n with
    | some (.d1, m) => .ok m
    | some (.window c o, m) => if s.tmDest cl (.window c o) then .ok m else .error 0x01
    | _ => .error 0x01

def State.pinBegin (s : State) (cl : Fin 32) (e : TmExec) : State × TmExec :=
  match s.partOf cl with
  | none => s.tileRefuse cl e 0x01
  | some p =>
    match s.resolve p (tmHandle e.words) true with
    | .refuse c => s.tileRefuse cl e c
    | .unread => (s, e.failed 0x05)
    | .tile r =>
      let dst := tmDst e.words
      let place := if dst = pinOnly then .ok 0 else s.pinDest cl dst (r.size * 4096)
      match place with
      | .error st => (s, e.failed st)
      | .ok d =>
        match s.takePin p r with
        | .error c => s.tileRefuse cl e c
        | .ok (t, n) => (t, { e with pinned := some n, dst := d, total := if dst = pinOnly then 0 else r.size })

/-- A pin whose entry is resident without a D1 copy, as a heal of its D2 copy leaves it, goes on with a promotion; where that is refused
its pin is undone (10 R230, R237). -/
def State.repromote (s : State) (cl : Fin 32) (e : TmExec) (i : Nat) (n : Nougat) : State × TmExec :=
  match s.partOf cl with
  | none => (s, e)
  | some p =>
    match s.promote p i n with
    | .ok t => (t, e)
    | .error c => (s.unpinOne p i).tileRefuse cl { e with pinned := none } c

/-- One unit of the copy, while the D1 copy is there; a pin that only pins is done then. A damaged copy is healed, and the
descriptor goes on from the same unit (10 R239). -/
def State.pinUnit (cl : Fin 32) (s : State) (e : TmExec) : State × TmExec :=
  match e.pinned.bind s.nougatAt, e.pinned with
  | some n, some i =>
    if n.st ≠ 3 then (s, e)
    else if !n.inD1 then s.repromote cl e i n
    else if e.units ≥ e.total then (s, { e with done := true })
    else
      let g := s.readRaw .requester (s.d1Copy n + 4096 * e.units) 4096
      if g.ues ≠ [] then (g.st.disposeAll g.ues, e)
      else
        let t := g.st.setNougat i (some { n with lastUse := s.time })
        (t.writeMem (e.dst + 4096 * e.units) (whole g.data), e.moved)
  | _, _ => (s, e)

/-- The units to move, and, for a pin only, the moment at which its tile is in D1. -/
def execTilePin (cl : Fin 32) (q : Fin 16) (units : Nat) (s : State) : Result :=
  .next ((s.tmStart cl q (· = 3) fun t e => t.pinBegin cl e).tmMove cl q 3 (State.pinUnit cl) units).sweepStale

def State.unpinBegin (s : State) (cl : Fin 32) (e : TmExec) : State × TmExec :=
  match s.partOf cl with
  | none => s.tileRefuse cl e 0x01
  | some p =>
    match s.resolve p (tmHandle e.words) false with
    | .refuse c => s.tileRefuse cl e c
    | .unread => (s, e.failed 0x05)
    | .tile r =>
      match s.findEntry p r with
      | none => s.tileRefuse cl e 0x08
      | some n => if s.ledgerOf p n = 0 then s.tileRefuse cl e 0x08 else (s.unpinOne p n, { e with done := true })

def execTileUnpin (cl : Fin 32) (q : Fin 16) (s : State) : Result :=
  .next (s.tmStart cl q (· = 4) fun t e => t.unpinBegin cl e)

/-! ### The ends of promotions and heals (10 R235, R239) -/

/-- The tile read from F, none when it cannot be read (10 R239). -/
def State.tileFromF (s : State) (n : Nougat) : Option (List Byte) :=
  match s.tileEntry n.nsid.toNat n.tile.toNat with
  | .tile start _ => (s.readUnits n.nsid.toNat start n.units).map fun us => us.flatMap unitBytes
  | _ => none

/-- The tile of an entry that lacks a copy: from its D2 copy, else from F. A D2 copy that cannot be read begins to heal. -/
inductive Fetch where
  | wait
  | damaged (s : State)
  | data (s : State) (d : List Byte)
  | failed (s : State)

def State.fetchTile (s : State) (n : Nougat) : Fetch :=
  if n.inD2 then
    let g := s.readRaw .requester (s.d2Copy n) n.bytes
    if g.ues ≠ [] then .damaged (g.st.disposeAll g.ues) else .data g.st g.data
  else
    match s.tileEntry n.nsid.toNat n.tile.toNat with
    | .tile start _ => if s.writeLocked n.nsid.toNat start n.units then .wait
      else
        let t := s.noteRead n.nsid.toNat start n.units
        match s.tileFromF n with
        | some d => .data t d
        | none => .failed t
    | _ => .failed s

/-- The copies are written and the entry is resident. -/
def State.placeCopies (s : State) (e : Nat) (n : Nougat) (d : List Byte) : State :=
  let s1 := if n.need1 then s.writeMem (s.d1Copy n) (whole d) else s
  let s2 := if n.need2 then s1.writeMem (s1.d2Copy n) (whole d) else s1
  s2.setNougat e (Nougat.settle { n with
    st := 3, inD1 := n.inD1 || n.need1, inD2 := n.inD2 || n.need2, need1 := false, need2 := false, heals := 0
    lastUse := s.time })

/-- The descriptors of a cluster that wait on entry e end with 0x05 and give their pins back (10 R239). -/
def State.failPins (s : State) (e : Nat) (cl : Fin 32) : State :=
  let mine (x : TmExec) : Bool := x.pinned == some e && !x.done
  let k := ((s.cluster cl).tmExec.filter mine).length
  let s1 := s.updCluster cl fun c => { c with
    tmExec := c.tmExec.map fun x => if mine x then { x with status := 0x05, done := true, pinned := none } else x }
  match s.partOf cl with
  | some p => (List.range k).foldl (fun (t : State) _ => t.unpinOne p e) s1
  | none => s1

/-- The read from F has failed: the waiting pins are released and, unless another pin holds it, the entry is freed. -/
def State.fetchFailed (s : State) (e : Nat) : State :=
  let s1 := allClusters.foldl (fun (t : State) cl => t.failPins e cl) s
  match s1.nougatAt e with
  | none => s1
  | some n => s1.setNougat e (Nougat.settle { n with st := 3, need1 := false, need2 := false, heals := 0 })

def execPromotionComplete (e : Nat) (s : State) : Result :=
  match s.nougatAt e with
  | none => .next s
  | some n =>
    if n.st = 1 || n.st = 2 then
      match s.fetchTile n with
      | .wait => .next s
      | .damaged t => .next t
      | .failed t => .next (t.fetchFailed e)
      | .data t d => .next (t.placeCopies e n d)
    else .next s

/-- The heal of one copy is counted, for a private copy at its partition too (20 Table 20-2), and traced (20 Table 20-8, kind 0x04). -/
def State.countOne (s : State) (n : Nougat) : State :=
  let p : Option (Fin 12) := if h : n.owner.toNat < 12 then some ⟨n.owner.toNat, h⟩ else none
  let w0 := n.nsid.toNat * 2 ^ 54 + n.tile.toNat * 2 ^ 18 + n.size.toNat * 2 ^ 6 + n.owner.toNat
  (({ s with tileHeals := s.tileHeals + 1 }).count p 3 1).trace 4 p 0 0 (BitVec.ofNat 64 w0) 0

/-- Every copy that was fetched again counts (10 R239). -/
def State.countHeal (s : State) (n : Nougat) : State := (List.range n.heals).foldl (fun t _ => t.countOne n) s

def execHealComplete (e : Nat) (s : State) : Result :=
  match s.nougatAt e with
  | none => .next s
  | some n =>
    if n.st = 4 then
      match s.fetchTile n with
      | .wait => .next s
      | .damaged t => .next t
      | .failed t => .next (t.fetchFailed e)
      | .data t d => .next ((t.placeCopies e n d).countHeal n)
    else .next s

end Sys2Proof.Machine
end

