-- ==== Sys2Proof/Machine/Commit.lean ====
section
/-! DEFINITION. The commit ring (10 R241, R242): the taking of a record and the write it becomes. -/

namespace Sys2Proof.Machine

open Sys2Proof

def cmSrc (ws : List Word) : Nat := bits (word ws 1) 47 0
def cmFirst (ws : List Word) : Nat := (word ws 2).toNat / 4096
def cmLen (ws : List Word) : Nat := bits (word ws 3) 31 0

/-- Records of the cluster's rings are taken: no end of a job has begun (17 R383). -/
def State.ringsOpen (s : State) (cl : Fin 32) : Bool :=
  (s.cluster cl).pstate = 0 && match s.partOf cl with
    | some p => !((s.part p).job.state == .ending || (s.part p).job.state == .vacating)
    | none => true

/-- The binding slot the record names, bound for commit. -/
def State.cmBinding (s : State) (cl : Fin 32) (ws : List Word) : Option Binding :=
  match (s.partOf cl).bind fun p => s.bindingAt p (bits (word ws 0) 3 0) with
  | some b => if b.commit then some b else none
  | none => none

/-- The first status of 10 Table 10-15 in the order of R242, behind 0x20 and 0x05, and the translated source. -/
def State.cmCheck (s : State) (cl : Fin 32) (ws : List Word) : Except Nat (Binding × Nat) :=
  if !(bits (word ws 0) 15 4 = 0 && bits (word ws 1) 63 48 = 0 && bits (word ws 3) 63 32 = 0 &&
      (ws.drop 4).all (· = 0)) then .error 0x03
  else if cmSrc ws % 64 ≠ 0 || bits (word ws 2) 11 0 ≠ 0 || cmLen ws % 4096 ≠ 0 || cmLen ws = 0 then .error 0x02
  else match s.cmBinding cl ws with
    | none => .error 0x10
    | some b =>
      if !s.nsWritable b.nsid.toNat then .error 0x21
      else if s.nsBlocks b.nsid.toNat < cmFirst ws + cmLen ws / 4096 then .error 0x11
      else match s.viewSpan cl (cmSrc ws) (cmLen ws) with
        | some (_, m) => .ok (b, m)
        | none => .error 0x01

/-- Read n units from a on, up to the first that meets an uncorrectable error. -/
def readUnitsMem : Nat → State → Nat → State × List Unit4K × Bool
  | 0, s, _ => (s, [], false)
  | n + 1, s, a =>
    let g := s.readRaw .requester a 4096
    if g.ues ≠ [] then (g.st.disposeAll g.ues, [], true)
    else
      let r := readUnitsMem n g.st (a + 4096)
      (r.1, ofUnit g.data :: r.2.1, r.2.2)

/-- The hub takes the next record: its checks, its source, and its place among the range locks, behind the commands that wait for entries of
the table (16 R361). -/
def execCommitRecord (cl : Fin 32) (s : State) : Result :=
  if (s.cluster cl).commitExec.isSome || !s.ringsOpen cl || s.tableFull || !s.lockRoom 1 then .next s
  else match s.ringEntry cl .commit (fun _ => true) with
    | .nothing => .next s
    | .refused t => .next t
    | .words t0 ws =>
      let t := t0.takeEntry cl .commit
      let put (u : State) (x : CommitExec) : Result := .next (u.updCluster cl fun c => { c with commitExec := some x })
      match t.cmCheck cl ws with
      | .error st => put t { words := ws, status := BitVec.ofNat 8 st, units := 0, lock := none, data := [] }
      | .ok (b, m) =>
        let r := readUnitsMem (cmLen ws / 4096) t m
        let w := widenRange (t.nsIsTile b.nsid.toNat) (cmFirst ws) (cmLen ws / 4096)
        let l := r.1.addLock b.nsid.toNat w.1 w.2 false false
        put l.1 { words := ws, status := if r.2.2 then 0x05 else 0, units := 0, lock := some l.2, data := r.2.1 }

/-- The class of a commit's data (13 Table 13-4). -/
def State.cmClass (s : State) (nsid : Nat) : Class := if s.nsIsTile nsid then .frozen else .warm

/-- Units of the next part of a commit: up to the end of a 1 MiB map unit (13 R283), so that a record longer than the write buffer
enters it part by part. -/
def CommitExec.part (x : CommitExec) : Nat :=
  min (x.data.length - x.units) (256 - (cmFirst x.words + x.units) % 256)

/-- Write the parts that the buffer and the groups have room for, each whole. -/
def State.cmParts (s : State) (p : Option (Fin 12)) (n : Nat) (x : CommitExec) : Nat → State × CommitExec
  | 0 => (s, x)
  | fuel + 1 =>
    let k := x.part
    let first := cmFirst x.words + x.units
    if k = 0 || !s.hostRoom p (s.cmClass n) (s.writeCost n first k) then (s, x)
    else (((s.writeUnits n first (s.cmClass n) ((x.data.drop x.units).take k)).countWrite p (k * 4096)).writeThrough).cmParts p n
      { x with units := x.units + k } fuel

/-- What is to be done next with the record: end it with a status, or go on with the parts written. -/
inductive CmNext where
  | ends (s : State) (status units : Nat)
  | goes (s : State) (x : CommitExec)

/-- The write meets the Nougat table once, as one step (01 R28, R29), and enters the write buffer as it has room; it waits for its lock
first. Where the buffer is too small to be flushed on a loss, its data is programmed before the record completes (13 R305). -/
def State.cmWrite (s : State) (cl : Fin 32) (x : CommitExec) : CmNext :=
  match x.lock with
  | none => .ends s x.status.toNat 0
  | some l =>
    match (s.locks.find? fun k => k.id = l).map fun k => k.nsid.toNat with
    | none => .ends s x.status.toNat 0
    | some n =>
      let first := cmFirst x.words
      if !s.lockFree l then .goes s x
      else if x.units = 0 && !s.nsWritable n then .ends (s.dropLock l) 0x21 0
      else if x.units = 0 && s.pinnedRange n first x.data.length then .ends (s.dropLock l) 0x20 0
      else
        let t := if x.units = 0 then s.dropCopies n first x.data.length else s
        let r := t.cmParts (s.partOf cl) n x (x.data.length + 1)
        if r.2.units < x.data.length then
          -- copies go with the first part that is written
          if r.2.units = 0 then .goes s x else .goes r.1 r.2
        else .ends ((r.1.dropLock l).count (s.partOf cl) 12 x.data.length) x.status.toNat x.data.length

def execCommitComplete (cl : Fin 32) (s : State) : Result :=
  match (s.cluster cl).commitExec with
  | none => .next s
  | some x =>
    match s.cmWrite cl x with
    | .goes t y => .next (t.updCluster cl fun c => { c with commitExec := some y })
    | .ends t st n =>
      .next ((t.updCluster cl fun c => { c with commitExec := none }).ringCompletion cl (word x.words 0) n st)

end Sys2Proof.Machine
end

