-- ==== Sys2Proof/Machine/IndexRead.lean ====
section
/-! DEFINITION. The index-read ring and the Praline units (14 R319 to R334), and HUB_TILE_CTL.SHARE_EN (10 R238). -/

namespace Sys2Proof.Machine

open Sys2Proof

/-! ### Taking a record (14 R321, R333) -/

/-- No record of the ring that executes keeps this one from being taken. -/
def Cluster.ixFree (c : Cluster) (ws : List Word) : Bool :=
  c.ixExec.length < 64 && (!ixNames ws || c.ixExec.all fun e =>
    !(ixNames e.words && ixCtx e.words = ixCtx ws && (ixOp e.words = 0 || ixOp ws = 0)))

/-! ### Checks (14 R322) -/

/-- Status 0x03 of the words. -/
def ixWords (ws : List Word) : Bool :=
  bits (word ws 1) 63 48 = 0 && (ws.drop 3).all (· = 0) && match ixOp ws with
    | 0 => word ws 2 = 0
    | 1 => bits (word ws 2) 23 4 = 0
    | 2 => ixCtx ws = 0
    | 3 => ixCtx ws = 0 && word ws 1 = 0 && word ws 2 = 0
    | _ => false

/-- Status 0x02. -/
def ixAligned (ws : List Word) : Bool :=
  ixAddr ws % 64 = 0 && (ixOp ws ≠ 2 ||
    (ixOffset ws % 64 = 0 && ixLen ws % 64 = 0 && ixOffset ws + ixLen ws ≤ 4096))

/-- The translated ADDR of n bytes: the D1 region or one memory of one window, no instruction memory. -/
def State.ixPlace (s : State) (cl : Fin 32) (a n : Nat) : Option Nat :=
  match s.viewRange cl a n with
  | some (.d1, m) => some m
  | some (.window _ o, m) =>
    match clMemOf o with
    | some (.imem _) => none
    | _ => some m
  | _ => none

/-- Statuses 0x10, 0x12 and 0x11; the namespace otherwise. -/
def State.ixNamespace (s : State) (cl : Fin 32) (ws : List Word) : Except Nat Nat :=
  match (s.partOf cl).bind fun p => s.bindingAt p (bits (word ws 2) 63 60) with
  | none => .error 0x10
  | some b =>
    let n := b.nsid.toNat
    if !s.nsReadable n then .error 0x12 else if s.nsBlocks n ≤ ixUnit ws then .error 0x11 else .ok n

/-- The first status of 14 R322, else the namespace (0 for CTX_LOAD) and the translated ADDR. -/
def State.ixCheck (s : State) (cl : Fin 32) (ws : List Word) : Except Nat (Nat × Nat) :=
  if !ixWords ws then .error 0x03
  else if !ixAligned ws then .error 0x02
  else if ixNames ws && match s.ixContext cl ws with
      | none => true
      | some x => ixOp ws = 1 && !s.ctxLoaded x then .error 0x04
  else
    let ns := if ixOp ws = 0 then .ok 0 else s.ixNamespace cl ws
    match ns with
    | .error st => .error st
    | .ok n =>
      match s.ixPlace cl (ixAddr ws) (ixBytes ws) with
      | some m => .ok (n, m)
      | none => .error 0x01

/-- A record executes that waits for nothing but its completion. -/
def State.putIx (s : State) (cl : Fin 32) (ws : List Word) (st : Nat) : State :=
  s.updCluster cl fun c => { c with
    ixNext := c.ixNext + 1
    ixExec := c.ixExec ++ [{ id := c.ixNext, words := ws, nsid := 0, status := BitVec.ofNat 8 st, out := [], count := 0 }] }

/-- A record is taken when its OP is the row's; run executes it once the checks have passed. -/
def State.ixTake (s : State) (cl : Fin 32) (mine : Nat → Bool) (run : State → List Word → Nat → Nat → State) : State :=
  let c := s.cluster cl
  if c.quiesce || !s.ringsOpen cl then s
  else match s.ringEntry cl .ixr (fun ws => mine (ixOp ws) && c.ixFree ws) with
    | .nothing => s
    | .refused t => t
    | .words t0 ws =>
      let t := t0.takeEntry cl .ixr
      match t.ixCheck cl ws with
      | .error st => t.putIx cl ws st
      | .ok (n, m) => run t ws n m

/-! ### CTX_LOAD (14 R324) -/

/-- The image meets R324. -/
def ctxValid (x : BitVec 2048) : Bool :=
  let w : Word := BitVec.ofNat 64 (ctxWord x 25)
  ctxWord x 24 < 2 ^ 17 && bits w 63 41 = 0 && bits w 39 37 = 0 && bits w 31 27 = 0 && bits w 15 2 = 0 &&
    bits w 36 32 ≤ 16 && (List.range 6).all fun i => ctxWord x (26 + i) = 0

def State.loadContext (s : State) (cl : Fin 32) (ws : List Word) (_ m : Nat) : State :=
  match s.ixContext cl ws with
  | none => s.putIx cl ws 0x04
  | some x =>
    let g := s.readRaw .requester m 256
    if g.ues ≠ [] then ((g.st.disposeAll g.ues).setCtxUp x false).putIx cl ws 0x05
    else
      let v : BitVec 2048 := BitVec.ofNat 2048 (ofBytes g.data)
      if ctxValid v then
        ({ g.st with ctx := SMap.set (fun _ => 0) g.st.ctx x v }.setCtxUp x true).putIx cl ws 0
      else (g.st.setCtxUp x false).putIx cl ws 0x03

def execCtxLoad (cl : Fin 32) (s : State) : Result := .next (s.ixTake cl (· = 0) fun t => t.loadContext cl)

/-! ### PAGE_SCAN, UNIT_READ and NOP (14 R320, R325 to R329, R331) -/

/-- A channel for a unit that lies in no codeword, since it is in the write buffer or unmapped: the spec names no Praline unit for it. -/
def State.freeChannel (s : State) : Fin 64 := ⟨Config.freeNat s.freeCtr % 64, Nat.mod_lt _ (by decide)⟩

/-- A record that has passed its checks reads its unit: where a codeword holds it, as a read of the partition at its die (12 R262); else the
unit is there at once. -/
def State.readForIx (s : State) (cl : Fin 32) (ws : List Word) (n _m : Nat) : State :=
  let c := s.cluster cl
  let e := (cl, c.ixNext)
  let t0 := s.updCluster cl fun c => { c with
    ixNext := c.ixNext + 1
    ixExec := c.ixExec ++ [{ id := c.ixNext, words := ws, nsid := n, wait := some .unit, status := 0, out := [], count := 0 }] }
  let t := t0.fetchPages [] (t0.pagesOf n (ixUnit ws) 1)
  if (t.buffered n (ixUnit ws)).isSome then t.drawn.ixDecoded t.freeChannel e
  else match t.unitCw n (ixUnit ws) with
    | some k => t.dieRead { page := k / 4, cw := ⟨k % 4, Nat.mod_lt _ (by decide)⟩, part := s.partOf cl, ix := [e] }
    | none => t.drawn.ixDecoded t.freeChannel e

def execPageScan (cl : Fin 32) (s : State) : Result := .next (s.ixTake cl (· = 1) fun t => t.readForIx cl)

def execUnitRead (cl : Fin 32) (s : State) : Result := .next (s.ixTake cl (· = 2) fun t => t.readForIx cl)

/-- NOP, checked only for 0x03, and the reserved OPs, which end with 0x03. -/
def execIxrNop (cl : Fin 32) (s : State) : Result :=
  let c := s.cluster cl
  if c.quiesce || !s.ringsOpen cl then .next s
  else match s.ringEntry cl .ixr (fun ws => 3 ≤ ixOp ws && c.ixFree ws) with
    | .nothing => .next s
    | .refused t => .next t
    | .words t ws =>
      .next ((t.takeEntry cl .ixr).putIx cl ws (if ixWords ws then 0 else 0x03))

/-- The output, then the completion word (14 R323); records complete in any order, each once it waits for nothing. -/
def execIndexReadComplete (cl : Fin 32) (i : Fin 64) (s : State) : Result :=
  match (s.cluster cl).ixExec[i.val]? with
  | none => .next s
  | some e =>
    if e.wait.isSome then .next s else
    let s1 := s.updCluster cl fun c => { c with ixExec := c.ixExec.eraseIdx i.val }
    let s2 := if e.out.isEmpty then s1
      else match s1.ixPlace cl (ixAddr e.words) (ixBytes e.words) with
        | some m => s1.writeMem m (whole e.out)
        | none => s1
    .next ((s2.ringCompletion cl (word e.words 0) e.count e.status.toNat).count (s.partOf cl) 11 1)

/-! ### Registers (14 R334, 10 R238) -/

def rangesMeet (b n b' n' : Nat) : Bool := n ≠ 0 && n' ≠ 0 && b < b' + n' && b' < b + n

def State.writePrlPart (s : State) (p : Fin 12) (v : Word) : State :=
  let b := bits v 11 0
  let n := bits v 28 16
  let clash := allParts.any fun q => q != p && rangesMeet b n (s.ctxBase q) (s.ctxCount q)
  if s.jobLoaded p || 4096 < b + n || clash then State.setBit { s with prlRef := true } .prlRefused
  else
    let s1 := s.unloadContexts p
    ({ s1 with prlPart := SMap.set (fun _ => 0) s1.prlPart p.val (v &&& 0x1FFF0FFF) }).unloadContexts p

def execPrlPartCtxWrite (w : Requester) (p : Fin 12) (v : Word) (s : State) : Result :=
  .next (if hubWriter w then s.writePrlPart p v else s)

/-- With sharing off no shared entry exists. -/
def State.writeShareEn (s : State) (en : Bool) : State :=
  if en = s.shareEn then s
  else if s.anyJob then State.setBit { s with shareRef := true } .shareRefused
  else (s.mapNougat fun n => if !en && n.owner = 0xF then none else some n) |> fun t => { t with shareEn := en }

def execShareEnWrite (w : Requester) (en : Bool) (s : State) : Result :=
  .next (if hubWriter w then s.writeShareEn en else s)

end Sys2Proof.Machine
end

