-- ==== Sys2Proof/Machine/Links.lean ====
section
/-! DEFINITION. Fabric links (18 R397 to R411, R424 to R427, 19 R452): their states, flits, routing, PROBE, ANNOUNCE, fault
reports and time alignment. -/

namespace Sys2Proof.Machine

open Sys2Proof

/-! ### States of a link (18 Table 18-2) -/

/-- Links are part of the storage side: they train once it has power (22 R489). -/
def State.linksPowered (s : State) : Bool := !(s.pow.stage == .off || s.pow.stage == .alwaysOn || s.pow.stage == .verified)

def execLinkTrainingStart (l : Fin 36) (s : State) : Result :=
  let k := s.link l
  .next (if k.st == .down && k.enable && k.present && !k.lowPower && s.linksPowered && !s.pow.moduleFault then
    s.setLink l { k with st := .training } else s)

/-- The INIT flits grant the credits of every channel's empty receive buffer, under SEQ 0 (18 Table 18-2, R410). -/
def State.initFlits (s : State) (l : Fin 36) : State :=
  (List.range 5).foldl (fun (t : State) vc => t.emit (.flit l 0 (-1) false (BitVec.ofNat 3 vc) (bufferSegs vc) []))
    (s.linkCount l 0 5)

def execLinkTrained (l : Fin 36) (s : State) : Result :=
  let k := s.link l
  .next (if k.st == .training then (s.setLink l { k with st := .init }).initFlits l else s)

/-- The command is the 1 s limit having passed. -/
def execLinkTrainingTimeout (l : Fin 36) (s : State) : Result :=
  .next (if (s.link l).st == .training then s.linkDown l else s)

/-- SEQ starts at 0 and the INIT flits grant the credits of empty receive buffers (18 Table 18-2, R410). A PROBE goes out on
entering PLAIN. -/
def execInitFlitReceived (l : Fin 36) (fl : Flit) (s : State) : Result :=
  let k := s.link l
  if k.st == .init then
    let t := s.linkCount l 1 1
    .next (if fl.crcOk then
        (t.updLink l fun q => { q with st := .plain, seqTx := 0, seqRx := 0, credits := [], replay := [] }).probe l
      else t.linkCount l 2 1)
  else .next s

/-- 18 Table 18-2, 19 R452: the session's keys become the link keys. -/
def execLinkKeysSet (l : Fin 36) (s : State) : Result :=
  let k := s.link l
  .next (if k.st == .plain then
    (s.setLink l { k with st := .secure, keysel := false, epoch := 0, flits := 0, keyAt := s.time }).pump l else s)

/-- 18 R397, R419. -/
def execLinkLossOfLock (l : Fin 36) (s : State) : Result :=
  .next (if (s.link l).st == .secure then s.linkDown l else s)

/-- 18 R398: three entries to DOWN already lie in this window, and the fourth comes. -/
def execLinkFailed (l : Fin 36) (s : State) : Result :=
  let k := s.link l
  .next (if k.downsWin = s.time.toNat / 10000000000 && k.downs.toNat ≥ 3 then s.linkDown l else s)

/-- 18 R398. -/
def execLinkRetrain (w : Requester) (l : Fin 36) (s : State) : Result :=
  .next (if hubWriter w then s.linkDown l else s)

/-- 18 Table 18-2, 18-16: 0 holds the link in DOWN; from 0 to 1 a FAILED link goes to DOWN. -/
def State.writeLinkEnable (s : State) (l : Fin 36) (en : Bool) : State :=
  let k := s.link l
  let t := s.setLink l { k with enable := en }
  if !en then t.linkDown l
  else if !k.enable && k.st == .failed then t.updLink l fun q => { q with st := .down }
  else t

def execLinkEnableWrite (w : Requester) (l : Fin 36) (en : Bool) (s : State) : Result :=
  .next (if hubWriter w then s.writeLinkEnable l en else s)

/-! ### Flits (18 R399 to R403, R410) -/

/-- A packet the first module that receives it keeps (18 R403, Table 18-5). -/
def packetOk (pk : Packet) : Bool :=
  pk.rsvd = 0 &&
    (if pk.vc = 4 then
      pk.payload.length ≤ 992 && (pk.typ = 0x40 || pk.typ = 0x41 || pk.typ = 0x42 || pk.typ = 0x48 || pk.typ = 0x49 ||
        pk.typ = 0x4A || pk.typ = 0x4B || pk.typ = 0x50 || pk.typ = 0x51)
    else pk.vc.toNat < 4 && pk.payload.length ≤ 4096 && (pk.typ = 0x01 || pk.typ = 0x02 || pk.typ = 0x03 || pk.typ = 0x04))

/-- A packet arrives whole: it waits in the receive buffer; SPDM fragments go to the island (19 R450); one that breaks R403, or
that the link's state does not carry, is dropped and counted. A packet whose TRACE is 1 is logged where it ends (R427). -/
def State.packetIn (s : State) (l : Fin 36) (pk : Packet) : State :=
  if !packetOk pk || !(s.link l).carries pk then (s.flitOut l false pk.vc (segments pk) []).linkCount l 5 1
  else
    let t := if routedType pk.typ && !s.fidIs pk.dstFid then s else s.logPacket 2 l.val pk.srcFid pk
    if pk.typ = 0x41 then t.flitOut l false pk.vc (segments pk) []
    else t.updLink l fun k => { k with rx := k.rx ++ [pk] }

/-- Flits up to an ACK are no longer kept. -/
def Link.acked (k : Link) (ack : BitVec 12) : Link :=
  { k with
    replay := k.replay.filter fun r => (ack - r.1).toNat ≥ 2048
    replayed := k.replayed.filter fun r => (ack - r.1).toNat ≥ 2048 }

/-- How many times a flit has been replayed. -/
def Link.replaysOf (k : Link) (seq : BitVec 12) : Nat := ((k.replayed.find? fun r => r.1 = seq).map (·.2)).getD 0

/-- Credits come back on a channel. -/
def Link.refill (k : Link) (cvc : BitVec 3) (n : Nat) : Link :=
  if cvc.toNat ≤ 4 then
    { k with credits := SMap.set bufferSegs k.credits cvc.toNat (min (bufferSegs cvc.toNat) (k.credit cvc.toNat + n)) }
  else k

/-- A flit fails its tag (18 R401). -/
def State.tagFailure (s : State) (l : Fin 36) : State :=
  let t := (s.linkCount l 4 1).log (.tagFailure l.val)
  (t.faultReport (t.link l).peerFid 0x04).linkDown l

/-- A flit is lost: later ones are discarded until the replay, which a NAK asks for (18 R399, R401). -/
def State.askReplay (s : State) (l : Fin 36) : State :=
  if (s.link l).replaying then s
  else (s.updLink l fun k => { k with replaying := true }).flitOut l true 7 0 []

def execFlitReceive (l : Fin 36) (fl : Flit) (s : State) : Result :=
  let k := s.link l
  if !(k.st == .secure || k.st == .plain) then .next s
  else
    let s1 := s.linkCount l 1 1
    if !fl.crcOk then .next ((s1.linkCount l 2 1).askReplay l)
    else if k.st == .secure && !fl.tagOk then .next (s1.tagFailure l)
    else if fl.seq ≠ k.seqRx then
      .next (if (fl.seq - k.seqRx).toNat < 2048 then s1.askReplay l else s1)
    else
      let s2 := s1.updLink l fun q =>
        ({ (q.acked fl.ack) with seqRx := q.seqRx + 1, replaying := false }).refill fl.cvc fl.credits.toNat
      .next ((fl.packets.foldl (fun (t : State) pk => t.packetIn l pk) s2).pump l)

/-- 18 R402: the flits after ACK are sent again, in order, under their own SEQ. -/
def execNakReplay (l : Fin 36) (ack : BitVec 12) (s : State) : Result :=
  let k := s.link l
  if k.st == .secure || k.st == .plain then
    let k1 := k.acked ack
    let again := k1.replay.map fun r => (r.1, k1.replaysOf r.1 + 1)
    let s1 := s.setLink l { k1 with replayed := again, flits := k1.flits + BitVec.ofNat 64 k1.replay.length }
    let s2 := (s1.linkCount l 0 k1.replay.length).linkCount l 3 k1.replay.length
    .next (k1.replay.foldl (fun (t : State) r => t.emit (.flit l r.1 ((t.link l).seqRx - 1) false 7 0 r.2)) s2)
  else .next s

/-- 18 R402: one SEQ was replayed eight times in a row. -/
def execReplayLimit (l : Fin 36) (s : State) : Result :=
  .next (if (s.link l).replayed.any fun r => 8 ≤ r.2 then s.linkDown l else s)

/-! ### Routing (18 R408, R409) -/

/-- A packet that waits at a link and is routed by R408; FAULT_REPORTs have their own command. -/
def Link.routable (k : Link) : Option Packet := k.rx.find? fun pk => routedType pk.typ && pk.typ ≠ 0x50

/-- A routed packet that cannot go on: dropped, counted, and a put or request is answered with status 0x21 when this module
has a route to its source. -/
def State.unroutable (s : State) (l : Fin 36) (pk : Packet) : State :=
  let t := s.linkCount l 5 1
  if s.fab.valid && (pk.typ = 0x01 || pk.typ = 0x03) then
    t.send (ackPacket t pk.srcFid pk.srcPart pk.vc pk.ord pk.id (bits pk.w3 63 56) 0x21)
  else t

/-- Deliver, forward or drop; without an identity routed packets are dropped (18 R404). -/
def State.routePacket (s : State) (l : Fin 36) (pk : Packet) : State :=
  if s.fidIs pk.dstFid then
    { s with fab := { s.fab with inbox := s.fab.inbox ++ [pk] } }
  else if !s.fab.valid || pk.ttl = 0 then s.unroutable l pk
  else match s.chooseLink pk with
    | some m => s.enqueue m { pk with ttl := pk.ttl - 1 }
    | none => s.unroutable l pk

def execPacketRoute (l : Fin 36) (s : State) : Result :=
  match (s.link l).routable with
  | some pk => .next ((s.takeRx l pk).routePacket l pk)
  | none => .next s

/-! ### PROBE and ANNOUNCE (18 R405, R406) -/

/-- The command is the 100 ms period having passed. -/
def execProbeSend (l : Fin 36) (s : State) : Result :=
  .next (if (s.link l).st == .plain || (s.link l).st == .secure then s.probe l else s)

def execProbeReceive (l : Fin 36) (pk : Packet) (s : State) : Result :=
  .next (if s.rxHas l pk 0x40 then
    (s.takeRx l pk).updLink l fun k => { k with
      peerFid := BitVec.ofNat 16 (bits pk.w2 63 48), peerValid := bit pk.w2 47, peerLink := BitVec.ofNat 6 (bits pk.w2 5 0) }
    else s)

/-- A FAB_LMN entry. -/
def lmnEntry (epoch fid : Nat) : Word := BitVec.ofNat 64 (2 ^ 63 + epoch * 2 ^ 32 + fid)

def State.lmnAt (s : State) (n : Nat) : Word := SMap.get (fun _ => 0) s.fab.lmns n
def State.setLmn (s : State) (n : Nat) (w : Word) : State := { s with fab := { s.fab with lmns := SMap.set (fun _ => 0) s.fab.lmns n w } }

/-- An epoch is newer (18 R406). -/
def newerEpoch (e old : Half) : Bool := 1 ≤ (e - old).toNat && (e - old).toNat < 2 ^ 15

def State.announce (s : State) (l : Fin 36) (pk : Packet) : State :=
  let lmn := bits pk.w2 63 48
  let e : Half := BitVec.ofNat 16 (bits pk.w2 47 32)
  let fid := bits pk.w2 15 0
  let old := s.lmnAt lmn
  let oldE : Half := BitVec.ofNat 16 (bits old 47 32)
  if !s.fab.annEn then s
  else if !bit old 63 || newerEpoch e oldE then (s.setLmn lmn (lmnEntry e.toNat fid)).flood (s.secureBut [l]) pk
  else if e = oldE && bits old 15 0 ≠ fid then
    let t := s.log (.announceConflict lmn)
    if fid < bits old 15 0 then (t.setLmn lmn (lmnEntry e.toNat fid)).flood (s.secureBut [l]) pk else t
  else s

def execAnnounceReceive (l : Fin 36) (pk : Packet) (s : State) : Result :=
  .next (if s.rxHas l pk 0x51 then (s.takeRx l pk).announce l pk else s)

/-! ### Fault reports passed on (18 R425) -/

/-- Forward a report towards its destination. -/
def State.forwardReport (s : State) (l : Fin 36) (pk : Packet) : State :=
  if pk.ttl = 0 then s.linkCount l 5 1
  else match s.chooseLink pk with
    | some m => s.enqueue m { pk with ttl := pk.ttl - 1 }
    | none => s.linkCount l 5 1

/-- Send the count of a suspect. -/
def State.sendCount (s : State) (x : Suspect) : State :=
  if x.count = 0 then s else s.sendReport x.fid x.kind x.count.toNat s.time

/-- The entry of the oldest window. -/
def oldestSuspect (l : List Suspect) : Option Suspect :=
  l.foldl (fun b x => match b with
    | none => some x
    | some y => if x.win < y.win then some x else some y) none

/-- A key enters the cache of 64, with the present window and a count of 0. -/
def State.cacheSuspect (s : State) (fid : Half) (kind : Byte) : State :=
  let rest := s.fab.suspects.filter fun x => !(x.fid = fid && x.kind = kind)
  let new : Suspect := { fid := fid, kind := kind, win := s.faultWin, count := 0 }
  if rest.length < 64 then { s with fab := { s.fab with suspects := rest ++ [new] } }
  else match oldestSuspect rest with
    | some o => State.sendCount { s with fab := { s.fab with suspects := rest.erase o ++ [new] } } o
    | none => s

def absorb (fid : Half) (kind : Byte) (n : Nat) (x : Suspect) : Suspect :=
  if x.fid = fid && x.kind = kind then { x with count := addReports x.count n } else x

/-- A report that this module forwards is absorbed when its key is cached with the present window. -/
def State.passReport (s : State) (l : Fin 36) (pk : Packet) : State :=
  let fid : Half := BitVec.ofNat 16 (bits pk.w2 63 48)
  let kind : Byte := BitVec.ofNat 8 (bits pk.w2 47 40)
  match s.fab.suspects.find? fun x => x.fid = fid && x.kind = kind with
  | some x =>
    if x.win = s.faultWin then
      { s with fab := { s.fab with suspects := s.fab.suspects.map (absorb fid kind (bits pk.w2 31 0)) } }
    else ((s.sendCount x).cacheSuspect fid kind).forwardReport l pk
  | none => (s.cacheSuspect fid kind).forwardReport l pk

def execFaultReportReceive (l : Fin 36) (pk : Packet) (s : State) : Result :=
  if s.rxHas l pk 0x50 then
    let t := s.takeRx l pk
    if t.fidIs pk.dstFid then
      .next (t.incident (BitVec.ofNat 16 (bits pk.w2 63 48)) (BitVec.ofNat 8 (bits pk.w2 47 40)) (bits pk.w2 31 0))
    else .next (if t.fab.valid then t.passReport l pk else t.linkCount l 5 1)
  else .next s

/-- A window's end has passed: the count of an entry of that window or an earlier one is sent and starts again. -/
def State.sendEnded (s : State) (x : Suspect) : State := if x.win = s.faultWin then s else s.sendCount x

def Suspect.ended (win : Nat) (x : Suspect) : Suspect := if x.win = win then x else { x with count := 0 }

/-- 18 R425: the counts of windows that have ended are sent; R424: the reports of earlier windows are forgotten (00 R8). -/
def execFaultWindowEnd (s : State) : Result :=
  let t : State := { s with fab := { s.fab with
    suspects := s.fab.suspects.map (Suspect.ended s.faultWin), reported := s.fab.reported.filter fun r => r.2.2 = s.faultWin } }
  .next (s.fab.suspects.foldl State.sendEnded t)

/-! ### Time alignment (18 R427) -/

/-- The command is the TSYNC period having passed. -/
def execTimesyncSend (l : Fin 36) (s : State) : Result :=
  .next (if (s.link l).st == .secure && s.fab.tsync ≠ 0 then
    s.enqueue l (indigo s 0x42 0 s.time.toNat 0) else s)

def execTimesyncReceive (l : Fin 36) (pk : Packet) (s : State) : Result :=
  .next (if s.rxHas l pk 0x42 then
    (s.takeRx l pk).tlogWrite { w0 := s.time
                                w1 := BitVec.ofNat 64 (3 * 2 ^ 56 + l.val * 2 ^ 48 + (s.link l).peerFid.toNat * 2 ^ 32)
                                w2 := pk.w2 }
    else s)

/-! ### Keys of a link (19 R452) -/

/-- After 2^40 flits or 24 hours. -/
def execKeyUpdate (l : Fin 36) (s : State) : Result :=
  let k := s.link l
  .next (if k.st == .secure && (2 ^ 40 ≤ k.flits.toNat || 86400000000000 ≤ (s.time - k.keyAt).toNat) then
    s.setLink l { k with keysel := !k.keysel, epoch := k.epoch + 1, flits := 0, keyAt := s.time } else s)

/-- The command is the 10 s having passed; an accepted peer's session sets the keys. -/
def execSpdmSessionRetry (l : Fin 36) (accepted : Bool) (s : State) : Result :=
  let k := s.link l
  if k.st == .plain then
    if accepted then
      .next ((s.setLink l { k with st := .secure, keysel := false, epoch := 0, flits := 0, keyAt := s.time }).pump l)
    else .next s
  else .next s

end Sys2Proof.Machine
end

