-- ==== Sys2Proof/Machine/Spill.lean ====
section
/-! DEFINITION. Spill FIFOs (16 R369 to R373): the push of a doorbell, its way from the tail stage through the middle, which lies in the
D1 hub reserve, to the head stage, and pops. -/

namespace Sys2Proof.Machine

open Sys2Proof

def spillStage : Nat := 16
def spillMiddle : Nat := 1048576

/-- Entries that pops removed in the last 3 cycles: the hub does not see their space yet (16 R371). -/
def Spill.unseen (x : Spill) (cycle : Nat) : Nat := (x.popped.filter fun c => cycle < c + 3).length

/-- The FIFO appears full to the hub; so does one whose tail and middle are full while the refill of its head is still to come. -/
def Spill.appearsFull (x : Spill) (cycle : Nat) : Bool :=
  2 * spillStage + spillMiddle ≤ x.depth + x.unseen cycle || (spillStage ≤ x.tail.length && spillMiddle ≤ x.midLen)

/-- Free registers of the head stage, as the hub sees them. -/
def Spill.headRoom (x : Spill) (cycle : Nat) : Nat := spillStage - (x.head.length + x.unseen cycle)

/-- Address of entry i of a cluster's middle (16 R369). -/
def spillAddr (cl : Fin 32) (i : Nat) : Nat := d1Reserve + cl.val * 0x800000 + i % spillMiddle * 8

def State.updSpill (s : State) (cl : Fin 32) (f : Spill → Spill) : State := s.updCluster cl fun c => { c with spill := f c.spill }

/-- A word enters the middle. -/
def State.spillStore (s : State) (cl : Fin 32) (w : Word) : State :=
  let x := (s.cluster cl).spill
  (s.writeMem (spillAddr cl (x.midAt + x.midLen)) (whole (toBytes w.toNat 8))).updSpill cl fun y => { y with midLen := y.midLen + 1 }

/-- The oldest word of the tail beyond its 16 registers goes to the middle. -/
def State.spillSettle (s : State) (cl : Fin 32) : State :=
  match (s.cluster cl).spill.tail with
  | w :: ws => if spillStage ≤ ws.length then (s.updSpill cl fun y => { y with tail := ws }).spillStore cl w else s
  | [] => s

/-- The hub stores a word: in the head stage while nothing waits before it and there is room, and otherwise in the tail. -/
def State.spillPut (s : State) (cl : Fin 32) (w : Word) : State :=
  let x := (s.cluster cl).spill
  if x.tail.isEmpty && x.midLen = 0 && 0 < x.headRoom s.cycle then
    s.updSpill cl fun y => { y with head := y.head ++ [(w, s.cycle + 3)] }
  else (s.updSpill cl fun y => { y with tail := y.tail ++ [w] }).spillSettle cl

/-- Pushes that wait are stored as the hub sees space, oldest first. -/
def State.spillAccept (s : State) (cl : Fin 32) : Nat → State
  | 0 => s
  | n + 1 =>
    match (s.cluster cl).spill.held with
    | w :: ws =>
      if (s.cluster cl).spill.appearsFull s.cycle then s
      else ((s.updSpill cl fun y => { y with held := ws }).spillPut cl w).spillAccept cl n
    | [] => s

/-- A push: it waits in the hub while the FIFO appears full. -/
def State.spillPush (s : State) (cl : Fin 32) (w : Word) : State :=
  (s.updSpill cl fun y => { y with held := y.held ++ [w] }).spillAccept cl ((s.cluster cl).spill.held.length + 1)

/-- The sources of doorbells for a cluster are held back: a push of theirs waits or would wait. -/
def State.spillBlocked (s : State) (cl : Fin 32) : Bool :=
  let x := (s.cluster cl).spill
  !x.held.isEmpty || x.appearsFull s.cycle

/-- Words of the oldest n entries of the middle; an uncorrectable error there is a fault of shared resources. -/
def State.spillLoad (s : State) (cl : Fin 32) : Nat → State × List Word
  | 0 => (s, [])
  | n + 1 =>
    let g := s.readMem (spillAddr cl (s.cluster cl).spill.midAt) 8
    let r := (g.st.updSpill cl fun y => { y with midAt := (y.midAt + 1) % spillMiddle, midLen := y.midLen - 1 }).spillLoad cl n
    (r.1, BitVec.ofNat 64 (ofBytes g.data) :: r.2)

/-- Entries that have waited longest move into the free registers of the head stage. -/
def State.spillRefill (s : State) (cl : Fin 32) : State :=
  let x := (s.cluster cl).spill
  let room := x.headRoom s.cycle
  let m := s.spillLoad cl (min room x.midLen)
  let t := if x.midLen ≤ room then x.tail.take (room - x.midLen) else []
  let u := m.1.updSpill cl fun y => { y with
    tail := y.tail.drop t.length, head := y.head ++ (m.2 ++ t).map fun w => (w, s.cycle + 3) }
  u.spillAccept cl ((u.cluster cl).spill.held.length)

/-- The entry a pop returns at a cycle (16 R370, R371). -/
def Spill.front (x : Spill) (cycle : Nat) : Option Word :=
  match x.head with
  | (w, c) :: _ => if c ≤ cycle then some w else none
  | [] => none

def Spill.pop (x : Spill) (cycle : Nat) : Spill :=
  if (x.front cycle).isSome then
    { x with head := x.head.tail, popped := cycle :: x.popped.filter fun c => cycle < c + 3 }
  else x

/-- A doorbell word (16 Table 16-9). -/
def doorbellWord (kind payload : Nat) : Word := BitVec.ofNat 64 (2 ^ 63 + kind % 128 * 2 ^ 56 + payload % 2 ^ 56)

def State.doorbell (s : State) (cl : Fin 32) (kind payload : Nat) : State := s.spillPush cl (doorbellWord kind payload)

/-- 16 R369, R371. -/
def execDoorbellPush (cl : Fin 32) (kind : BitVec 7) (payload : BitVec 56) (s : State) : Result :=
  .next (s.doorbell cl kind.toNat payload.toNat)

def execSpillRefill (cl : Fin 32) (s : State) : Result := .next (s.spillRefill cl)

end Sys2Proof.Machine
end

