-- ==== Sys2Proof/Machine/Requests.lean ====
section
/-! DEFINITION. Requests to a loaded service (16 R355, R356; 15 Tables 15-3, 15-4; 18 R416): the request area, the assignment
of slots, and the return of responses. -/

namespace Sys2Proof.Machine

open Sys2Proof

/-! ### The request area (16 Table 16-5b) -/

/-- Partition cluster 0. -/
def State.firstCluster (s : State) (p : Fin 12) : Option (Fin 32) := (s.clustersOf p).head?

/-- This cluster is partition cluster 0 of its partition. -/
def State.isFirst (s : State) (cl : Fin 32) : Option (Fin 12) :=
  match s.partOf cl with
  | some p => if s.firstCluster p == some cl then some p else none
  | none => none

/-- The area of a running job, when it is enabled and lies wholly inside the D1 region: its cluster, the module-view address
of slot 0, SLOTS and SLOT_SIZE. -/
def State.reqArea (s : State) (p : Fin 12) : Option (Fin 32 × Nat × Nat × Nat) :=
  if (s.part p).job.state != .running then none
  else match s.firstCluster p with
    | none => none
    | some cl =>
      let c := s.cluster cl
      let size := c.reqKib.toNat * 1024
      if c.reqSlots = 0 then none
      else match s.viewRange cl c.reqBase.toNat (c.reqSlots.toNat * size) with
        | some (.d1, m) => some (cl, m, c.reqSlots.toNat, size)
        | _ => none

/-- The lowest free slot. -/
def State.freeSlot (s : State) (p : Fin 12) (n : Nat) : Option Nat :=
  (List.range n).find? fun i => (s.part p).slots.all fun x => x.1 != i

/-- REQ_LEN and RESP_MAX (15 Table 15-3). -/
def reqLen (d : List Byte) : Nat := field d 0 4
def reqRespMax (d : List Byte) : Nat := field d 24 4

/-- A request longer than a slot fails: status 0x09 to a host, 0x25 on the fabric. -/
def State.answerLong (s : State) (src : ReqSource) : State :=
  match src with
  | .host h _ => s.vendor h 0x09
  | .fabric f fp vc ord id _ => s.send (ackPacket s f fp vc ord id 0 0x25)
  | .dropped => s

/-- The first waiting request takes the lowest free slot, is copied in, and its doorbell is pushed (16 R355); it waits while the spill FIFO
appears full (R371). -/
def State.assignSlot (s : State) (p : Fin 12) : State :=
  match s.reqArea p, (s.part p).requests with
  | some (cl, m, n, size), r :: rest =>
    match if s.spillBlocked cl then none else s.freeSlot p n with
    | none => s
    | some i =>
      let t := s.updPart p fun q => { q with requests := rest }
      if size < reqLen r.2 then t.answerLong r.1
      else
        let u := t.updPart p fun q => { q with slots := q.slots ++ [(i, r.1, s.time)] }
        (u.writeMem (m + i * size) (whole (r.2.take (reqLen r.2)))).doorbell cl 1 i
  | _, _ => s

/-- A request reaches its service: answered at once where no request area stands (16 R356), otherwise it joins those that
wait and the first of them takes a slot. -/
def State.deliverRequest (s : State) (p : Fin 12) (src : ReqSource) (d : List Byte) : State :=
  match s.reqArea p with
  | none => s.answerNone src
  | some _ => (s.updPart p fun q => { q with requests := q.requests ++ [(src, d)] }).assignSlot p

def execRequestSlotAssign (p : Fin 12) (s : State) : Result := .next (s.assignSlot p)

/-- The partition a function's compute commands reach: any for the owner, its own for a tenant (16 R350, 17 R382). -/
def State.reaches (s : State) (f : FnId) (p : Fin 12) : Bool :=
  match f with
  | .pf _ => true
  | .vf t => match (s.part p).cfg with
    | some r => r.tenants.getLsbD t.val
    | none => false

/-- A partition a command names: none is Invalid Field in Command. -/
def State.namedPart (s : State) (f : FnId) (p : BitVec 4) : Option (Fin 12) :=
  if h : p.toNat < 12 then (if s.reaches f ⟨p.toNat, h⟩ then some ⟨p.toNat, h⟩ else none) else none

def execExecuteProgram (h : Hdr) (p : BitVec 4) (request : List Byte) (s : State) : Result :=
  .next (s.hostIo h (.executeProgram h p request) 0 true fun t =>
    match t.namedPart h.fn p with
    | none => t.generic h 0x02
    | some q => t.deliverRequest q (.host h (reqRespMax request)) request)

/-! ### Responses (16 R356) -/

/-- Pieces of 4,096 bytes, at least one. -/
def pieces : Nat → List Byte → List (List Byte)
  | 0, d => [d.take 4096]
  | n + 1, d => if d.length ≤ 4096 then [d] else d.take 4096 :: pieces n (d.drop 4096)

/-- RESPONSE packets (18 R416). -/
def State.sendResponse (s : State) (p : Fin 12) (f : Half) (fp : BitVec 4) (vc : BitVec 3) (ord : Bool) (id : BitVec 40)
    (d : List Byte) : State :=
  let ps := pieces (d.length / 4096) d
  ps.zipIdx.foldl (fun (t : State) x =>
    t.send { dstFid := f, srcFid := t.fab.fid, dstPart := fp, srcPart := BitVec.ofNat 4 p.val, vc := vc, ord := ord
             trace := false, ttl := t.fab.ttl, typ := 0x04, group := (t.part p).group, id := id
             w2 := BitVec.ofNat 64 (x.2 * 4096), w3 := BitVec.ofNat 64 (x.2 * 2 ^ 56 + (ps.length - 1) * 2 ^ 48)
             payload := x.1, rsvd := 0, note := 0, ndb := false }) s

/-- Return a response of len bytes, of which the hub read d; on the fabric its bytes are counted as sent (20 Table 20-2). -/
def State.respond (s : State) (p : Fin 12) (src : ReqSource) (len : Nat) (d : List Byte) : State :=
  match src with
  | .host h _ => (s.emit (.bytes h d)).okay h (BitVec.ofNat 32 len)
  | .fabric f fp vc ord id _ => (s.count (some p) 13 (d.length / 64)).sendResponse p f fp vc ord id d
  | .dropped => s

def ReqSource.respMax : ReqSource → Nat
  | .host _ n => n
  | .fabric _ _ _ _ _ n => n
  | .dropped => 0

/-- A write of CLU_REQ_DONE (16 R356): the response goes back and the slot is free. A
response that cannot be read faults the partition, whose end answers the request. -/
def State.reqDone (s : State) (cl : Fin 32) (v : Word) : State :=
  match s.isFirst cl with
  | none => s
  | some p =>
    match (s.part p).slots.find? fun x => x.1 = bits v 9 0, s.reqArea p with
    | some x, some (_, m, _, size) =>
      let hd := s.readMem (m + x.1 * size) 64
      let len := field hd.data 0 4
      let g := hd.st.readMem (m + x.1 * size) (min len x.2.1.respMax)
      if hd.ues = [] && g.ues = [] then
        ((g.st.updPart p fun q => { q with slots := q.slots.filter fun y => y.1 != x.1 }).respond p x.2.1 len g.data
          ).assignSlot p
      else g.st
    | _, _ => s

def execCluReqDone (c : CoreId) (v : Word) (s : State) : Result := .next (s.reqDone c.cl v)

/-- A write of CLU_REQ_CTL or CLU_REQ_BASE (16 Table 16-5b). -/
def State.writeReqArea (s : State) (cl : Fin 32) (isCtl : Bool) (v : Word) : State :=
  match s.isFirst cl with
  | none => s
  | some p =>
    if !(s.part p).slots.isEmpty then s
    else if isCtl then
      let n := bits v 31 16
      let k := bits v 15 0
      if 1024 < n || (n ≠ 0 && (k < 4 || 1024 < k)) then s
      else s.updCluster cl fun c => { c with reqSlots := BitVec.ofNat 16 n, reqKib := BitVec.ofNat 16 k }
    else if bits v 11 0 ≠ 0 then s
    else s.updCluster cl fun c => { c with reqBase := BitVec.ofNat 48 (bits v 47 0) }

def execRequestAreaWrite (c : CoreId) (isCtl : Bool) (v : Word) (s : State) : Result := .next (s.writeReqArea c.cl isCtl v)

end Sys2Proof.Machine
end

