-- ==== Sys2Proof/Machine/FabricPuts.lean ====
section
/-! DEFINITION. Fabric send records, puts, requests and responses (18 R413 to R419). -/

namespace Sys2Proof.Machine

open Sys2Proof

/-! ### Fabric send records (18 Table 18-8, R413, R418) -/

def fxOp (ws : List Word) : Nat := bits (word ws 0) 3 0
def fxSrc (ws : List Word) : Nat := bits (word ws 1) 47 0
def fxDaddr (ws : List Word) : Nat := bits (word ws 2) 47 0
def fxNaddr (ws : List Word) : Nat := bits (word ws 4) 47 0
def fxLen (ws : List Word) : Nat := bits (word ws 3) 31 0
def fxLmn (ws : List Word) : Nat := bits (word ws 3) 63 48

/-- Every RSVD field is 0 and OP is assigned; a NOP has nothing but its completion address, TAG and OP. -/
def fxWords (ws : List Word) : Bool :=
  if fxOp ws = 2 then bits (word ws 0) 15 4 = 0 && (ws.drop 1).all (· = 0)
  else fxOp ws < 2 && bits (word ws 0) 15 8 = 0 && bits (word ws 1) 63 48 = 0 && bits (word ws 2) 63 48 = 0 &&
    bits (word ws 3) 43 32 = 0 && bits (word ws 4) 63 48 = 0 && bits (word ws 5) 63 32 = 0 && word ws 6 = 0 && word ws 7 = 0

/-- SRC and LENGTH; of a request DADDR and NADDR too. -/
def fxAligned (ws : List Word) : Bool :=
  fxSrc ws % 64 = 0 && fxLen ws % 64 = 0 && 64 ≤ fxLen ws && fxLen ws ≤ 1048576 &&
    (fxOp ws = 0 || (fxDaddr ws % 64 = 0 && fxNaddr ws % 64 = 0))

/-- SRC: the D1 region or one memory of a cluster window (log 42). -/
def State.fxSource (s : State) (cl : Fin 32) (ws : List Word) : Option Nat :=
  match s.viewRange cl (fxSrc ws) (fxLen ws) with
  | some (.d1, m) => some m
  | some (.window _ _, m) => some m
  | _ => none

/-- A slot in on-chip SRAM other than an instruction memory. -/
def State.notifyAt (s : State) (cl : Fin 32) (a : Nat) : Option (Fin 32 × Nat) :=
  if a % 64 ≠ 0 then none
  else match s.viewRange cl a 64 with
    | some (.window c o, m) =>
      match clMemOf o with
      | some (.imem _) => none
      | _ => some (c, m)
    | _ => none

/-- The partition's clusters take no record: QUIESCE is set, or a cut of the partition's group holds them (R413, R421). -/
def State.fxHeld (s : State) (cl : Fin 32) : Bool :=
  (s.cluster cl).quiesce || match s.partOf cl with
    | some p => (s.part p).group ≠ 0 && (List.range 4).any fun n => (s.cutAt n).hold && (s.cutAt n).group = (s.part p).group
    | none => false

/-- Records of a cluster taken and not complete. -/
def State.fxOpen (s : State) (cl : Fin 32) : Nat := (s.fab.sends.filter fun x => x.cl == cl).length

/-- Take the record at HEAD when its OP is the row's. -/
def State.fxTake (s : State) (cl : Fin 32) (mine : Nat → Bool) (run : State → List Word → State) : State :=
  if s.fxHeld cl || 64 ≤ s.fxOpen cl then s
  else match s.ringEntry cl .ftx (fun ws => mine (fxOp ws)) with
    | .nothing => s
    | .refused t => t
    | .words t ws => run (t.takeEntry cl .ftx) ws

/-- The completion word of a record. -/
def State.fxComplete (s : State) (cl : Fin 32) (ws : List Word) (count status : Nat) : State :=
  s.ringCompletion cl (word ws 0) count status

def State.partNo (s : State) (cl : Fin 32) : Nat :=
  match s.partOf cl with
  | some p => p.val
  | none => 0xF

def State.groupOfCl (s : State) (cl : Fin 32) : Half :=
  match s.partOf cl with
  | some p => (s.part p).group
  | none => 0

/-- Packet k of a send. -/
def State.fxPacket (s : State) (x : Send) (k : Nat) : Packet :=
  { dstFid := x.dst, srcFid := s.fab.fid, dstPart := BitVec.ofNat 4 (bits (word x.words 3) 47 44)
    srcPart := BitVec.ofNat 4 (s.partNo x.cl), vc := BitVec.ofNat 3 (bits (word x.words 0) 5 4), ord := bit (word x.words 0) 6
    trace := false, ttl := s.fab.ttl, typ := if x.isReq then 0x03 else 0x01, group := s.groupOfCl x.cl, id := x.id
    w2 := BitVec.ofNat 64 (if x.isReq then 0 else fxDaddr x.words + 4096 * k)
    w3 := BitVec.ofNat 64 (k * 2 ^ 56 + (x.npkt - 1) * 2 ^ 48 + (if x.isReq then 0 else fxNaddr x.words))
    payload := (x.data.drop (4096 * k)).take 4096, rsvd := 0, note := BitVec.ofNat 32 (bits (word x.words 5) 31 0)
    ndb := bit (word x.words 0) 7 }

def State.setSends (s : State) (l : List Send) : State := { s with fab := { s.fab with sends := l } }

def State.dropSend (s : State) (x : Send) : State := s.setSends (s.fab.sends.filter fun y => y.id ≠ x.id)
def State.updSend (s : State) (x : Send) : State := s.setSends (s.fab.sends.map fun y => if y.id = x.id then x else y)

/-- End a send with a status and the 4 KiB units delivered, or of the response written (18 R418). -/
def State.endSend (s : State) (x : Send) (status : Nat) : State :=
  (s.dropSend x).fxComplete x.cl x.words (if x.isReq then x.got.length else x.acked.length) status

/-- Send the packets of a record in order; where one cannot leave, the record ends with status 0x21. -/
def State.sendPackets (s : State) (x : Send) : List Nat → State
  | [] => s
  | k :: ks =>
    match s.originate (s.fxPacket x k) with
    | some t => t.sendPackets x ks
    | none => s.endSend x 0x21

/-- A checked record goes out (18 R414, R416): DLMN, then nothing of a cluster in no partition (01 R507), the source data,
and the packets. -/
def State.fxSend (s : State) (cl : Fin 32) (ws : List Word) (m respMax : Nat) : State :=
  let e := s.lmnAt (fxLmn ws)
  if !bit e 63 then s.fxComplete cl ws 0 0x20
  else if (s.partOf cl).isNone then s.fxComplete cl ws 0 0x23
  else
    let g := s.readMem m (fxLen ws)
    if g.ues ≠ [] then g.st.fxComplete cl ws 0 0x05
    else
      let t := g.st
      let n := (fxLen ws + 4095) / 4096
      let x : Send :=
        { cl := cl, part := t.partNo cl, isReq := fxOp ws = 1, words := ws, id := BitVec.ofNat 40 t.fab.nextId
          dst := BitVec.ofNat 16 (bits e 15 0), npkt := n, acked := [], data := g.data, resend := [], start := t.time
          respMax := respMax, got := [], note := BitVec.ofNat 32 (bits (word ws 5) 31 0) }
      let u : State := { t with fab := { t.fab with sends := t.fab.sends ++ [x], nextId := t.fab.nextId + 1 } }
      (u.count (u.partOf cl) 13 (fxLen ws / 64)).sendPackets x (List.range n)

def State.fxPut (cl : Fin 32) (s : State) (ws : List Word) : State :=
  if !fxWords ws then s.fxComplete cl ws 0 0x03
  else if !fxAligned ws then s.fxComplete cl ws 0 0x02
  else match s.fxSource cl ws with
    | none => s.fxComplete cl ws 0 0x01
    | some m => s.fxSend cl ws m 0

/-- The response range of a request: DADDR over RESP_MAX bytes rounded up to 64, and NADDR as a slot. -/
def State.fxLocal (s : State) (cl : Fin 32) (ws : List Word) (respMax : Nat) : Bool :=
  (respMax = 0 || (s.ixPlace cl (fxDaddr ws) ((respMax + 63) / 64 * 64)).isSome) &&
    (fxNaddr ws = 0 || (s.notifyAt cl (fxNaddr ws)).isSome)

def State.fxRequest (cl : Fin 32) (s : State) (ws : List Word) : State :=
  if !fxWords ws then s.fxComplete cl ws 0 0x03
  else if !fxAligned ws then s.fxComplete cl ws 0 0x02
  else match s.fxSource cl ws with
    | none => s.fxComplete cl ws 0 0x01
    | some m =>
      let g := s.readMem m 64
      if g.ues ≠ [] then g.st.fxComplete cl ws 0 0x05
      else if g.st.fxLocal cl ws (reqRespMax g.data) then g.st.fxSend cl ws m (reqRespMax g.data)
      else g.st.fxComplete cl ws 0 0x01

def execFtxPut (cl : Fin 32) (s : State) : Result := .next (s.fxTake cl (· = 0) (State.fxPut cl))

def execFtxRequest (cl : Fin 32) (s : State) : Result := .next (s.fxTake cl (· = 1) (State.fxRequest cl))

/-- A NOP, and the reserved OPs, which end with status 0x03. -/
def execFtxNop (cl : Fin 32) (s : State) : Result :=
  .next (s.fxTake cl (2 ≤ ·) fun t ws => t.fxComplete cl ws 0 (if fxWords ws then 0 else 0x03))

/-! ### A put at its destination (18 R414, R415, R419) -/

def pkPart (pk : Packet) : Option (Fin 12) := if h : pk.dstPart.toNat < 12 then some ⟨pk.dstPart.toNat, h⟩ else none
def pkNo (pk : Packet) : Nat := bits pk.w3 63 56
def pkCount (pk : Packet) : Nat := bits pk.w3 55 48 + 1
def pkNaddr (pk : Packet) : Nat := bits pk.w3 47 0

/-- The partition takes data of the packet's group. -/
def State.groupOk (s : State) (p : Fin 12) (pk : Packet) : Bool :=
  s.jobLoaded p && (s.part p).group ≠ 0 && (s.part p).group = pk.group

def State.ackTo (s : State) (pk : Packet) (status : Nat) : State :=
  s.send (ackPacket s pk.srcFid pk.srcPart pk.vc pk.ord pk.id (pkNo pk) status)

def Tracker.is (x : Tracker) (src : Half) (id : BitVec 40) : Bool := x.src = src && x.id = id

def State.trackerOf (s : State) (src : Half) (id : BitVec 40) : Option Tracker := s.fab.tracker.find? (·.is src id)
def State.inHistory (s : State) (src : Half) (id : BitVec 40) : Bool := s.fab.history.any fun h => h.1 = src && h.2.1 = id

/-- A tracker entry is free for a new put to partition p. -/
def State.trackerFree (s : State) (p : Fin 12) : Bool :=
  s.fab.tracker.length < 8192 && (!s.arb.isolated ||
    (s.fab.tracker.filter fun x => x.part.toNat = p.val).length <
      8192 * s.fabCredit p / 100)

/-- An entry is freed: its key enters the history of 65,536. -/
def State.freeTracker (s : State) (src : Half) (id : BitVec 40) : State :=
  { s with fab := { s.fab with
      tracker := s.fab.tracker.filter fun x => !x.is src id
      history := ((src, id, s.time) :: s.fab.history).take 65536 } }

/-- The logical module number of a source: the lowest FAB_LMN entry that names its FID; where none does, the spec states no
value (log 43). -/
def State.lmnOf (s : State) (fid : Half) : Half :=
  match s.fab.lmns.find? fun e => bit e.2 63 && bits e.2 15 0 = fid.toNat with
  | some e => BitVec.ofNat 16 e.1
  | none => Config.freeHalf s.freeCtr

/-- Words 0 and 1 of a notify slot (18 R414), acting as STF (04 R117, 09 R213). -/
def State.notify (s : State) (m : Nat) (lmn : Half) (part : BitVec 4) (note : W32) (len : Nat) : State :=
  ((s.repairTag m).writeMem m (whole (toBytes (lmn.toNat * 2 ^ 48 + part.toNat * 2 ^ 44 + note.toNat) 8 ++ toBytes len 8 ++
    List.replicate 48 0))).setTag m true

/-- The cluster whose doorbell a put pushes: that of its notify slot, and partition cluster 0 without one. -/
def State.putDoor (s : State) (p : Fin 12) (cl : Fin 32) (pk : Packet) : Option (Fin 32) :=
  match if pkNaddr pk = 0 then none else s.notifyAt cl (pkNaddr pk) with
  | some x => some x.1
  | none => s.firstCluster p

/-- Its spill FIFO holds the put back (16 R371). -/
def State.putBlocked (s : State) (pk : Packet) : Bool :=
  match (pkPart pk).bind fun p => (s.firstCluster p).bind fun cl => s.putDoor p cl pk with
  | some c => pk.ndb && s.spillBlocked c
  | none => false

/-- All packets of a put have arrived: its notify slot, its doorbell, and its tracker entry. -/
def State.putComplete (s : State) (p : Fin 12) (cl : Fin 32) (pk : Packet) (len : Nat) : State :=
  let lmn := s.lmnOf pk.srcFid
  let n := if pkNaddr pk = 0 then none else s.notifyAt cl (pkNaddr pk)
  let s1 := match n with
    | some x => s.drawn.notify x.2 lmn pk.srcPart pk.note len
    | none => s.drawn
  let s2 := match s1.putDoor p cl pk with
    | some c => if pk.ndb then
        s1.doorbell c 2 (lmn.toNat * 2 ^ 40 + pk.srcPart.toNat * 2 ^ 36 + pk.note.toNat) else s1
    | none => s1
  s2.freeTracker pk.srcFid pk.id

/-- Count a packet of a put. -/
def Tracker.take (x : Tracker) (pk : Packet) (time : Word) : Tracker :=
  if x.got.contains (pkNo pk) then { x with last := time }
  else { x with got := pkNo pk :: x.got, len := x.len + pk.payload.length, last := time }

/-- An accepted packet is written and acknowledged; the last writes the notify. -/
def State.putWrite (s : State) (p : Fin 12) (cl : Fin 32) (m : Nat) (pk : Packet) (x : Tracker) : State :=
  let s1 := (s.writeMem m (whole pk.payload)).count (some p) 14 (pk.payload.length / 64)
  let y := x.take pk s.time
  let rest := s1.fab.tracker.filter fun z => !z.is pk.srcFid pk.id
  let s2 : State := { s1 with fab := { s1.fab with tracker := rest ++ [y] } }
  let s3 := if y.got.length = y.npkt then s2.putComplete p cl pk y.len else s2
  s3.ackTo pk 0

/-- The first refusal, or what the packet does. -/
def State.putIn (s : State) (pk : Packet) : State :=
  match pkPart pk with
  | none => s.ackTo pk 0x23
  | some p =>
    if !s.groupOk p pk then s.ackTo pk 0x23
    else match s.firstCluster p with
      | none => s.ackTo pk 0x23
      | some cl =>
        match s.ixPlace cl (bits pk.w2 47 0) pk.payload.length with
        | none => s.ackTo pk 0x24
        | some m =>
          if pkNaddr pk ≠ 0 && (s.notifyAt cl (pkNaddr pk)).isNone then s.ackTo pk 0x24
          else if s.inHistory pk.srcFid pk.id then (s.writeMem m (whole pk.payload)).ackTo pk 0
          else match s.trackerOf pk.srcFid pk.id with
            | some x => s.putWrite p cl m pk x
            | none =>
              if s.trackerFree p then
                s.putWrite p cl m pk { src := pk.srcFid, id := pk.id, npkt := pkCount pk, got := [], last := s.time
                                       part := pk.dstPart, len := 0 }
              else s.ackTo pk 0x26

def execPutPacketReceive (pk : Packet) (s : State) : Result :=
  .next (if s.inboxHas pk 0x01 && !s.putBlocked pk then (s.takeInbox pk).putIn pk else s)

/-- 10 ms have passed since the put's last packet (18 R415). -/
def execTrackerEntryExpire (src : BitVec 16) (id : BitVec 40) (s : State) : Result :=
  match s.trackerOf src id with
  | some x => .next (if 10000000 ≤ (s.time - x.last).toNat then s.freeTracker src id else s)
  | none => .next s

/-! ### At the sender (18 R415, R418) -/

def State.sendOf (s : State) (id : BitVec 40) (isReq : Bool) : Option Send :=
  s.fab.sends.find? fun x => x.id = id && x.isReq == isReq

/-- A PUT_ACK's status. -/
def ackStatus (pk : Packet) : Nat := bits pk.w2 55 48
def ackNo (pk : Packet) : Nat := bits pk.w2 63 56

def State.ackIn (s : State) (pk : Packet) : State :=
  match s.sendOf pk.id false with
  | some x =>
    if ackStatus pk = 0 then
      let y : Send := { x with acked := if x.acked.contains (ackNo pk) then x.acked else ackNo pk :: x.acked }
      if y.acked.length = y.npkt then s.endSend y 0 else s.updSend y
    else if ackStatus pk = 0x26 then s.updSend { x with resend := x.resend ++ [(ackNo pk, s.time)] }
    else s.endSend x (ackStatus pk)
  | none =>
    match s.sendOf pk.id true with
    | some x => if ackStatus pk = 0 then s else s.endSend x (ackStatus pk)
    | none => s

def execPutAckReceive (pk : Packet) (s : State) : Result :=
  .next (if s.inboxHas pk 0x02 then (s.takeInbox pk).ackIn pk else s)

/-- 10 µs have passed since status 0x26 (18 R415). -/
def execPutResend (id : BitVec 40) (k : BitVec 8) (s : State) : Result :=
  match s.sendOf id false with
  | some x =>
    if x.resend.any fun r => r.1 = k.toNat && 10000 ≤ (s.time - r.2).toNat then
      let y : Send := { x with resend := x.resend.filter fun r => r.1 ≠ k.toNat }
      .next ((s.updSend y).sendPackets y [k.toNat])
    else .next s
  | none => .next s

/-- A send that has waited ms milliseconds ends with status 0x22 and is reported (18 R418, Table 18-11). -/
def State.sendTimeout (s : State) (id : BitVec 40) (isReq : Bool) (ms : Nat) : State :=
  match s.sendOf id isReq with
  | some x => if ms * 1000000 ≤ (s.time - x.start).toNat then (s.endSend x 0x22).faultReport x.dst 0x03 else s
  | none => s

/-- PUT_TO has passed. -/
def execPutTimeout (id : BitVec 40) (s : State) : Result := .next (s.sendTimeout id false s.fab.putTo.toNat)

/-- REQ_TO has passed. -/
def execRequestTimeout (id : BitVec 40) (s : State) : Result := .next (s.sendTimeout id true s.fab.reqTo.toNat)

/-! ### Requests and responses (18 R416) -/

def Arriving.is (x : Arriving) (pk : Packet) : Bool := x.src = pk.srcFid && x.id = pk.id

/-- The packets of a request in order. -/
def Arriving.whole (x : Arriving) : List Byte :=
  (List.range x.npkt).flatMap fun k => ((x.got.find? fun g => g.1 = k).map (·.2)).getD []

/-- A REQUEST packet joins those of its request; the last hands it to the service (log 44). -/
def State.requestIn (s : State) (pk : Packet) : State :=
  match pkPart pk with
  | none => s.ackTo pk 0x23
  | some p =>
    if !s.groupOk p pk then s.ackTo pk 0x23
    else
      let x : Arriving := (s.fab.arriving.find? (·.is pk)).getD
        { src := pk.srcFid, id := pk.id, npkt := pkCount pk, got := [] }
      let y : Arriving := if x.got.any fun g => g.1 = pkNo pk then x else { x with got := x.got ++ [(pkNo pk, pk.payload)] }
      let rest := s.fab.arriving.filter fun z => !z.is pk
      let t := s.count (some p) 14 (pk.payload.length / 64)
      if y.got.length = y.npkt then
        let d := y.whole
        State.deliverRequest { t with fab := { t.fab with arriving := rest } } p
          (.fabric pk.srcFid pk.srcPart pk.vc pk.ord pk.id (reqRespMax d)) d
      else { t with fab := { t.fab with arriving := rest ++ [y] } }

def execRequestPacketReceive (pk : Packet) (s : State) : Result :=
  .next (if s.inboxHas pk 0x03 then (s.takeInbox pk).requestIn pk else s)

/-- A RESPONSE packet is written at DADDR of the record that asked, within RESP_MAX; the last writes the notify slot and the
record completes. The bytes of the response are counted for its LENGTH. -/
def State.responseIn (s : State) (pk : Packet) : State :=
  match s.sendOf pk.id true with
  | none => s
  | some x =>
    if x.got.contains (pkNo pk) then s
    else
      let d := pk.payload.take (x.respMax - 4096 * pkNo pk)
      let s1 := match s.ixPlace x.cl (fxDaddr x.words + 4096 * pkNo pk) d.length with
        | some m => if d.isEmpty then s else s.writeMem m (whole d)
        | none => s
      let y : Send := { x with got := pkNo pk :: x.got, data := if pkNo pk + 1 = pkCount pk then d else x.data }
      let s2 := s1.count (s1.partOf x.cl) 14 (pk.payload.length / 64)
      if y.got.length = pkCount pk then
        let len := 4096 * (pkCount pk - 1) + y.data.length
        let s3 := match s2.notifyAt x.cl (fxNaddr x.words) with
          | some n => if fxNaddr x.words = 0 then s2 else
              s2.notify n.2 (BitVec.ofNat 16 (fxLmn x.words)) (BitVec.ofNat 4 (bits (word x.words 3) 47 44)) x.note len
          | none => s2
        s3.endSend y 0
      else s2.updSend y

def execResponsePacketReceive (pk : Packet) (s : State) : Result :=
  .next (if s.inboxHas pk 0x04 then (s.takeInbox pk).responseIn pk else s)

end Sys2Proof.Machine
end

