-- ==== Sys2Proof/Machine/Checkpoint.lean ====
section
/-! DEFINITION. Checkpoints (17 R384 to R386, R388): their bytes and how a restore reads them. The spec gives the sections, the
header, the ledger lines and the tags; the layout within a binding slot's 16 bytes, a core's 4 KiB and a cluster's 32 KiB is
the model's (log 45). -/

namespace Sys2Proof.Machine

open Sys2Proof

/-! ### Padding and units -/

/-- Bytes padded with zeros to n. -/
def padTo (n : Nat) (d : List Byte) : List Byte := d ++ List.replicate (n - d.length) 0

/-- A section, padded to whole blocks of 4 KiB. -/
def section4K (d : List Byte) : List Byte := padTo ((d.length + 4095) / 4096 * 4096) d

def unitsFrom : Nat → List Byte → List Unit4K
  | 0, _ => []
  | n + 1, d => ofUnit (d.take 4096) :: unitsFrom n (d.drop 4096)

def wordBytes (ws : List Nat) : List Byte := ws.flatMap fun w => toBytes w 8

/-! ### Bindings and pins -/

/-- A binding slot's 16 bytes: [9:0] NSID, [10] PIN, [11] COMMIT, [12] SHARE, [31:16] SGT, [63] bound. -/
def bindingBytes (b : Option Binding) : List Byte :=
  match b with
  | none => List.replicate 16 0
  | some b => wordBytes [b.nsid.toNat + (if b.pin then 2 ^ 10 else 0) + (if b.commit then 2 ^ 11 else 0) +
      (if b.share then 2 ^ 12 else 0) + b.sgt.toNat * 2 ^ 16 + 2 ^ 63, 0]

def State.bindingSection (s : State) (p : Fin 12) : List Byte :=
  (List.range 16).flatMap fun i => bindingBytes (s.bindingAt p i)

/-- The handle of an entry in partition p: the lowest binding slot of its namespace through which tiles are pinned, and its
tile. -/
def State.handleOf (s : State) (p : Fin 12) (n : Nougat) : Nat :=
  let b := (List.range 16).find? fun i => match s.bindingAt p i with
    | some b => b.pin && b.nsid = n.nsid
    | none => false
  b.getD 0 * 2 ^ 36 + n.tile.toNat

/-- The pin ledger, one line of 16 bytes for each of its lines. -/
def State.ledgerSection (s : State) (p : Fin 12) : List Byte :=
  (s.part p).ledger.flatMap fun e => match s.nougatAt e.1 with
    | some n => wordBytes [s.handleOf p n + e.2 % 2 ^ 16 * 2 ^ 40, 0]
    | none => wordBytes [0, 0]

/-! ### A core (02 R68, 04 R111) -/

def coreModeCode : CoreMode → Nat
  | .reset => 0
  | .halted => 1
  | .running => 2
  | .waiting => 3
  | .faulted => 4

def coreModeOf (n : Nat) : CoreMode :=
  match n with
  | 0 => .reset
  | 2 => .running
  | 3 => .waiting
  | 4 => .faulted
  | _ => .halted

def flag (b : Bool) (n : Nat) : Nat := if b then 2 ^ n else 0

/-- The words of a core's state; ran says that it was RUNNING or WAITING when the vacate began. -/
def Core.words (k : Core) (ran : Bool) : List Nat :=
  [(if ran then 2 else coreModeCode k.mode) + flag k.excPending 8 + flag k.nested 9 + flag k.inHandler 10 + flag k.latch 11 +
      k.cause.toNat * 2 ^ 16 + k.pc.toNat * 2 ^ 32,
   k.startPc.toNat + k.handler.toNat * 2 ^ 32, k.excPc.toNat, k.excAddr.toNat, k.scratch0.toNat, k.scratch1.toNat,
   k.cycles.toNat, k.retired.toNat] ++
  (List.range 32).map (fun i => (SMap.get (fun _ => (0 : Word)) k.sregs i).toNat) ++
  ((List.range 16).flatMap fun i =>
    (List.range 8).map fun j => (SMap.get (fun _ => (0 : Slot)) k.vregs i).toNat / 2 ^ (64 * j) % 2 ^ 64) ++
  (List.range 8).map (fun i => (SMap.get (fun _ => (0 : Word)) k.pregs i).toNat) ++
  [k.cq.length, k.deque.length] ++ k.cq.map (·.toNat) ++ k.deque.map (·.toNat)

def coreBlock (k : Core) (ran : Bool) : List Byte := padTo 4096 (wordBytes (k.words ran))

/-- Word i of a block. -/
def blockWord (d : List Byte) (i : Nat) : Nat := ofBytes ((d.drop (8 * i)).take 8)

/-- Words i to i + n - 1. -/
def blockWords (d : List Byte) (i n : Nat) : List Nat := (List.range n).map fun j => blockWord d (i + j)

/-- A table of n registers from their values. -/
def tableOf {α : Type} [DecidableEq α] (d : Nat → α) (f : Nat → α) (n : Nat) : SMap α :=
  (List.range n).foldl (fun m i => SMap.set d m i (f i)) []

def slotOfWords (ws : List Nat) : Nat := ws.zipIdx.foldl (fun x w => x + w.1 * 2 ^ (64 * w.2)) 0

/-- A core read back from its block. -/
def coreOfBlock (d : List Byte) : Core :=
  let w := blockWord d
  let h := BitVec.ofNat 64 (w 0)
  { startPc := BitVec.ofNat 32 (w 1), handler := BitVec.ofNat 32 (w 1 / 2 ^ 32)
    mode := coreModeOf (bits h 7 0), excPending := bit h 8, nested := bit h 9, inHandler := bit h 10, latch := bit h 11
    cause := BitVec.ofNat 8 (bits h 23 16), pc := BitVec.ofNat 32 (bits h 63 32)
    excPc := BitVec.ofNat 32 (w 2), excAddr := BitVec.ofNat 48 (w 3), scratch0 := BitVec.ofNat 64 (w 4)
    scratch1 := BitVec.ofNat 64 (w 5), cycles := BitVec.ofNat 64 (w 6), retired := BitVec.ofNat 64 (w 7)
    sregs := tableOf (fun _ => 0) (fun i => BitVec.ofNat 64 (w (8 + i))) 32
    vregs := tableOf (fun _ => 0) (fun i => BitVec.ofNat 512 (slotOfWords (blockWords d (40 + 8 * i) 8))) 16
    pregs := tableOf (fun _ => 0) (fun i => BitVec.ofNat 64 (w (168 + i))) 8
    cq := ((blockWords d 178 (w 176)).map (BitVec.ofNat 64)).foldl (fun q e => (cqIns q e).1) []
    deque := (blockWords d (178 + w 176) (w 177)).map (BitVec.ofNat 64)
    dqVisible := w 177 }

/-! ### A cluster's registers and queued matrix commands -/

def ringWords (r : Ring) : List Nat := [r.base.toNat + r.size.toNat * 2 ^ 32, r.tail.toNat + r.head.toNat * 2 ^ 32]

def ringOfWords (d : List Byte) (i : Nat) : Ring :=
  { base := BitVec.ofNat 32 (blockWord d i), size := BitVec.ofNat 13 (blockWord d i / 2 ^ 32)
    tail := BitVec.ofNat 32 (blockWord d (i + 1)), head := BitVec.ofNat 32 (blockWord d (i + 1) / 2 ^ 32) }

/-- A matrix command's words, each queued command taking nine words: how many it has, then eight. -/
def mxWords (ws : List Word) : List Nat := ws.length :: ((ws.map (·.toNat)) ++ List.replicate (8 - ws.length) 0)

def Cluster.words (c : Cluster) : List Nat :=
  ((List.range 16).flatMap fun q => ringWords (SMap.get (fun _ => ({} : Ring)) c.tmq q)) ++ ringWords c.commit ++
  ringWords c.ixr ++ ringWords c.ftx ++
  (List.range 16).map (fun q => (SMap.get (fun _ => (0 : Word)) c.tileReason q).toNat) ++
  [c.event.toNat + flag c.mxcFault 8 + c.age.toNat * 2 ^ 16 + c.step.toNat * 2 ^ 32, c.ringFault.toNat, c.reqBase.toNat,
   c.reqSlots.toNat + c.reqKib.toNat * 2 ^ 16, c.mxq.length] ++ c.mxq.flatMap mxWords

def clusterBlock (c : Cluster) : List Byte := padTo 32768 (wordBytes c.words)

/-- Registers and queued commands read back into a cluster. What a checkpoint leaves out stands as after zeroisation (05 R148, 07 R184, 08
R189): the array's form and weights, the guard, the function slots. -/
def Cluster.ofBlock (c : Cluster) (d : List Byte) : Cluster :=
  let h := BitVec.ofNat 64 (blockWord d 54)
  let q := BitVec.ofNat 64 (blockWord d 57)
  { c with
    form := 0, weights := [], shadow := [], grd := {}, slots := []
    tmq := tableOf (fun _ => {}) (fun i => ringOfWords d (2 * i)) 16
    commit := ringOfWords d 32, ixr := ringOfWords d 34, ftx := ringOfWords d 36
    tileReason := tableOf (fun _ => 0) (fun i => BitVec.ofNat 64 (blockWord d (38 + i))) 16
    event := BitVec.ofNat 4 (bits h 3 0), mxcFault := bit h 8, age := BitVec.ofNat 8 (bits h 23 16)
    step := BitVec.ofNat 32 (bits h 63 32), ringFault := BitVec.ofNat 64 (blockWord d 55)
    reqBase := BitVec.ofNat 48 (blockWord d 56), reqSlots := BitVec.ofNat 16 (bits q 15 0)
    reqKib := BitVec.ofNat 16 (bits q 31 16)
    mxq := (List.range (blockWord d 58)).map fun i =>
      (blockWords d (60 + 9 * i) (blockWord d (59 + 9 * i))).map (BitVec.ofNat 64) }

/-! ### SRAM and tags -/

/-- The populated ranges of a window, in ascending order (09 Table 9-1): 48 MiB. -/
def sramRanges : List (Nat × Nat) := [(0, 0x02800000), (0x03000000, 0x00800000)]

/-- What reads of a cluster's memories deliver, in ascending cluster address. -/
def State.sramBytes (s : State) (cl : Fin 32) : List Byte :=
  sramRanges.flatMap fun r => s.peekBytes (clusterAddr cl r.1) r.2

/-- One bit for each slot of 64 bytes. -/
def State.tagBytes (s : State) (cl : Fin 32) : List Byte :=
  sramRanges.flatMap fun r => (List.range (r.2 / 512)).map fun i =>
    BitVec.ofNat 8 ((List.range 8).foldl (fun x j =>
      x + flag (s.tagFull (clusterAddr cl (r.1 + 512 * i + 64 * j))) j) 0)

/-- Section 4 for one cluster. -/
def State.clusterSection (s : State) (ran : List CoreId) (cl : Fin 32) : List Byte :=
  s.sramBytes cl ++ s.tagBytes cl ++
    (allCores.flatMap fun k => coreBlock (s.core ⟨cl, k⟩) (ran.contains ⟨cl, k⟩)) ++ clusterBlock (s.cluster cl)

/-- Bytes of section 4 for one cluster: 48.625 MiB. -/
def clusterBytes : Nat := 0x3000000 + 98304 + 524288 + 32768

/-! ### The header (17 Table 17-5) -/

def headerWords (s : State) (nCl len d1Gib pins crc : Nat) (time version : Word) : List Nat :=
  [0x54504B43 * 2 ^ 32 + 1 * 2 ^ 16 + (nCl - 1), len, d1Gib * 2 ^ 32 + pins, time.toNat,
   s.fab.fid.toNat * 2 ^ 48 + s.fab.lmn.toNat * 2 ^ 32, version.toNat, crc * 2 ^ 32, 0]

/-- A checkpoint from the bytes behind its header block; extra is what else the header block holds from byte 64 on. -/
def withHeader (s : State) (nCl d1Gib pins : Nat) (time version : Word) (extra rest : List Byte) : List Byte :=
  let block (crc : Nat) : List Byte :=
    padTo 4096 (wordBytes (headerWords s nCl (4096 + rest.length) d1Gib pins crc time version) ++ extra)
  block (crc32c (block 0 ++ rest)).toNat ++ rest

/-- The checkpoint of a vacate (17 R384). -/
def State.checkpoint (s : State) (p : Fin 12) (r : PartRec) (began version : Word) : List Byte :=
  let cs := clusterList r
  let rest := section4K (s.bindingSection p) ++ section4K (s.ledgerSection p) ++
    (cs.flatMap fun cl => s.clusterSection (s.part p).job.ran cl) ++
    s.peekBytes (r.d1Region.base.toNat * gib) (r.d1Region.gib.toNat * gib)
  withHeader s cs.length r.d1Region.gib.toNat (s.part p).ledger.length began version [] rest

/-- What a vacate reads: its clusters' windows and its D1 region. -/
def vacateRanges (r : PartRec) (d1 : Bool) : List (Nat × Nat) :=
  (clusterList r).map (fun cl => (clusterAddr cl 0, winSize)) ++
    (if d1 then [(r.d1Region.base.toNat * gib, r.d1Region.gib.toNat * gib)] else [])

/-- The entry of a keep-on-fault copy for an uncorrectable word (17 R388). -/
def kofEntry (cs : List (Fin 32)) (b : Nat) : Nat :=
  (cs.findIdx fun c => winBase + c.val * winSize ≤ b && b < winBase + (c.val + 1) * winSize) * 2 ^ 32 + b % winSize

/-- Put a number among those that rise. -/
def insertUp (l : List Nat) (n : Nat) : List Nat := l.takeWhile (· ≤ n) ++ n :: l.dropWhile (· ≤ n)

/-- The keep-on-fault copy (17 R388). -/
def State.kofCopy (s : State) (p : Fin 12) (r : PartRec) (version : Word) (bad : List Nat) : List Byte :=
  let cs := clusterList r
  let es := (bad.map (kofEntry cs)).foldl insertUp []
  let extra := padTo 448 (wordBytes [es.length]) ++ padTo 512 (wordBytes (es.take 64))
  withHeader s cs.length 0 0 s.time version extra
    (cs.flatMap fun cl => s.clusterSection (s.part p).job.ran cl)

/-! ### Reading a checkpoint back (17 R386) -/

/-- The parts of a checkpoint that a restore uses. -/
structure Image where
  nCl     : Nat
  d1Gib   : Nat
  pins    : List (Nat × Nat)
  binds   : List Byte
  cls     : List (List Byte)
  d1      : List Byte
  version : Word

/-- MAGIC, FORMAT and CRC are right. -/
def headerOk (d : List Byte) : Bool :=
  let w0 : Word := BitVec.ofNat 64 (blockWord d 0)
  let len := blockWord d 1
  bits w0 63 32 = 0x54504B43 && bits w0 31 16 = 1 && len ≤ d.length &&
    (crc32c (d.take 52 ++ [0, 0, 0, 0] ++ (d.drop 56).take (len - 56))).toNat = blockWord d 6 / 2 ^ 32

def imageOf (d : List Byte) : Image :=
  let n := blockWord d 0 % 32 + 1
  let pins := blockWord d 2 % 2 ^ 32
  let led := d.drop 8192
  let cl := led.drop ((16 * pins + 4095) / 4096 * 4096)
  { nCl := n, d1Gib := blockWord d 2 / 2 ^ 32
    pins := (List.range pins).map fun i => (blockWord led (2 * i) % 2 ^ 40, blockWord led (2 * i) / 2 ^ 40 % 2 ^ 16)
    binds := (d.drop 4096).take 256
    cls := (List.range n).map fun i => (cl.drop (i * clusterBytes)).take clusterBytes
    d1 := (cl.drop (n * clusterBytes)).take (blockWord d 2 / 2 ^ 32 * 2 ^ 30), version := BitVec.ofNat 64 (blockWord d 5) }

/-- Write a section back to a cluster that has been zeroised: its memories, tags, cores and registers. -/
def State.restoreCluster (s : State) (cl : Fin 32) (d : List Byte) : State :=
  let a := clusterAddr cl 0
  let s1 := (s.writeMem a (whole (d.take 0x2800000))).writeMem (a + 0x3000000) (whole ((d.drop 0x2800000).take 0x800000))
  let tags := d.drop 0x3000000
  let slotAt (i : Nat) : Nat := if i < 0xA0000 then a + 64 * i else a + 0x3000000 + 64 * (i - 0xA0000)
  let s2 := (List.range 0xC0000).foldl (fun (t : State) i =>
    if (tags.getD (i / 8) 0).getLsbD (i % 8) then t.setTag (slotAt i) true else t) s1
  let cores := d.drop (0x3000000 + 98304)
  let s3 := allCores.foldl (fun (t : State) k => t.setCore ⟨cl, k⟩ (coreOfBlock ((cores.drop (4096 * k.val)).take 4096))) s2
  s3.updCluster cl fun c => c.ofBlock (d.drop (0x3000000 + 98304 + 524288))

end Sys2Proof.Machine
end

