-- ==== Sys2Proof/Machine/Otp.lean ====
section
/-! DEFINITION. The one-time-programmable row (19 R430, Table 19-1) and what is computed from it: owners, level, epoch, security
version (19 R436, R443 to R446). -/

namespace Sys2Proof.Machine

open Sys2Proof

def Sec.word (x : Sec) (w : Nat) : Word := SMap.get (fun _ => (0 : Word)) x.otp w
def Sec.locked (x : Sec) (w : Nat) : Bool := SMap.get (fun _ => false) x.otpLock w

/-- A bit set to 1 stays 1, and a locked word never changes. -/
def Sec.program (x : Sec) (w : Nat) (v : Word) : Sec :=
  if x.locked w then x else { x with otp := SMap.set (fun _ => (0 : Word)) x.otp w (x.word w ||| v) }

def Sec.lockWord (x : Sec) (w : Nat) : Sec := { x with otpLock := SMap.set (fun _ => false) x.otpLock w true }

def otpOwner (s : Nat) : Nat := 0x0A + 6 * s
def otpOwnerCtl : Nat := 0x22
def otpLevel2 : Nat := 0x23
def otpRaise (i : Nat) : Nat := 0x24 + i
def otpTicket (i : Nat) : Nat := 0x34 + i
def otpEpoch (i : Nat) : Nat := 0x44 + i
def otpSvn : Nat := 0x54

/-- Owner slots enrolled and revoked (19 Table 19-1 OWNER_CTL). -/
def Sec.enrolled (x : Sec) (s : Nat) : Bool := (x.word otpOwnerCtl).getLsbD s
def Sec.revoked (x : Sec) (s : Nat) : Bool := (x.word otpOwnerCtl).getLsbD (8 + s)
/-- A slot whose key signs: enrolled and not revoked. -/
def Sec.ownerOk (x : Sec) (s : Nat) : Bool := x.enrolled s && !x.revoked s

/-- Bits set in words a to a + n - 1. -/
def Sec.bitsSet (x : Sec) (a n : Nat) : Nat := (List.range n).foldl (fun k i => k + popCount 64 (x.word (a + i)).toNat) 0

/-- The key epoch, 0 to 1,024. -/
def Sec.epoch (x : Sec) : Nat := x.bitsSet 0x44 16
/-- The firmware security version, 0 to 64. -/
def Sec.svn (x : Sec) : Nat := x.bitsSet otpSvn 1

def Sec.raises (x : Sec) : Nat := ((List.range 16).filter fun i => x.locked (otpRaise i)).length
/-- Tickets with DONE = 0xFF. -/
def Sec.lowers (x : Sec) : Nat := ((List.range 16).filter fun i => bits (x.word (otpTicket i)) 63 56 = 0xFF).length

/-- The level (19 R444). -/
def Sec.level (x : Sec) : Nat :=
  if x.locked otpLevel2 && x.word otpLevel2 ≠ 0 then 2 else if x.lowers < x.raises then 1 else 0

/-- The lowest word of a list that is not yet programmed nor locked. -/
def Sec.unused (x : Sec) (ws : List Nat) : Option Nat := ws.find? fun w => x.word w = 0 && !x.locked w

/-- Set one further EPOCH bit; none is left beyond 1,024. -/
def Sec.stepEpoch (x : Sec) : Sec :=
  let e := x.epoch
  if e < 1024 then x.program (otpEpoch (e / 64)) (BitVec.ofNat 64 (2 ^ (e % 64))) else x

/-- Bits that make the security version count n. -/
def Sec.raiseSvn (x : Sec) (n : Nat) : Sec := x.program otpSvn (BitVec.ofNat 64 (2 ^ (max n x.svn) - 1))

end Sys2Proof.Machine
end

