-- ==== Sys2Proof/Machine/Jobs.lean ====
section
/-! DEFINITION. Jobs (15 R338 to R340; 17 R381 to R393): Load Program, activation and deactivation, Job Control, the end of a job
and faults. -/

namespace Sys2Proof.Machine

open Sys2Proof

/-! ### Fondant images (15 R338, R339; 19 R435, R436) -/

def imLen (d : List Byte) : Nat := bits (imWord d 1) 63 32
def imSects (d : List Byte) : Nat := bits (imWord d 0) 15 8

/-- The header locates a whole signature block. -/
def imLocates (d : List Byte) : Bool :=
  bits (imWord d 0) 63 32 = 0x464E4454 && bits (imWord d 0) 31 16 = 1 && imLen d % 64 = 0 &&
    bits (imWord d 1) 31 0 = imLen d && imLen d + 256 ≤ d.length

/-- The signature block is one that may sign an image; verifies says whether its key and signature hold. -/
def State.imSigned (s : State) (d : List Byte) (verifies : Bool) : Bool :=
  let b := d.drop (imLen d)
  let w := imWord b 0
  let signer := bits w 15 8
  verifies && bits w 63 32 = 0x53474E42 && bits w 31 16 = 1 && imWord b 1 = 0 && ((b.drop 16).take 48).all (· = 0) &&
    ((signer = 0 && bits w 7 0 = 0) || (signer = 1 && bits w 7 0 < 4 && s.sec.ownerOk (bits w 7 0)))

/-- A section descriptor: TYPE, DEST, OFFSET, LENGTH. -/
structure Sect where
  typ  : Nat
  dest : Nat
  off  : Nat
  len  : Nat

def sectAt (d : List Byte) (i : Nat) : Sect :=
  let a := imWord d (8 + 2 * i)
  let b := imWord d (9 + 2 * i)
  ⟨bits a 63 56, bits a 47 0, bits b 63 32, bits b 31 0⟩

def sects (d : List Byte) : List Sect := (List.range (imSects d)).map (sectAt d)

/-- A descriptor's RSVD field, TYPE, alignments and the range of its data. -/
def sectOk (d : List Byte) (i : Nat) : Bool :=
  let x := sectAt d i
  bits (imWord d (8 + 2 * i)) 55 48 = 0 &&
    ((x.typ = 1 && x.dest % 64 = 0 && x.off % 64 = 0 && x.len % 64 = 0 && x.off + x.len ≤ imLen d) ||
     (x.typ = 2 && x.dest % 4 = 0 && x.off = 0 && x.len = 0))

/-- The remaining fields of the header and the descriptors (15 R339, fourth point). -/
def imFields (d : List Byte) : Bool :=
  bits (imWord d 0) 7 0 = 0 && imSects d ≠ 0 && 64 + 16 * imSects d ≤ imLen d &&
    bits (imWord d 2) 47 45 = 0 && bits (imWord d 2) 39 32 = 0 && bits (imWord d 3) 63 29 = 0 &&
    imWord d 5 = 0 && imWord d 6 = 0 && imWord d 7 = 0 && (List.range (imSects d)).all (sectOk d)

/-- Module-view address of a LOAD range: inside the D1 region, or inside the populated part of one cluster window. -/
def State.loadPlace (s : State) (cl : Fin 32) (x : Sect) : Option Nat :=
  match s.view cl x.dest, s.view cl (x.dest + (x.len - 1)) with
  | some (.d1, m), some (.d1, _) => some m
  | some (.window c o, m), some (.window c' o', _) => if c = c' && (o < 0x2800000) == (o' < 0x2800000) then some m else none
  | _, _ => none

/-- Two LOAD ranges overlap. -/
def overlaps (xs : List Sect) : Bool :=
  match xs with
  | [] => false
  | x :: rest => rest.any (fun y => meet (x.dest, x.len) (y.dest, y.len)) || overlaps rest

/-- The core a START names, and its cluster address. -/
def State.startAt (s : State) (cl : Fin 32) (x : Sect) : Option (CoreId × Nat) :=
  match s.view cl x.dest with
  | some (.window c o, _) =>
    match clMemOf o with
    | some (.imem k) => some (⟨c, k⟩, o)
    | _ => none
  | _ => none

def loadsOf (d : List Byte) : List Sect := (sects d).filter fun x => x.typ = 1
def startsOf (d : List Byte) : List Sect := (sects d).filter fun x => x.typ = 2

/-- Every START lies in an instruction memory, and no two name one core. -/
def State.startsOk (s : State) (cl : Fin 32) (d : List Byte) : Bool :=
  let cs := (startsOf d).map fun x => (s.startAt cl x).map (·.1)
  cs.all (·.isSome) && cs.eraseDups.length = cs.length

/-- The first status of 15 R339 that refuses an image for partition p, 0 when it is accepted. -/
def State.loadStatus (s : State) (p : Fin 12) (r : PartRec) (cl : Fin 32) (d : List Byte) (verifies : Bool) : Nat :=
  let bindreq := imWord d 3
  firstStatus
    [chk (!s.jobLoaded p) 0x02, chk (imLocates d) 0x04, chk (s.imSigned d verifies) 0x03, chk (imFields d) 0x04,
     chk (bits (imWord d 2) 44 40 + 1 = (clusterList r).length) 0x05,
     chk (bits (imWord d 2) 31 16 ≤ r.d1Region.gib.toNat && bits (imWord d 2) 15 0 ≤ r.d2Region.gib.toNat) 0x05,
     chk (bits (imWord d 3) 28 16 ≤ s.ctxCount p) 0x05,
     chk ((List.range 16).all fun b => !bindreq.getLsbD b || (s.bindingAt p b).isSome) 0x06,
     chk ((loadsOf d).all fun x => (s.loadPlace cl x).isSome) 0x04, chk (!overlaps (loadsOf d)) 0x04,
     chk (s.startsOk cl d) 0x04]

/-- Copy one LOAD section. -/
def State.loadSection (cl : Fin 32) (d : List Byte) (s : State) (x : Sect) : State :=
  match s.loadPlace cl x with
  | some m => s.writeMem m (whole ((d.drop x.off).take x.len))
  | none => s

/-- Write one START address. -/
def State.writeStart (s : State) (x : CoreId × Nat) : State := s.updCore x.1 fun k => { k with startPc := BitVec.ofNat 32 x.2 }

/-- An accepted load (15 R340). -/
def State.loadImage (s : State) (p : Fin 12) (cl : Fin 32) (d : List Byte) (kof : Bool) : State :=
  let s1 := (loadsOf d).foldl (State.loadSection cl d) s
  let st := (startsOf d).filterMap (s1.startAt cl)
  (st.foldl State.writeStart s1).updJob p fun j =>
    { j with state := .loaded, version := imWord d 4, service := BitVec.ofNat 16 (bits (imWord d 2) 63 48)
             starts := st.map (·.1), kofOpt := kof, ending := none, waiter := none, target := none, ran := [] }

/-- A command that names gated or powered-off clusters wakes them and waits (21 R477). -/
def State.onAwake (s : State) (cs : List (Fin 32)) (wait f : State → State) : State :=
  if s.pow.compute == .ready && cs.any fun c => (s.cluster c).pstate ≠ 0 then wait (s.updClusters cs Cluster.woken) else f s

/-- A load or a restore waits: its partition is busy with it meanwhile (17 R383, R393). -/
def State.waitStart (p : Fin 12) (h : Hdr) (st : JobState) (x : Held) (s : State) : State :=
  (s.updJob p fun j => { j with state := st, waiter := some h }).hold x

/-- Load Program (16 R353, 17 R382): CDW13 bit 0 is the keep-on-fault option, its other bits are 0. -/
def execLoadProgram (h : Hdr) (p : BitVec 4) (cdw13 : W32) (sigVerifies : Bool) (image : List Byte) (s : State) : Result :=
  .next (s.hostCmd h (.loadProgram h p cdw13 sigVerifies image) true fun t =>
    if t.pow.moduleFault then t.generic h 0x06
    else match t.namedPart h.fn p with
      | none => t.generic h 0x02
      | some q =>
        if bits cdw13 31 1 ≠ 0 then t.generic h 0x02
        else match (t.part q).cfg, t.firstCluster q with
          | some r, some cl =>
            (t.dropStart h).onAwake (clusterList r)
                (State.waitStart q h .loading (.wakeWait (.loadProgram h p cdw13 sigVerifies image))) fun u =>
              match u.loadStatus q r cl image sigVerifies with
              | 0 => (u.loadImage q cl image (bit cdw13 0)).okay h 0
              | st => u.vendor h (BitVec.ofNat 8 st)
          | _, _ => t.vendor h 0x07)

/-! ### Activation and deactivation (16 R353, 17 R381) -/

/-- A job is starting, ending or moving. -/
def JobState.busy : JobState → Bool
  | .ending => true
  | .vacating => true
  | .restoring => true
  | .loading => true
  | _ => false

/-- RUN for every core a START names. -/
def State.activate (s : State) (p : Fin 12) : State :=
  ((s.part p).job.starts.foldl (fun (t : State) c => t.coreCtl c true false false) s).updJob p fun j => { j with state := .running }

/-- A command on a job: the partition it names, 0x07 where no job is loaded, 0x08 while another operation runs on it. -/
def State.onJob (s : State) (h : Hdr) (p : BitVec 4) (f : State → Fin 12 → State) : State :=
  match s.namedPart h.fn p with
  | none => s.generic h 0x02
  | some q =>
    let j := (s.part q).job.state
    if j == .none then s.vendor h 0x07 else if j.busy then s.vendor h 0x08 else f s q

/-- Activation of a running job changes nothing (log 46). -/
def execProgramActivate (h : Hdr) (p : BitVec 4) (s : State) : Result :=
  .next (s.hostCmd h (.programActivate h p) true fun t => t.onJob h p fun u q =>
    (if (u.part q).job.state == .loaded then u.activate q else u).okay h 0)

/-- The command that ends a job completes when the end does. -/
def State.waitEnd (s : State) (p : Fin 12) (h : Hdr) : State := s.updPart p fun q => { q with job := { q.job with waiter := some h } }

def execProgramDeactivate (h : Hdr) (p : BitVec 4) (s : State) : Result :=
  .next (s.hostCmd h (.programDeactivate h p) true fun t => t.onJob h p fun u q =>
    (u.beginEnd q .deactivation).waitEnd q h)

/-! ### Job Control (17 R383 to R388) -/

/-- The checkpoint namespace of a command is a block namespace. -/
def State.ckBlock (s : State) (nsid : BitVec 10) : Bool := (s.ns nsid.toNat).isSome && !s.nsIsTile nsid.toNat

/-- Blocks of a partition's checkpoint. -/
def State.ckBlocks (s : State) (p : Fin 12) (r : PartRec) : Nat :=
  2 + (16 * (s.part p).ledger.length + 4095) / 4096 + (clusterList r).length * (clusterBytes / 4096) +
    r.d1Region.gib.toNat * 262144

/-- The checkpoint's range lies in its namespace. -/
def State.ckFits (s : State) (nsid : BitVec 10) (lba n : Nat) : Bool := s.ckBlock nsid && lba + n ≤ s.nsBlocks nsid.toNat

/-- Its other bits, and the action, are as the spec gives them (17, above Table 17-4): Invalid Field in Command otherwise. -/
def State.rsvdZero (s : State) (h : Hdr) (rsvd : Nat) (f : State → State) : State := if rsvd = 0 then f s else s.generic h 0x02

def execJobControlVacate (h : Hdr) (p : PartSel) (nsid : BitVec 10) (lba : BitVec 64) (s : State) : Result :=
  .next (s.ownerCmd h (.jobControlVacate h p nsid lba) false fun t => t.rsvdZero h p.rsvd fun t => t.onJob h p.part fun u q =>
    match (u.part q).cfg with
    | none => u.vendor h 0x07
    | some r =>
      if u.ckFits nsid lba.toNat (u.ckBlocks q r) then
        ((u.beginEnd q .vacate).waitEnd q h).updPart q fun x => { x with
          job := { x.job with target := some (nsid, lba), endTime := u.time } }
      else u.vendor h 0x0C)

/-- A kill of a vacating job takes effect at once (17 Table 17-6). -/
def State.killVacate (s : State) (p : Fin 12) (h : Hdr) : State :=
  ((s.answerWaiter p 0x0D).updJob p fun j =>
    { j with state := .ending, ending := some .kill, target := none, endCycle := s.cycle }).waitEnd p h

def execJobControlKill (h : Hdr) (p : PartSel) (s : State) : Result :=
  .next (s.ownerCmd h (.jobControlKill h p) false fun t => t.rsvdZero h p.rsvd fun t =>
    match t.namedPart h.fn p.part with
    | none => t.generic h 0x02
    | some q =>
      match (t.part q).job.state with
      | .none => t.vendor h 0x07
      | .vacating => t.killVacate q h
      | .loaded | .running => (t.beginEnd q .kill).waitEnd q h
      | _ => t.vendor h 0x08)

/-! ### Restore (17 R386) -/

/-- The tile of a ledger line is being written, so that it cannot be promoted yet (16 R361). -/
def State.pinLocked (s : State) (p : Fin 12) (handle : Nat) : Bool :=
  match s.resolve p handle true with
  | .tile r => s.writeLocked r.b.nsid.toNat r.start r.size
  | _ => false

/-- A promotion's copies, at once; a damaged D2 copy falls back on F. -/
def State.promoteNow (s : State) (e : Nat) : Option State :=
  match s.nougatAt e with
  | none => none
  | some n =>
    if n.st = 3 && n.inD1 then some s
    else match s.fetchTile n with
      | .data t d => some ((t.placeCopies e n d).countHeal n)
      | .damaged t =>
        match t.nougatAt e with
        | some m => (t.tileFromF m).map fun d => (t.placeCopies e m d).countHeal m
        | none => none
      | _ => none

/-- Take the pins of one ledger line. -/
def State.restorePin (p : Fin 12) (s : State) (x : Nat × Nat) : Option State :=
  match s.resolve p x.1 true with
  | .tile r =>
    match s.takePin p r with
    | .error _ => none
    | .ok (t, e) =>
      match t.promoteNow e with
      | none => none
      | some u =>
        (List.range (x.2 - 1)).foldl (fun (b : Option State) _ => b.bind fun v =>
          match v.takePin p r with
          | .ok w => some w.1
          | .error _ => none) (some u)
  | _ => none

def State.restorePins (s : State) (p : Fin 12) (xs : List (Nat × Nat)) : Option State :=
  xs.foldl (fun (b : Option State) x => b.bind fun t => State.restorePin p t x) (some s)

/-- The D1 region from a checkpoint; what lies above it is zero. -/
def State.restoreD1 (s : State) (r : PartRec) (d : List Byte) : State :=
  s.writeMem (r.d1Region.base.toNat * gib) (whole (padTo (r.d1Region.gib.toNat * gib) d))

/-- Cores captured in RUNNING or WAITING run again; the others keep their state. -/
def State.rerunCore (s : State) (c : CoreId) : State :=
  let k := s.core c
  if k.mode == .running || k.mode == .waiting then
    (s.setCore c { k with mode := .halted }).coreCtl c true false false
  else s

/-- A checkpoint's contents go into the partition, whose pins are taken (17 R386 steps 2 to 5). -/
def State.restoreInto (s : State) (p : Fin 12) (r : PartRec) (im : Image) : State :=
  let cs := clusterList r
  let s1 := (cs.zip im.cls).foldl (fun (t : State) x => t.restoreCluster x.1 x.2) s
  let s2 := ((s1.restoreD1 r im.d1).updPart p fun q => { q with slots := [], requests := [] }).updClusters cs fun c =>
    { c with quiesce := false, quiesceAbort := false, cutQuiesce := false }
  let s3 := s2.updJob p fun _ => { state := .running, version := im.version }
  (cs.flatMap fun cl => allCores.map fun k => (⟨cl, k⟩ : CoreId)).foldl State.rerunCore s3

/-- The bytes of a range of a namespace. -/
def State.nsBytes (s : State) (nsid first n : Nat) : Option (List Byte) :=
  (s.readUnits nsid first n).map fun us => us.flatMap unitBytes

/-- A checkpoint from a block on: its header says its length. -/
def State.readCheckpoint (s : State) (nsid : BitVec 10) (lba : Nat) : Option (List Byte) :=
  match s.nsBytes nsid.toNat lba 1 with
  | none => none
  | some hd =>
    let len := blockWord hd 1
    if len % 4096 ≠ 0 || len = 0 || s.nsBlocks nsid.toNat < lba + len / 4096 then none
    else s.nsBytes nsid.toNat lba (len / 4096)

/-- A header of the right MAGIC and FORMAT says a length that runs beyond the namespace (17 Table 17-4, 0x0C). -/
def State.ckOver (s : State) (nsid : BitVec 10) (lba : Nat) : Bool :=
  match s.nsBytes nsid.toNat lba 1 with
  | none => false
  | some hd => blockWord hd 0 / 2 ^ 16 = 0x54504B430001 && blockWord hd 1 % 4096 = 0 &&
      s.nsBlocks nsid.toNat < lba + blockWord hd 1 / 4096

/-- A restore that has found a fault, a refused pin, or none. -/
def State.restore (s : State) (h : Hdr) (i : Instr) (p : Fin 12) (r : PartRec) (nsid : BitVec 10) (lba : Nat) : State :=
  if !s.ckFits nsid lba 1 || !s.nsReadable nsid.toNat then s.vendor h 0x0C
  else match s.readCheckpoint nsid lba with
    | none => s.vendor h (if s.ckOver nsid lba then 0x0C else 0x0A)
    | some d =>
      let im := imageOf d
      let s := s.noteRead nsid.toNat lba (d.length / 4096)
      if !headerOk d then s.vendor h 0x0A
      else if im.nCl ≠ (clusterList r).length || r.d1Region.gib.toNat < im.d1Gib || im.binds != s.bindingSection p then
        s.vendor h 0x0B
      else if im.pins.any fun x => s.pinLocked p x.1 then State.waitStart p h .restoring (.lockWait [] i) s
      else match s.restorePins p im.pins with
        | some t => (t.restoreInto p r im).okay h 0
        | none => ((s.clearJob p).zeroiseRec r).vendor h 0x0D

/-- 17 R386, R392. -/
def execJobControlRestore (h : Hdr) (p : PartSel) (nsid : BitVec 10) (lba : BitVec 64) (s : State) : Result :=
  let i := Instr.jobControlRestore h p nsid lba
  .next (s.ownerCmd h i true fun t => t.rsvdZero h p.rsvd fun t =>
    if t.pow.moduleFault then t.generic h 0x06
    else match t.namedPart h.fn p.part with
      | none => t.generic h 0x02
      | some q =>
        let t := t.dropStart h
        if (t.part q).job.state.busy then t.vendor h 0x08
        else if t.jobLoaded q then t.vendor h 0x02
        else match (t.part q).cfg with
          | none => t.vendor h 0x07
          | some r => t.onAwake (clusterList r) (State.waitStart q h .restoring (.wakeWait i)) fun u => u.restore h i q r nsid lba.toNat)

/-! ### The end of a job (17 R383, R388) -/

/-- Clusters quiet, no index read executing, every commit record taken completed. -/
def State.drained (s : State) (p : Fin 12) : Bool :=
  (s.clustersOf p).all fun cl => s.quiet cl && (s.cluster cl).commitExec.isNone

/-- The command that waits for the end of a job. -/
def State.endAnswer (s : State) (p : Fin 12) (ok : Bool) : State :=
  match (s.part p).job.waiter with
  | some h => (if ok then s.okay h 0 else s.vendor h 0x0D).updPart p fun q => { q with job := { q.job with waiter := none } }
  | none => s

/-- Steps 4 and 5. -/
def State.finishEnd (s : State) (p : Fin 12) (cause : EndCause) (kof : BitVec 8) : State :=
  let s1 := (s.endAnswer p (cause != .partitionFault && cause != .moduleFault)).clearJob p
  let s2 := match (s.part p).cfg with
    | some r => s1.zeroiseRec r
    | none => s1
  s2.closeJob p cause kof

/-- The keep-on-fault copy, or its skip with a record in the error log. -/
def State.makeKof (s : State) (p : Fin 12) (r : PartRec) : State × BitVec 8 :=
  let n := r.kofNsid
  let blocks := 1 + (clusterList r).length * (clusterBytes / 4096)
  let private_ := match (s.ns n.toNat).bind (·.keyTenant) with
    | some (some t) => !r.tenants.getLsbD t.val
    | _ => false
  if n ≠ 0 && s.ckFits n 0 blocks && !private_ then
    let g := s.touch (vacateRanges r false)
    let d := g.1.kofCopy p r (s.part p).job.version g.2
    let t := (g.1.writeUnits n.toNat 0 .cold (unitsFrom (d.length / 4096) d)).flushAll
    (t, 1)
  else (s.log (.kofSkipped p.val), 2)

/-- The checkpoint of a vacate: none while an earlier lock is held on its range. An error in what it reads is a partition fault
before the header is written (17 Table 17-6). -/
def State.makeCheckpoint (s : State) (p : Fin 12) (r : PartRec) (nsid : BitVec 10) (lba : Nat) : State :=
  let g := s.touch (vacateRanges r true)
  if g.2 ≠ [] then g.1.disposeAll g.2
  else
    let d := g.1.checkpoint p r (s.part p).job.endTime (s.part p).job.version
    if g.1.lockBusy nsid.toNat lba (d.length / 4096) false then s
    else if !g.1.ckFits nsid lba (d.length / 4096) || !g.1.nsWritable nsid.toNat then
      (g.1.answerWaiter p 0x0C).finishEnd p .vacate 0
    else ((g.1.writeUnits nsid.toNat lba .cold (unitsFrom (d.length / 4096) d)).flushAll).finishEnd p .vacate 0

def execJobEndDrained (p : Fin 12) (s : State) : Result :=
  let j := (s.part p).job
  if !s.drained p then .next s
  else match j.state, j.ending, (s.part p).cfg with
    | .vacating, _, some r =>
      match j.target with
      | some x => .next (s.makeCheckpoint p r x.1 x.2.toNat)
      | none => .next s
    | .ending, some cause, some r =>
      if j.kofOpt && (cause = .kill || cause = .partitionFault) then
        let k := s.makeKof p r
        .next (k.1.finishEnd p cause k.2)
      else .next (s.finishEnd p cause 0)
    | _, _, _ => .next s

/-- A job that is loaded or running begins to end (17 R381, R383); a module fault ends it at once (R392). -/
def execJobEnd (p : Fin 12) (cause : EndCause) (s : State) : Result :=
  match cause with
  | .partitionFault => .next (s.partFault p)
  | .moduleFault => .next (s.moduleFault false)
  | _ =>
    let j := (s.part p).job.state
    .next (if (j == .loaded || j == .running) && cause != .vacate then s.beginEnd p cause else s)

def execPartitionFault (p : Fin 12) (s : State) : Result := .next (s.partFault p)

/-- Whether the storage side is lost with a shared resource (17 R392). -/
def storageLost : SharedFault → Bool
  | .writeBuffer => true
  | .ftlStructures => true
  | .bothProcessors => true
  | _ => false

def execModuleFault (f : SharedFault) (s : State) : Result := .next (s.moduleFault (storageLost f))

/-! ### Interference (17 R394, R395) -/

/-- Stall cycles of a cluster in window w. -/
def Cluster.stallsIn (c : Cluster) (w : Nat) : Nat :=
  if c.stallWin = w then c.stalls else if c.stallWin = w + 1 then c.stallsWas else 0

/-- CLU_PART_INTF (17 Table 17-9); cycles is the number of cluster cycles in the window. The table does not say how the quotient of FRAC
becomes an integer: the model takes the part before the point (DESIGN CHOICE, log 119). -/
def intfWord (window stall clusters cycles : Nat) : Word :=
  BitVec.ofNat 64 (window % 2 ^ 16 * 2 ^ 48 + min 0xFFFF (stall * 65536 / (clusters * cycles)) * 2 ^ 32 + stall % 2 ^ 32)

/-- Cluster cycles in a window of 1 ms: 1,200,000 at 1.2 GHz, by the clock step of 21 R478 in units of 50 MHz. -/
def Cluster.windowCycles (c : Cluster) : Nat := c.cur.toNat * 50000

/-- The window that ended before the present one (00 R8), where one has. -/
def execInterferenceWindowEnd (p : Fin 12) (s : State) : Result :=
  if s.msWindow = 0 then .next s
  else
    let cs := s.clustersOf p
    let win := s.msWindow - 1
    let stall := cs.foldl (fun n c => n + (s.cluster c).stallsIn win) 0
    let cyc := match cs.head? with
      | some c => (s.cluster c).windowCycles
      | none => 1
    let w := intfWord win stall cs.length cyc
    let s1 := s.updClusters cs fun c => { c with intf := w }
    .next (s1.updPart p fun q => { q with
      window := BitVec.ofNat 32 win, fracs := (BitVec.ofNat 16 (bits w 47 32) :: q.fracs).take 1024 })

end Sys2Proof.Machine
end

