-- ==== Sys2Proof/Machine/Partitions.lean ====
section
/-! DEFINITION. Partition Configure, Binding Set and Fabric Identity (10 R221, R224; 17 R375 to R377; 18 R404 to R406). -/

namespace Sys2Proof.Machine

open Sys2Proof

/-! ### Areas (01 Table 1-5) -/

/-- GiB of D1 and of D2 that can be assigned. -/
def assignable (d1 : Bool) : Nat := if d1 then 383 else 704

def Area.pair (a : Area) : Nat × Nat := (a.base.toNat, a.gib.toNat)

/-- Areas lie in the assignable range and no two of them meet. -/
def areasOk (d1 : Bool) (xs : List (Nat × Nat)) : Bool :=
  xs.all (fun x => x.2 = 0 || x.1 + x.2 ≤ assignable d1) &&
    xs.zipIdx.all fun x => xs.zipIdx.all fun y => x.2 = y.2 || !meet x.1 y.1

/-- The areas of a record. -/
def recAreas (r : PartRec) (d1 : Bool) : List (Nat × Nat) :=
  if d1 then [Area.pair r.d1Region, Area.pair r.d1Pool] else [Area.pair r.d2Region, Area.pair r.d2Pool]

/-- The trace ring's GiB of D2, while trace is on (20 R463). -/
def State.traceArea (s : State) : List (Nat × Nat) := if s.traceEn then [(s.traceBase.toNat, 1)] else []

/-- All areas of the module but partition p's. -/
def State.otherAreas (s : State) (p : Option (Fin 12)) (arb : ArbRec) (d1 : Bool) : List (Nat × Nat) :=
  (allParts.flatMap fun q => match (s.part q).cfg with
    | some r => if some q = p then [] else recAreas r d1
    | none => []) ++ (if d1 then [Area.pair arb.d1Share] else Area.pair arb.d2Share :: s.traceArea)

/-! ### The partition record (17 Table 17-1, R376) -/

/-- Fields in their ranges. -/
def recFields (r : PartRec) : Bool :=
  r.rsvd = 0 && r.clusters ≠ 0 && 1 ≤ r.d1Region.gib.toNat && r.fslot.toNat ≤ 64 && r.wrShare.toNat ≤ 100 &&
    1 ≤ r.sD1.toNat && r.sD1.toNat ≤ 100 && 1 ≤ r.sD2.toNat && r.sD2.toNat ≤ 100 && r.fabCredit.toNat ≤ 100

/-- The records of the other partitions. -/
def State.otherRecs (s : State) (p : Fin 12) : List (Fin 12 × PartRec) :=
  allParts.filterMap fun q => if q = p then none else (s.part q).cfg.map fun r => (q, r)

/-- Action 0 may be applied (17 R376). -/
def State.recOk (s : State) (p : Fin 12) (r : PartRec) : Bool :=
  let others := (s.otherRecs p).map (·.2)
  let sum (f : PartRec → Nat) : Nat := others.foldl (fun n x => n + f x) (f r)
  recFields r && others.all (fun x => x.clusters &&& r.clusters = 0 && x.tenants &&& r.tenants = 0) &&
    areasOk true (recAreas r true ++ s.otherAreas (some p) s.arb true) &&
    areasOk false (recAreas r false ++ s.otherAreas (some p) s.arb false) &&
    sum (·.fslot.toNat) ≤ (if s.arb.isolated then 48 else 64) && sum (·.wrShare.toNat) ≤ 100 && sum (·.sD1.toNat) ≤ 100 &&
    sum (·.sD2.toNat) ≤ 100 && sum (·.fabCredit.toNat) ≤ 100 &&
    r.ctxBase.toNat + r.ctxCount.toNat ≤ 4096 &&
    allParts.all fun q => q = p || !rangesMeet r.ctxBase.toNat r.ctxCount.toNat (s.ctxBase q) (s.ctxCount q)

/-! ### Applying it (17 R377) -/

/-- GiB of a list of areas. -/
def gibsOf (xs : List (Nat × Nat)) : List Nat := xs.flatMap fun x => (List.range x.2).map fun i => x.1 + i

/-- Zero the GiB that are in just one of two lists. -/
def State.zeroChanged (s : State) (d1 : Bool) (old new : List (Nat × Nat)) : State :=
  let a := gibsOf old
  let b := gibsOf new
  let go := (a.filter fun g => !b.contains g) ++ b.filter fun g => !a.contains g
  go.foldl (fun (t : State) g => t.zeroFill ((if d1 then 0 else d2Base) + g * gib) gib) s

def optAreas (r : Option PartRec) (d1 : Bool) : List (Nat × Nat) :=
  match r with
  | some r => recAreas r d1
  | none => []

def optClusters (r : Option PartRec) : List (Fin 32) :=
  match r with
  | some r => clusterList r
  | none => []

/-- Clusters and areas that enter or leave a partition are zeroised, its private copies are freed and its counters are 0
(20 R457); the clusters of p are in the state of 02 R58 and cleared as assignment clears them. -/
def State.reshape (s : State) (p : Fin 12) (new : Option PartRec) : State :=
  let old := (s.part p).cfg
  let s1 := (s.releasePins p).zeroChanged true (optAreas old true) (optAreas new true)
  let s2 := s1.zeroChanged false (optAreas old false) (optAreas new false)
  let cs := optClusters old ++ (optClusters new).filter fun c => !(optClusters old).contains c
  let s3 := cs.foldl State.assignCluster s2
  s3.updPart p fun q => { q with
    cfg := new, pcnt := [], edge := [], slots := [], requests := [], watches := [], fracs := []
    bindings := match new with
      | some _ => q.bindings
      | none => [] }

/-- PRL_PART_CTX(p) (14 R334). -/
def State.setContexts (s : State) (p : Fin 12) (base cnt : Nat) : State :=
  let s1 := s.unloadContexts p
  ({ s1 with prlPart := SMap.set (fun _ => 0) s1.prlPart p.val (BitVec.ofNat 64 (cnt * 2 ^ 16 + base)) }).unloadContexts p

/-- A partition an owner command names, with no job loaded in it: status 0x02 otherwise. -/
def State.onIdle (s : State) (h : Hdr) (p : BitVec 4) (f : State → Fin 12 → State) : State :=
  match s.namedPart h.fn p with
  | none => s.generic h 0x02
  | some q => if s.jobLoaded q then s.vendor h 0x02 else f s q

/-- The same for Partition Configure, whose outcome is logged (16 R368). -/
def State.onIdleOp (s : State) (h : Hdr) (p : BitVec 4) (f : State → Fin 12 → State) : State :=
  match s.namedPart h.fn p with
  | none => s.endSemOp 0xC0 h 0 0x02
  | some q => if s.jobLoaded q then s.endSemOp 0xC0 h 7 0x02 else f s q

def State.setPartition (h : Hdr) (p : BitVec 4) (r : PartRec) (s : State) : State :=
  let i := Instr.partitionConfigureSet h p r
  s.whenRunning i fun u => u.onIdleOp h p fun v q =>
    if v.recOk q r then v.onAwake (clusterList r) (fun w => w.hold (.semWait i)) fun w =>
      (((w.reshape q (some r)).setContexts q r.ctxBase.toNat r.ctxCount.toNat).commitRoot).endSemOp 0xC0 h 0 0
    else v.endSemOp 0xC0 h 0 0x02

def execPartitionConfigureSet (h : Hdr) (p : BitVec 4) (r : PartRec) (s : State) : Result :=
  .next (s.semCmd h (State.setPartition h p r))

/-- Action 1; the reserved action 3 is Invalid Field in Command (17 R375). -/
def State.clearPartition (h : Hdr) (p : PartSel) (s : State) : State :=
  s.whenRunning (.partitionConfigureClear h p) fun u =>
    if p.rsvd ≠ 0 then u.endSemOp 0xC0 h 0 0x02
    else u.onIdleOp h p.part fun v q => (((v.reshape q none).setContexts q 0 0).commitRoot).endSemOp 0xC0 h 0 0

def execPartitionConfigureClear (h : Hdr) (p : PartSel) (s : State) : Result :=
  .next (s.semCmd h (State.clearPartition h p))

/-! ### The arbitration record (17 Table 17-2) -/

def State.arbOk (s : State) (r : ArbRec) : Bool :=
  r.rsvd = 0 && (!r.isolated || s.slotSum ≤ 48) && areasOk true (s.otherAreas none r true) &&
    areasOk false (s.otherAreas none r false)

/-- Shared entries go with a share pool that changes. -/
def State.setArb (s : State) (r : ArbRec) : State :=
  let moved := s.arb.d1Share ≠ r.d1Share || s.arb.d2Share ≠ r.d2Share
  let s1 := if moved then s.mapNougat fun n => if n.owner = 0xF then none else some n else s
  let s2 := s1.zeroChanged true [Area.pair s.arb.d1Share] [Area.pair r.d1Share]
  let s3 := s2.zeroChanged false [Area.pair s.arb.d2Share] [Area.pair r.d2Share]
  { s3 with arb := r }

def State.setArbitration (h : Hdr) (r : ArbRec) (s : State) : State :=
  s.whenRunning (.partitionArbitrationSet h r) fun u =>
    if u.anyJob then u.endSemOp 0xC0 h 7 0x02
    else if u.arbOk r then (u.setArb r).commitRoot.endSemOp 0xC0 h 0 0
    else u.endSemOp 0xC0 h 0 0x02

def execPartitionArbitrationSet (h : Hdr) (r : ArbRec) (s : State) : Result := .next (s.semCmd h (State.setArbitration h r))

/-! ### Bindings (10 R224, 16 Table 16-3, 19 R440) -/

/-- A binding a partition may hold: PIN only on a tile namespace; a tenant's namespace only for the partition to which the
tenant is assigned. -/
def State.bindingOk (s : State) (p : Fin 12) (b : Binding) : Bool :=
  match s.ns b.nsid.toNat with
  | none => false
  | some v => !(b.pin && v.kind == .block) && match v.keyTenant with
    | some (some t) => s.reaches (.vf t) p
    | _ => true

def State.setBinding (s : State) (p : Fin 12) (i : Nat) (b : Option Binding) : State :=
  (s.updPart p fun q => { q with bindings := SMap.set (fun _ => none) q.bindings i b }).commitRoot

def execBindingSet (h : Hdr) (p slot : BitVec 4) (b : Option Binding) (s : State) : Result :=
  .next (s.ownerCmd h (.bindingSet h p slot b) false fun t => t.onIdle h p fun u q =>
    if (u.part q).cfg.isNone then u.vendor h 0x07
    else match b with
      | none => (u.setBinding q slot.toNat none).okay h 0
      | some x => if u.bindingOk q x then (u.setBinding q slot.toNat (some x)).okay h 0 else u.generic h 0x02)

/-! ### Fabric Identity (18 R404 to R406) -/

/-- The identity is set: every link that carries Indigo sends PROBE, and every SECURE link ANNOUNCE. -/
def State.setIdentity (s : State) (fid lmn epoch : Half) : State :=
  let s1 : State := { s with fab := { s.fab with fid := fid, lmn := lmn, epoch := epoch, valid := true } }
  let s2 := (allLinks.filter fun l => (s1.link l).st == .plain || (s1.link l).st == .secure).foldl State.probe s1
  s2.flood (s2.secureBut [])
    (indigo s2 0x51 0 (lmn.toNat * 2 ^ 48 + epoch.toNat * 2 ^ 32 + fid.toNat) 0)

def State.fabricIdentity (h : Hdr) (fid lmn epoch : Half) (s : State) : State :=
  s.whenRunning (.fabricIdentity h fid lmn epoch) fun u =>
    if u.anyJob then u.endSemOp 0xC3 h 7 0x02 else (u.setIdentity fid lmn epoch).endSemOp 0xC3 h 0 0

def execFabricIdentity (h : Hdr) (fid lmn epoch : BitVec 16) (s : State) : Result :=
  .next (s.semCmd h (State.fabricIdentity h fid lmn epoch))

end Sys2Proof.Machine
end

