-- ==== Sys2Proof/Machine/MatrixQueue.lean ====
section
/-! DEFINITION. The matrix command queue (02 R39 to R43, 04 R123, R124), the common part of dispatch and completion (05 R140
to R145), and the commands NOP, FORM and GUARD (05 R130, R143, 07 R178 to R183). -/

namespace Sys2Proof.Machine

open Sys2Proof

/-- The queue's entries (02, The matrix core). -/
def mxDepth : Nat := 64

/-! ### Issue -/

def Core.queued (k : Core) : Option (List Word) :=
  match k.wait with
  | some (.queueSpace ws) => some ws
  | _ => none

/-- The waiting core whose turn is next, round-robin from mxTurn (02 R39). -/
def State.nextIssuer (s : State) (cl : Fin 32) : Option (Fin 128) :=
  let t := (s.cluster cl).mxTurn.toNat
  ((List.range 128).map fun i => (⟨(t + i) % 128, Nat.mod_lt _ (by decide)⟩ : Fin 128)).find? fun k =>
    (s.core ⟨cl, k⟩).queued.isSome

/-- A waiting TISSUE delivers its command when an entry is free. -/
def State.admitEntry (s : State) (cl : Fin 32) : State :=
  if (s.cluster cl).mxq.length < mxDepth then
    match s.nextIssuer cl with
    | none => s
    | some k =>
      let c : CoreId := ⟨cl, k⟩
      match (s.core c).queued with
      | none => s
      | some ws =>
        let s1 := s.updCluster cl fun g => { g with mxq := g.mxq ++ [ws], mxTurn := BitVec.ofNat 7 (k.val + 1) }
        ((s1.updCore c fun q => { q with mode := .running, wait := none }).advance c 4).retire c
  else s

def State.admitEntries (s : State) (cl : Fin 32) : Nat → State
  | 0 => s
  | n + 1 => (s.admitEntry cl).admitEntries cl n

/-- The words of elements 0 to n of a register (04 R123). -/
def tissueWords (v : Slot) (n : Nat) : List Word := (List.range (n + 1)).map fun e => BitVec.ofNat 64 (elem v 8 e)

def execTissue (c : CoreId) (vx : BitVec 4) (n : BitVec 3) (s : State) : Result :=
  s.issue c 4 true [.v vx] [] fun t k =>
    if !k.stores.isEmpty || k.fullFenced then .wait
    else
      let ws := tissueWords (k.vreg vx) n.toNat
      if (t.cluster c.cl).mxq.length < mxDepth then
        .go (t.updCluster c.cl fun g => { g with mxq := g.mxq ++ [ws], mxTurn := BitVec.ofNat 7 (c.k.val + 1) })
      else .stay (t.updCore c fun q => { q with mode := .waiting, wait := some (.queueSpace ws) })

/-! ### Command word 0 and completion (05 Tables 5-8, 5-14, 5-15) -/

def mxOp (ws : List Word) : Nat := bits (word ws 0) 7 0
def mxCompl (ws : List Word) : Nat := bits (word ws 0) 63 32

/-- Statuses that stop dispatch (05 R145). -/
def mxError (st : Nat) : Bool := (1 ≤ st && st ≤ 6) || st = 8 || st = 9

/-- 02 R43: FAULT, its event, and the error of a re-run (07 R182). -/
def State.mxFail (s : State) (cl : Fin 32) (rerun : Bool) (st : Nat) : State :=
  (s.updCluster cl fun c => { c with
    mxcFault := true
    grd := if rerun then { c.grd with closing := c.grd.closing.map fun g => { g with error := BitVec.ofNat 8 st } }
           else c.grd }).clusterEvent cl evMxc

/-- A command ends: its completion word is written (02 R42), and an error stops dispatch (R43). -/
def State.mxEnd (s : State) (cl : Fin 32) (ws : List Word) (rerun : Bool) (st progress flags : Nat) : State :=
  let w := progress % 2 ^ 32 * 2 ^ 32 + bits (word ws 0) 31 16 * 2 ^ 16 + st % 256 * 2 ^ 8 + flags % 8
  let s1 := s.writeSlot (clusterAddr cl (mxCompl ws)) (BitVec.ofNat 64 w)
  if mxError st then s1.mxFail cl rerun st else s1

/-- 0x06 for the word count, then 0x03 for the RSVD field of word 0 (05 R145 steps 1 and 2). -/
def wordCheck (ws : List Word) (n : Nat) : Nat :=
  if bits (word ws 0) 10 8 + 1 ≠ ws.length || ws.length ≠ n then 0x06
  else if bits (word ws 0) 15 11 ≠ 0 then 0x03
  else 0

/-! ### Dispatch (02 R41, 05 R145) -/

/-- The command that is next: its words, the step latched, whether it is re-dispatched by a closing GUARD, and whether it
belongs to the open layer. -/
structure MxIn where
  ws    : List Word
  step  : W32
  rerun : Bool
  layer : Bool
deriving DecidableEq, Repr

/-- The next command (02 R41, R43, R67, 07 R179): while a closing GUARD re-runs its layer, the layer's next kept command. -/
def Cluster.mxNext (c : Cluster) : Option MxIn :=
  if c.mxcFault then none
  else match c.grd.closing with
    | some g => if g.error = 0 then g.rest.head?.map fun e => ⟨e.1, e.2, true, false⟩ else none
    | none => if c.quiesce then none else c.mxq.head?.map fun ws => ⟨ws, c.step, false, c.grd.opened⟩

/-- Remove the command from where it stood; a command of an open layer is kept (07 R178). -/
def State.mxPop (s : State) (cl : Fin 32) (i : MxIn) (keep : Bool) : State :=
  if i.rerun then
    s.updCluster cl fun c =>
      { c with grd := { c.grd with closing := c.grd.closing.map fun g => { g with rest := g.rest.tail } } }
  else
    (s.updCluster cl fun c => { c with
      mxq := c.mxq.tail
      grd := if keep && i.layer && c.grd.kept.length < 48 then { c.grd with kept := c.grd.kept ++ [(i.ws, i.step)] }
             else c.grd }).admitEntry cl

/-- Where a dispatch leads. -/
inductive Disp where
  | wait
  /-- it completes at once: status, progress, flags -/
  | fin (s : State) (st progress flags : Nat)
  | start (s : State) (e : MxExec)
  /-- it leaves the queue and goes on by itself -/
  | taken (s : State)

/-- Dispatch the next command when it is one of the row's (mine). A completion address that is not valid discards it
(05 R141); such a command of an open layer is not kept, and is none of the layer's 48 (log 100). -/
def State.mxDispatch (s : State) (cl : Fin 32) (keep : Bool) (mine : List Word → Bool) (f : State → MxIn → Disp) : State :=
  let c := s.cluster cl
  match c.mxNext with
  | none => s
  | some i =>
    if !mine i.ws || c.pstate ≠ 0 || c.zeroising || c.executing ≥ 16 then s
    else if !slotAddr (mxCompl i.ws) then (s.mxPop cl i false).mxFail cl i.rerun 0
    else match f s i with
      | .wait => s
      | .fin t st progress flags => (t.mxPop cl i keep).mxEnd cl i.ws i.rerun st progress flags
      | .taken t => t.mxPop cl i keep
      | .start t e => (t.mxPop cl i keep).updCluster cl fun c => { c with mxExec := c.mxExec ++ [e] }

/-- 02 R41: an executing command, or a watch record's copy (20 R461), stands in the way of these ranges. -/
def Cluster.clash (c : Cluster) (reads writes : List (Nat × Nat)) : Bool :=
  c.mxExec.any (fun e =>
    e.writes.any (fun w => reads.any (meet w) || writes.any (meet w)) || e.reads.any fun r => writes.any (meet r)) ||
  c.dumps.any fun d => writes.any fun w => meet w d.foot || meet w d.scales

/-- The array and the function slots as ranges beyond the cluster's addresses (05 R142, 08 R188). -/
def arrayRange : Nat × Nat := (2 ^ 40, 1)
def slotRange (n : Nat) : Nat × Nat := (2 ^ 41 + n, 1)

/-- Dispatch by 05 R145. early is the status of steps 1 to 3; a command that fails them waits for every earlier command.
late makes the other checks and gives the state their reads leave, their status, and what to do when it is 0. R145's list does not
name 0x09, the 49th command of a layer (R143): it stands before the checks of late (log 100). -/
def State.mxCheck (s : State) (cl : Fin 32) (i : MxIn) (early : Nat) (reads writes : List (Nat × Nat))
    (late : State → State × Nat) (act : State → Disp) : Disp :=
  let c := s.cluster cl
  let slot := [(mxCompl i.ws, 64)]
  if early ≠ 0 then (if c.mxExec.isEmpty then .fin s early 0 0 else .wait)
  else if c.clash reads (writes ++ slot) then .wait
  else if i.layer && c.grd.kept.length ≥ 48 then .fin s 0x09 0 0
  else
    let r := late s
    if r.2 ≠ 0 then .fin r.1 r.2 0 0 else act r.1

/-- A new executing command. -/
def MxIn.exec (i : MxIn) (reads writes : List (Nat × Nat)) : MxExec :=
  { words := i.ws, step := i.step, rerun := i.rerun, layer := i.layer, ofmt := 0, srcD := [], dstD := []
    reads := reads, writes := writes ++ [(mxCompl i.ws, 64)], watch := [] }

/-! ### Ends of executing commands -/

/-- QUIESCE_ABORT acts on a command; a re-run runs to its end (02 R67, 05 R147, 07 R183). -/
def Cluster.aborts (c : Cluster) (e : MxExec) : Bool := c.quiesce && c.quiesceAbort && !e.rerun

/-- The executing command at place i, when it has opcode op and its cluster runs. -/
def State.mxRunning (s : State) (cl : Fin 32) (op : Nat) (i : Fin 16) : Option MxExec :=
  let c := s.cluster cl
  if c.pstate ≠ 0 || c.zeroising then none
  else match c.mxExec[i.val]? with
    | some e => if mxOp e.words = op then some e else none
    | none => none

/-- An executing command ends; a command of the open layer that ends with 0x07 closes the layer (07 R183). -/
def State.mxDone (s : State) (cl : Fin 32) (e : MxExec) (st progress flags : Nat) : State :=
  let s1 := s.updCluster cl fun c =>
    let c1 := { c with mxExec := c.mxExec.erase e }
    if st = 0x07 && e.layer && c.grd.opened then
      { c1 with
        grd := { c1.grd with opened := false, count := 0, lastRerun := false, kept := [] }
        mxExec := c1.mxExec.map fun x => { x with layer := false } }
    else c1
  s1.mxEnd cl e.words e.rerun st progress flags

/-! ### NOP, FORM, GUARD -/

/-- NOP, and the reserved opcodes, which end with 0x03 (05 R140, R145). -/
def execMxcNop (cl : Fin 32) (s : State) : Result :=
  .next (s.mxDispatch cl true (fun ws => mxOp ws = 0 || 6 < mxOp ws) fun t i =>
    let n := if mxOp i.ws = 0 then 1 else i.ws.length
    let st := wordCheck i.ws n
    t.mxCheck cl i (if st = 0 && mxOp i.ws ≠ 0 then 0x03 else st) [] [] (fun u => (u, 0)) fun u => .fin u 0 0 0)

/-- 05 R130. -/
def execForm (cl : Fin 32) (s : State) : Result :=
  .next (s.mxDispatch cl true (fun ws => mxOp ws = 2) fun t i =>
    let f := bits (word i.ws 1) 1 0
    t.mxCheck cl i (firstStatus [wordCheck i.ws 2, chk (bits (word i.ws 1) 63 2 = 0) 0x03, chk (f ≠ 3) 0x08])
      [] [arrayRange] (fun u => (u, 0)) fun u =>
        .fin (u.updCluster cl fun c => { c with form := BitVec.ofNat 2 f }) 0 0 0)

def guardWord (ws : List Word) : Nat := firstStatus [wordCheck ws 2, chk (bits (word ws 1) 15 1 = 0) 0x03]
def isClose (ws : List Word) : Bool := mxOp ws = 6 && bit (word ws 1) 0

/-- 05 R143, 07 R178. -/
def execGuardOpen (cl : Fin 32) (s : State) : Result :=
  .next (s.mxDispatch cl true (fun ws => mxOp ws = 6 && !isClose ws) fun t i =>
    t.mxCheck cl i (guardWord i.ws) [] []
      (fun u => (u, chk (!(u.cluster cl).grd.opened) 0x09)) fun u =>
        .fin (u.updCluster cl fun c => { c with grd :=
          { c.grd with layer := BitVec.ofNat 16 (bits (word i.ws 1) 31 16), opened := true, count := 0, kept := [] } }) 0 0 0)

/-- No command of the layer is executing (07 R179). -/
def Cluster.layerDone (c : Cluster) : Bool := c.mxExec.all fun e => !e.layer

/-- The closing GUARD's own end (07 R179, R182): the layer is closed. -/
def Cluster.closeLayer (c : Cluster) (rerun : Bool) : Cluster :=
  { c with grd := { c.grd with opened := false, lastRerun := rerun, kept := [], closing := none } }

/-- 07 R179, R185, 20 Tables 20-2 and 20-8. -/
def execGuardClose (cl : Fin 32) (s : State) : Result :=
  .next (s.mxDispatch cl false isClose fun t i =>
    let c := t.cluster cl
    let st := guardWord i.ws
    if st = 0 && c.grd.opened && !i.rerun && !c.layerDone then .wait
    else if st = 0 && c.grd.opened && !i.rerun then
      if c.grd.count.toNat ≤ bits (word i.ws 1) 63 32 then .fin (t.updCluster cl (·.closeLayer false)) 0 0 0
      else
        let u := t.updCluster cl fun c => { c with
          reruns := if c.reruns = BitVec.allOnes 32 then c.reruns else c.reruns + 1
          grd := { c.grd with closing := some { words := i.ws, rest := c.grd.kept, error := 0 } } }
        let v := (u.count (u.partOf cl) 2 1).trace 3 (u.partOf cl) cl.val 0
          (BitVec.ofNat 64 c.grd.layer.toNat) (BitVec.ofNat 64 c.grd.count.toNat)
        .taken v
    else t.mxCheck cl { i with layer := false } st [] [] (fun u => (u, 0x09)) fun u => .fin u 0 0 0)

/-! ### MXC_CTL (02 R43, Table 2-12) -/

/-- RESUME: FAULT clears and dispatch goes on. -/
def State.mxResume (s : State) (cl : Fin 32) : State := s.updCluster cl fun c => { c with mxcFault := false }

/-- FLUSH: every queued command is discarded with status 0x3F, and an open layer is closed (07 R182). -/
def State.mxFlush (s : State) (cl : Fin 32) : State :=
  let c := s.cluster cl
  let s1 := s.setCluster cl { c with
    mxq := []
    grd := if c.grd.opened && c.grd.closing.isNone then { c.grd with opened := false, lastRerun := false, kept := [] }
           else c.grd
    mxExec := c.mxExec.map fun e => { e with layer := false } }
  let s2 := c.mxq.foldl (fun (t : State) ws => if slotAddr (mxCompl ws) then t.mxEnd cl ws false 0x3F 0 0 else t) s1
  s2.admitEntries cl mxDepth

/-- A write of MXC_CTL: the flush first, then dispatch resumes. -/
def State.writeMxcCtl (s : State) (cl : Fin 32) (flush resume : Bool) : State :=
  let s1 := if flush then s.mxFlush cl else s
  if resume then s1.mxResume cl else s1

def execMxcResume (w : Requester) (cl : Fin 32) (s : State) : Result :=
  .next (if s.mayWrite w cl true then s.whenAwake cl 0x400 1 fun t => t.writeMxcCtl cl false true else s)

def execMxcFlush (w : Requester) (cl : Fin 32) (s : State) : Result :=
  .next (if s.mayWrite w cl true then s.whenAwake cl 0x400 2 fun t => t.writeMxcCtl cl true false else s)

end Sys2Proof.Machine
end

