-- ==== Sys2Proof/Machine/Builtins.lean ====
section
/-! DEFINITION. The built-in functions of the special-function engine (08 R194, Table 8-5): the correctly rounded value of each,
computed with integers scaled by 2^400, its special and exact values, and the free distance within its bound. FP32 values are bit
patterns. -/

namespace Sys2Proof.Machine

open Sys2Proof

def nan32 : Nat := 0x7FC00000
def one32 : Nat := 0x3F800000
def inf32 : Nat := 0x7F800000

/-! ### Scaled integers -/

/-- 1.0. -/
def fxOne : Int := 2 ^ 400
def fxMul (a b : Int) : Int := a * b / fxOne
def fxDiv (a b : Int) : Int := a * fxOne / b

/-- A finite value, scaled and cut. -/
def fxOf : Fpv → Int
  | .fin neg m d e =>
    let x : Int := if 0 ≤ e + 400 then (m * 2 ^ (e + 400).toNat / d : Nat) else (m / (d * 2 ^ (-(e + 400)).toNat) : Nat)
    if neg then -x else x
  | _ => 0

/-- A scaled integer times 2^k as a value. -/
def fxVal (x k : Int) : Fpv := .fin (x < 0) x.natAbs 1 (k - 400)

/-- Sum of n more terms of a power series: t is the next term, and term k becomes the next by step k. -/
def series (step : Nat → Int → Int) (k : Nat) (t acc : Int) : Nat → Int
  | 0 => acc
  | n + 1 => series step (k + 1) (step k t) (acc + t) n

/-- 2 * atanh z, |z| at most 1/3: ln((1 + z) / (1 - z)). -/
def fxLog (z : Int) : Int :=
  let z2 := fxMul z z
  -- the terms 2 * z^(2k + 1), each divided by 2k + 1 as it is added
  (List.range 260).foldl (fun (a : Int × Int) k => (fxMul a.1 z2, a.2 + a.1 / (2 * k + 1 : Nat))) (2 * z, 0) |>.2

def fxLn2 : Int := fxLog (fxOne / 3)

/-- e^r for a scaled r of magnitude below 1. -/
def fxExp (r : Int) : Int := series (fun k t => fxMul t r / (k + 1 : Nat)) 0 fxOne 0 110

/-- e^x as a scaled integer and a power of two. -/
def expParts (x : Int) : Int × Int :=
  let k := x / fxLn2
  (fxExp (x - k * fxLn2), k)

/-- ln of a positive value (num / den * 2^e). -/
def fxLnOf (num den : Nat) (e : Int) : Int :=
  let k := floorLog num den e
  -- m in [1, 2), scaled
  let m := fxOf (.fin false num den (e - k))
  let up := 3 * fxOne < 2 * m
  let m' := if up then m / 2 else m
  (if up then k + 1 else k) * fxLn2 + fxLog (fxDiv (m' - fxOne) (m' + fxOne))

/-- Integer square root: bits from n - 1 down to 0 that keep the square within v. -/
def isqrt (v : Nat) : Nat → Nat → Nat
  | 0, r => r
  | n + 1, r => isqrt v n (if (r + 2 ^ n) * (r + 2 ^ n) ≤ v then r + 2 ^ n else r)

/-- The square root of num / den * 2^e, as a value cut far beyond FP32. -/
def sqrtVal (num den : Nat) (e : Int) : Fpv :=
  let h := e / 2
  let num := if e % 2 = 0 then num else 2 * num
  .fin false (isqrt (num * 2 ^ 800 / den) 560 0) 1 (h - 400)

/-- atan(1 / q). -/
def fxAtanInv (q : Nat) : Int :=
  (List.range 180).foldl (fun (a : Int × Int) k => (-(a.1 / (q * q : Nat)), a.2 + a.1 / (2 * k + 1 : Nat))) (fxOne / q, 0) |>.2

def fxPi : Int := 16 * fxAtanInv 5 - 4 * fxAtanInv 239

/-- The square root of a positive scaled integer. -/
def fxSqrt (x : Int) : Int := isqrt (x.toNat * 2 ^ 400) 420 0

/-- erf z = z * factor: 2 / sqrt(pi) * sum of (-1)^n z^(2n) / (n! (2n + 1)), |z| at most 10. -/
def fxErfFactor (z : Int) : Int :=
  let z2 := fxMul z z
  let sum := (List.range 480).foldl (fun (a : Int × Int) n =>
    (-(fxMul a.1 z2) / (n + 1 : Nat), a.2 + a.1 / (2 * n + 1 : Nat))) (fxOne, 0) |>.2
  fxDiv (2 * sum) (fxSqrt fxPi)

/-! ### The functions -/

/-- e^(-|x|) as numerator and denominator; 0 far below FP32. -/
def expNeg (v : Fpv) : Nat × Nat :=
  match v with
  | .fin _ m d e =>
    if (Fpv.fin false 300 1 0).lt (.fin false m d e) then (0, 1)
    else
      let p := expParts (-(fxOf (.fin false m d e)))
      (p.1.toNat, 2 ^ (400 - p.2).toNat)
  | _ => (0, 1)

/-- The logistic sigmoid. -/
def sigmoidVal (v : Fpv) : Fpv :=
  let t := expNeg v
  if v.negative then .fin false t.1 (t.1 + t.2) 0 else .fin false t.2 (t.1 + t.2) 0

/-- The exact value of built-in n at a finite value, cut far beyond FP32. -/
def builtinValue (n : Nat) (v : Fpv) : Fpv :=
  match v with
  | .fin neg m d e =>
    let x := fxOf v
    match n with
    | 0 => let p := expParts x
           fxVal p.1 p.2
    | 1 => let k := x / fxOne
           fxVal (fxExp (fxMul (x - k * fxOne) fxLn2)) k
    | 2 => fxVal (fxLnOf m d e) 0
    | 3 => .fin neg d m (-e)
    | 4 => sqrtVal d m (-e)
    | 5 => sqrtVal m d e
    | 6 => sigmoidVal v
    | 7 => let t := expNeg v
           .fin neg (t.2 * t.2 - t.1 * t.1) (t.2 * t.2 + t.1 * t.1) 0
    | 8 => v.mul (fxVal (fxErfFactor x) 0)
    | 9 =>
      if (Fpv.fin false 14 1 0).lt v then v
      else
        let z := fxDiv x (fxSqrt (2 * fxOne))
        v.mul (fxVal ((fxOne + fxMul z (fxErfFactor z)) / 2) 0)
    | 10 => v.mul (sigmoidVal v)
    | _ =>
      -- ln(1 + e^x)
      if v.negative then
        let t := expNeg v
        if t.1 = 0 then .zero false else fxVal (fxLnOf (t.1 + t.2) t.2 0) 0
      else let p := expParts x
           fxVal (fxLnOf (fxOne + p.1 * 2 ^ p.2.toNat).toNat (fxOne).toNat 0) 0
  | _ => .nan

/-! ### Special and exact values (08 Table 8-5, R194) -/

/-- p / q as a value. -/
def ratio (p q : Nat) : Fpv := .fin false p q 0

def above (v : Fpv) (p q : Nat) : Bool := (ratio p q).lt v
def atLeast (v : Fpv) (p q : Nat) : Bool := !v.isNan && !v.lt (ratio p q)
def belowNeg (v : Fpv) (p q : Nat) : Bool := v.lt (ratio p q).neg
def below0 (v : Fpv) : Bool := v.lt (.zero false)

/-- Two values are equal. -/
def Fpv.same (a b : Fpv) : Bool := (a.add b.neg).isZero

/-- The special value of a built-in function that Table 8-5 names; a NaN stays one through every step (03 R91, 08 R191), and an infinite
input for which the table names nothing gives the function's limit (log 104). -/
def builtinSpecial (n x : Nat) : Option Nat :=
  let v := f32Of x
  let sgn (b : Nat) : Nat := if v.negative then 0x80000000 + b else b
  if v.isNan then some nan32
  else match n with
  | 0 => if above v 887228 10000 then some inf32 else if belowNeg v 103973 1000 then some 0 else none
  | 1 => if atLeast v 128 1 then some inf32 else if belowNeg v 1495 10 then some 0 else none
  | 2 => if v.isZero then some 0xFF800000 else if below0 v then some nan32 else if v = .inf false then some inf32 else none
  | 3 => if v.isZero then some (sgn inf32) else if v = .inf false || v = .inf true then some (sgn 0) else none
  | 4 => if v.isZero then some inf32 else if below0 v then some nan32 else if v = .inf false then some 0 else none
  | 5 => if v.isZero then some x else if below0 v then some nan32 else if v = .inf false then some inf32 else none
  | 6 => if above v 1733 100 then some one32 else if belowNeg v 103973 1000 then some 0 else none
  | 7 => if atLeast v.abs 9011 1000 then some (sgn one32) else if v.isZero then some x else none
  | 8 => if atLeast v.abs 392 100 then some (sgn one32) else if v.isZero then some x else none
  | 9 => if belowNeg v 132 10 then some 0 else if v = .inf false then some inf32 else if v.isZero then some x else none
  | 10 => if v = .inf false then some inf32 else if v.isZero then some x else none
  | 11 => if above v 1664 100 then some x else if v = .inf true then some 0 else none
  | _ => none

/-- A result that is exact in FP32 (R194): the correctly rounded one, where the function's value is a number of FP32 itself. -/
def builtinExact (n : Nat) (v y : Fpv) : Bool :=
  match n with
  | 0 => v.isZero
  | 1 => v.same (.fin v.negative (roundAway (match v with | .fin _ m _ _ => m | _ => 0) 1 (match v with | .fin _ _ _ e => e | _ => 0)) 1 0)
  | 2 => v.same (ratio 1 1)
  | 3 => (v.mul y).same (ratio 1 1)
  | 4 => ((y.mul y).mul v).same (ratio 1 1)
  | 5 => (y.mul y).same v
  | 6 => v.isZero
  | _ => false

/-- The bound of a built-in function in units of the last place of y (Table 8-5): slots 9 and 10 allow 2^-126 where that is more. -/
def builtinBound (n y : Nat) : Nat :=
  let e := max (y / 2 ^ 23 % 256) 1
  match n with
  | 6 | 7 | 8 | 11 => 2
  | 9 | 10 => max 3 (2 ^ (24 - e))
  | _ => 1

/-- Order of FP32 patterns as integers; both zeros are 0. -/
def f32Order (x : Nat) : Int := if x / 2 ^ 31 % 2 = 1 then -(x % 2 ^ 31 : Nat) else (x % 2 ^ 31 : Nat)
def f32At (o : Int) : Nat :=
  let m := min o.natAbs 0x7F7FFFFF
  if o < 0 then 2 ^ 31 + m else m

/-- A built-in function at one input (R194): the special and the exact values exactly; otherwise a value whose distance from the
correctly rounded one, within the bound, is free (log 1). SiLU of -infinity, for which no value is stated, is a free value. -/
def builtin (n x : Nat) : Nat :=
  match builtinSpecial n x with
  | some y => y
  | none =>
    let v := f32Of x
    let y := f32Bits (builtinValue n v)
    let free := Config.builtinFn n (BitVec.ofNat 32 x)
    if v = .inf true then free % 2 ^ 32
    else if builtinExact n v (f32Of y) then y
    else
      let b := builtinBound n y
      f32At (f32Order y + (free % (2 * b + 1) : Nat) - b)

end Sys2Proof.Machine
end

