-- ==== Sys2Proof/Machine/Matmul.lean ====
section
/-! DEFINITION. MATMUL (05 R125 to R138, R142, R145 to R147, Table 5-10). -/

namespace Sys2Proof.Machine

open Sys2Proof

/-- The fields of a MATMUL (05 Table 5-10). -/
structure Mm where
  wfmt   : Nat
  n      : Nat
  k      : Nat
  wpitch : Nat
  wsrc   : Nat
  wstep  : Nat
  act    : Nat
  ascale : Nat
  astep  : Nat
  psum   : Nat
  m      : Nat
  afmt   : Nat
  ppitch : Nat
  steps  : Nat
  dist   : Nat
  acc    : Bool
deriving DecidableEq, Repr

def mmOf (ws : List Word) : Mm :=
  let w1 := word ws 1
  let w2 := word ws 2
  let w3 := word ws 3
  let w4 := word ws 4
  let w5 := word ws 5
  { wfmt := bits w1 63 60, n := bits w1 59 49 + 1, k := bits w1 48 42 + 1, wpitch := bits w1 41 32, wsrc := bits w1 31 0
    wstep := bits w2 63 32, act := bits w2 31 0, ascale := bits w3 63 32, astep := bits w3 31 0
    psum := bits w4 63 32, m := bits w4 31 16 + 1, afmt := bits w4 15 12, ppitch := bits w4 11 0
    steps := bits w5 43 32 + 1, dist := bits w5 14 8, acc := bit w5 0 }

/-- K_f and N_f of a form (05 Table 5-3). -/
def formK (f : Nat) : Nat := 128 / 2 ^ f
def formN (f : Nat) : Nat := 512 * 2 ^ f

/-- Formats that run at r = 2 (05 Table 5-2). -/
def fmtNarrow (c : Nat) : Bool := c = 0 || c = 1 || c = 2 || c = 6
def fmtEight (c : Nat) : Bool := c = 3 || c = 4

/-- 05 Table 5-2. -/
def pairOk (w a : Nat) : Bool :=
  ((fmtNarrow w || fmtEight w) && (fmtNarrow a || fmtEight a)) || (w = 5 && a = 5) || (w = 8 && a = 8) || (w = 9 && a = 9)

/-- Values a feed line holds for each row: p of 05 R137, 1 in row-shift mode (R138). -/
def Mm.p (x : Mm) : Nat := if x.dist = 0 && fmtNarrow x.wfmt && fmtNarrow x.afmt then 2 else 1

/-- The rows that are fed: K_t, or RSDIST in row-shift mode (05 R136 to R138). -/
def Mm.fed (x : Mm) : Nat := if x.dist = 0 then x.k else x.dist

/-- The memory part of the skew (05 R136). -/
def Mm.skew (x : Mm) (row : Nat) : Nat := min row (skewG x.fed)

def Mm.wBytes (x : Mm) : Nat := (x.n * fmtWidth x.wfmt + 7) / 8
def Mm.wScaleRows (x : Mm) : Nat := if fmtScaled x.wfmt then (x.k + fmtBand x.wfmt - 1) / fmtBand x.wfmt else 0
def Mm.line (x : Mm) : Nat := feedLine x.fed (fmtWidth x.afmt) x.p
def Mm.sLine (x : Mm) : Nat := scaleLine x.fed (fmtBand x.afmt) x.p
/-- B_t of 05 R137. -/
def Mm.sBands (x : Mm) : Nat := (x.fed + fmtBand x.afmt - 1) / fmtBand x.afmt
def Mm.lines (x : Mm) : Nat := (x.m + x.p - 1) / x.p

/-- The engine's band (05 R127). -/
def Mm.band (x : Mm) : Nat := if fmtBand x.wfmt = fmtBand x.afmt then fmtBand x.wfmt else 16

/-! ### Addresses in the cluster (05 R131, R137) -/

def Mm.wRow (x : Mm) (j row : Nat) : Nat := x.wsrc + j * x.wstep + row * x.wpitch * 64
def Mm.feedBit (x : Mm) (j m k : Nat) : Nat :=
  8 * (x.act + j * x.astep + (m / x.p + x.skew k) * x.line) + (k * x.p + m % x.p) * fmtWidth x.afmt
def Mm.scaleByte (x : Mm) (j m b : Nat) : Nat :=
  x.ascale + j * x.astep + (m / x.p + x.skew (b * fmtBand x.afmt)) * x.sLine + b * x.p + m % x.p
def Mm.psumAt (x : Mm) (m n : Nat) : Nat := x.psum + m * x.ppitch * 64 + n * 4

/-! ### Ranges (05 R131, R137, R142) -/

/-- The weight image of step j: every row is counted with its full pitch, the last one too (log 102). -/
def Mm.wImage (x : Mm) (j : Nat) : Nat × Nat := (x.wsrc + j * x.wstep, (x.k + x.wScaleRows) * x.wpitch * 64)
def Mm.feedImage (x : Mm) (j : Nat) : Nat × Nat :=
  (x.act + j * x.astep, (x.lines + x.skew (x.fed - 1)) * x.line)
def Mm.scaleImage (x : Mm) (j : Nat) : Nat × Nat :=
  if fmtScaled x.afmt then
    (x.ascale + j * x.astep, (x.lines + x.skew ((x.sBands - 1) * fmtBand x.afmt)) * x.sLine)
  else (0, 0)
def Mm.psumRange (x : Mm) : Nat × Nat := (x.psum, x.m * x.ppitch * 64)

def Mm.reads (x : Mm) : List (Nat × Nat) :=
  arrayRange :: (if x.acc then [x.psumRange] else []) ++
    (List.range x.steps).flatMap fun j => [x.wImage j, x.feedImage j, x.scaleImage j]

/-- The whole range lies in one memory of the cluster that ok names; an empty range needs nothing. -/
def inMem (ok : ClMem → Bool) (r : Nat × Nat) : Bool :=
  r.2 = 0 || match rangeMem r.1 r.2 with
    | some m => ok m
    | none => false

def isWeight (m : ClMem) : Bool := m == .weight
def isAct (m : ClMem) : Bool := m == .act
def isPsum (m : ClMem) : Bool := m == .psum

/-! ### Checks (05 R145) -/

def mmEarly (ws : List Word) (x : Mm) (form : Nat) : Nat :=
  firstStatus
    [ wordCheck ws 6,
      chk (fmtAssigned x.wfmt && fmtAssigned x.afmt && bits (word ws 5) 63 44 = 0 && bits (word ws 5) 31 15 = 0 &&
        bits (word ws 5) 7 1 = 0) 0x03,
      chk (x.k ≤ formK form && x.n ≤ formN form && pairOk x.wfmt x.afmt && max x.wBytes x.n ≤ x.wpitch * 64 &&
        x.n * 4 ≤ x.ppitch * 64 && (x.dist = 0 || x.dist < x.k)) 0x08 ]

def mmLate (x : Mm) : Nat :=
  firstStatus
    [ chk (x.wsrc % 64 = 0 && x.wstep % 64 = 0 && x.act % 64 = 0 && x.astep % 64 = 0 && x.psum % 64 = 0 &&
        (!fmtScaled x.afmt || x.ascale % 64 = 0)) 0x02,
      chk ((List.range x.steps).all (fun j => inMem isWeight (x.wImage j) && inMem isAct (x.feedImage j) &&
        inMem isAct (x.scaleImage j)) && inMem isPsum x.psumRange) 0x01 ]

/-- Dispatch of a MATMUL (02 R41, 05 R142, R145). -/
def execMatmul (cl : Fin 32) (s : State) : Result :=
  .next (s.mxDispatch cl true (fun ws => mxOp ws = 1) fun t i =>
    let x := mmOf i.ws
    t.mxCheck cl i (mmEarly i.ws x (t.cluster cl).form.toNat) x.reads [x.psumRange] (fun u => (u, mmLate x)) fun u =>
      .start u (i.exec x.reads [x.psumRange]))

/-! ### The computation (05 R127, R138) -/

/-- The feed position whose value array row k holds at feed step m: itself, or in row-shift mode the row k mod d of an
earlier step; none when the row holds no element. -/
def Mm.held (x : Mm) (m k : Nat) : Option (Nat × Nat) :=
  if x.dist = 0 then some (m, k)
  else if k / x.dist ≤ m then some (m - k / x.dist, k % x.dist) else none

/-- Physical row and column of logical row k and column n in a form (05 R128, Table 5-3). -/
def cellAt (f k n : Nat) : Nat × Nat := (n / 512 * formK f + k, n % 512)

/-- The element code in the cell of logical row k and column n. -/
def cellOf (f : Nat) (plane : List (List Nat)) (k n : Nat) : Nat :=
  let c := cellAt f k n
  (plane.getD c.1 []).getD c.2 0

/-- The tile of step j as it is loaded row by row into the shadow plane: cells outside K_t by N_t hold 0 (05 R131, R132). -/
def Mm.tile (x : Mm) (s : State) (cl : Fin 32) (f j : Nat) : List (List Nat) :=
  (List.range ((x.n + 511) / 512 * formK f)).map fun r =>
    if r % formK f < x.k then
      (List.range (min 512 (x.n - 512 * (r / formK f)))).map fun c =>
        s.peekBits (8 * clusterAddr cl (x.wRow j (r % formK f)) + (512 * (r / formK f) + c) * fmtWidth x.wfmt) (fmtWidth x.wfmt)
    else []

/-- The planes after the tiles were loaded and swapped in, one after the other (05 R133): what the stationary plane held goes to the
shadow plane. -/
def Cluster.swapIn (c : Cluster) (tiles : List (List (List Nat))) : Cluster :=
  tiles.foldl (fun c t => { c with weights := t, shadow := c.weights }) c

/-- w_j[k][n] * a * sa of row k; plane is the stationary plane of step j. -/
def Mm.term (x : Mm) (s : State) (cl : Fin 32) (f : Nat) (plane : List (List Nat)) (j m n k : Nat) : Fpv :=
  match x.held m k with
  | none => .zero false
  | some (m', k') =>
    let w := elemValue x.wfmt (cellOf f plane k n)
    let a := elemValue x.afmt (s.peekBits (8 * clusterAddr cl 0 + x.feedBit j m' k') (fmtWidth x.afmt))
    let sa := if fmtScaled x.afmt then
        scaleValue x.afmt (s.peek (clusterAddr cl (x.scaleByte j m' (k' / fmtBand x.afmt)))).toNat
      else .fin false 1 1 0
    (w.mul a).mul sa

/-- The weight scale sw_j of engine band b in column n. -/
def Mm.wScale (x : Mm) (s : State) (cl : Fin 32) (j b n : Nat) : Fpv :=
  if fmtScaled x.wfmt then
    scaleValue x.wfmt (s.peek (clusterAddr cl (x.wRow j (x.k + b * x.band / fmtBand x.wfmt) + n))).toNat
  else .fin false 1 1 0

/-- A zero t enters the addition as +0.0 (05 R127). -/
def plusZero (v : Fpv) : Fpv := if v.isZero then .zero false else v

/-- One band of one step added to s, an FP32 pattern. -/
def Mm.addBand (x : Mm) (st : State) (cl : Fin 32) (f : Nat) (plane : List (List Nat)) (j m n : Nat) (s b : Nat) : Nat :=
  let rows := (List.range (min x.band (x.k - b * x.band))).map fun r => x.term st cl f plane j m n (b * x.band + r)
  let t := (rows.foldl Fpv.add (.zero false)).mul (x.wScale st cl j b n)
  f32Bits ((f32Of s).add (plusZero t))

/-- Output element (m, n) after the steps whose tiles are given (05 R127). -/
def Mm.result (x : Mm) (st : State) (cl : Fin 32) (f : Nat) (tiles : List (List (List Nat))) (m n : Nat) : Nat :=
  let s0 := if x.acc then st.peekBits (8 * clusterAddr cl (x.psumAt m n)) 32 else 0
  tiles.zipIdx.foldl (fun s t =>
    (List.range ((x.k + x.band - 1) / x.band)).foldl (x.addBand st cl f t.1 t.2 m n) s) s0

/-- What step j reads, in module-view ranges; the partial sums with step 0 when ACC is 1. -/
def Mm.stepReads (x : Mm) (cl : Fin 32) (j : Nat) : List (Nat × Nat) :=
  let base := clusterAddr cl 0
  let wRows := (List.range x.k).map (fun r => (base + x.wRow j r, x.wBytes)) ++
    (List.range x.wScaleRows).map fun r => (base + x.wRow j (x.k + r), x.n)
  let feed := (List.range x.m).flatMap fun m =>
    (List.range x.fed).map (fun k => bitRange (8 * base + x.feedBit j m k) (fmtWidth x.afmt)) ++
      if fmtScaled x.afmt then (List.range x.sBands).map fun b => (base + x.scaleByte j m b, 1) else []
  let sums := if x.acc && j = 0 then (List.range x.m).map fun m => (base + x.psumAt m 0, x.n * 4) else []
  wRows ++ feed ++ sums

/-- Read the images of steps j, j + 1, ... (n of them) until one meets an uncorrectable error: the state, the number of steps
read well, and the code words that failed. -/
def Mm.readSteps (x : Mm) (cl : Fin 32) (s : State) (j : Nat) : Nat → State × Nat × List Nat
  | 0 => (s, j, [])
  | n + 1 =>
    let r := s.touch (x.stepReads cl j)
    if r.2.isEmpty then x.readSteps cl r.1 (j + 1) n else (r.1, j, r.2)

/-- Write the partial sums: element (m, n) takes f m n. -/
def Mm.putSums (x : Mm) (cl : Fin 32) (s : State) (f : Nat → Nat → Nat) : State :=
  (List.range x.m).foldl (fun (t : State) m =>
    t.writeMem (clusterAddr cl (x.psumAt m 0)) (whole ((List.range x.n).flatMap fun n => toBytes (f m n) 4))) s

/-- A MATMUL ends (05 R135, R146, R147): steps is where QUIESCE_ABORT stops it. After an uncorrectable error every row of the
range is a free value (R146). The tile of every step that was fed passes through the shadow plane to the stationary one (R132,
R133). -/
def execMatmulComplete (cl : Fin 32) (i : Fin 16) (steps : Nat) (s : State) : Result :=
  match s.mxRunning cl 1 i with
  | none => .next s
  | some e =>
    let x := mmOf e.words
    let aborted := (s.cluster cl).aborts e && steps < x.steps
    let p := if aborted then steps else x.steps
    let r := x.readSteps cl s 0 p
    let form := (s.cluster cl).form.toNat
    let tiles := (List.range r.2.1).map fun j => x.tile r.1 cl form j
    let t := (r.1.count (s.partOf cl) 1 r.2.1).updCluster cl fun c => c.swapIn tiles
    if r.2.2.isEmpty then
      .next ((x.putSums cl t fun m n => x.result t cl form tiles m n).mxDone cl e (if aborted then 0x07 else 0) p 0)
    else
      let u := x.putSums cl t.drawn fun m n =>
        ofBytes ((List.range 4).map fun b => Config.freeStream s.freeCtr ((m * x.n + n) * 4 + b))
      .next ((u.disposeAll r.2.2).mxDone cl e 0x05 r.2.1 0)

end Sys2Proof.Machine
end

