-- ==== Sys2Proof/Machine/Sfe.lean ====
section
/-! DEFINITION. The special-function engine: SFTAB and SFE (05 Table 5-13; 08 R186 to R204). FP32 values are bit patterns and
every step rounds once. -/

namespace Sys2Proof.Machine

open Sys2Proof

def fneg (x : Nat) : Nat := f32Bits (f32Of x).neg

/-- The private exponential and reciprocal square root (08 R195). -/
def privExp (x : Nat) : Nat := builtin 0 x
def privRsqrt (x : Nat) : Nat := builtin 4 x

/-- Slots whose built-in is a micro-program (08 Table 8-5). -/
def builtinIsProgram (n : Nat) : Bool := n != 7 && n != 8

def FnSlot.isProgram : FnSlot → Bool
  | .program _ => true
  | .builtin n => builtinIsProgram n.val
  | _ => false

def FnSlot.isTable : FnSlot → Bool
  | .segments _ => true
  | .builtin n => !builtinIsProgram n.val
  | _ => false

/-- SFE_SLOT_KIND (08 Table 8-0a). -/
def Cluster.slotKind (c : Cluster) : Word :=
  BitVec.ofNat 64 ((List.range 64).foldl (fun x n => x + b2n (c.slot n).isProgram * 2 ^ n) 0)

/-! ### Images (08 Tables 8-1 to 8-3, R190 to R192) -/

/-- Segments of a table image, and its bytes. -/
def segCount (im : List Byte) : Nat := bits (imWord im 0) 7 0 + 1
def segBytes (im : List Byte) : Nat := 64 + 16 * segCount im

def finite32 (x : Nat) : Bool := (f32Of x).isFin

/-- A segment table image obeys Table 8-1. -/
def segValid (im : List Byte) : Bool :=
  let w0 := imWord im 0
  let w1 := imWord im 1
  let w2 := imWord im 2
  bits w0 63 40 = 0 && bits w0 31 29 = 0 && bits w0 17 8 = 0 && bits w0 25 24 < 3 && bits w0 23 22 < 2 && bits w0 21 20 < 2 &&
  bits w2 31 0 = 0 && (List.range 4).all (fun i => imWord im (4 + i) = 0) &&
  (if bit w0 18 then 1 ≤ bits w0 39 32 && bits w0 39 32 ≤ 254 && w1 = 0 && w2 = 0
   else
    let x0 := f32Of (bits w1 31 0)
    let x1 := f32Of (bits w1 63 32)
    let iw := f32Of (bits w2 63 32)
    x0.isFin && x1.isFin && x0.lt x1 && iw.isFin && (Fpv.zero false).lt iw)

/-- floor of a nonnegative finite value. -/
def Fpv.floorNat (v : Fpv) : Nat :=
  match v with
  | .fin _ num den e => if 0 ≤ e then num * 2 ^ e.toNat / den else num / (den * 2 ^ (-e).toNat)
  | _ => 0

/-- Where an input falls in a segment table. -/
inductive SegAt where
  | below | above
  | idx (i : Nat)
deriving DecidableEq, Repr

/-- The index of a nonnegative or unsymmetric input (08 R191). -/
def segIndex (im : List Byte) (x : Nat) : SegAt :=
  let w0 := imWord im 0
  let n := segCount im
  if bit w0 18 then
    let e := x / 2 ^ 23 % 256
    let m := x % 2 ^ 23
    let mb := bits w0 28 26
    let e0 := bits w0 39 32
    if x % 2 ^ 31 = 0 || e < e0 then .below
    else if e = 255 then .above
    else
      let i := (e - e0) * 2 ^ mb + m / 2 ^ (23 - mb)
      if n ≤ i then .above else .idx i
  else
    let x0 := f32Of (bits (imWord im 1) 31 0)
    let x1 := f32Of (bits (imWord im 1) 63 32)
    let v := f32Of x
    if v.lt x0 then .below
    else if !v.lt x1 then .above
    else .idx (min ((v.add x0.neg).mul (f32Of (bits (imWord im 2) 63 32))).floorNat (n - 1))

/-- Evaluate segment i at x. -/
def segAt (im : List Byte) (i x : Nat) : Nat :=
  let b := 64 + 16 * i
  let u := fsub x (field im b 4)
  let c0 := field im (b + 4) 4
  let c1 := field im (b + 8) 4
  let c2 := field im (b + 12) 4
  if bit (imWord im 0) 19 then fadd c0 (fmul u (fadd c1 (fmul c2 u))) else fadd c0 (fmul c1 u)

/-- A segment table at one input (08 R191). -/
def segEval (im : List Byte) (x0 : Nat) : Nat :=
  let w0 := imWord im 0
  let sym := bits w0 25 24
  let s := x0 / 2 ^ 31 % 2 = 1
  if (f32Of x0).isNan then nan32
  else
    let x := if sym ≠ 0 && s then x0 % 2 ^ 31 else x0
    let neg := sym = 1 && s
    if bit w0 18 && x / 2 ^ 31 % 2 = 1 && x ≠ 0x80000000 then nan32
    else
      let y := match segIndex im x with
        | .below => if bits w0 21 20 = 0 then bits (imWord im 3) 31 0 else segAt im 0 x
        | .above => if bits w0 23 22 = 0 then bits (imWord im 3) 63 32 else segAt im (segCount im - 1) x
        | .idx i => segAt im i x
      if neg then fneg y else y

/-- Micro-instructions (08 Table 8-2). -/
def microCount (im : List Byte) : Nat := bits (imWord im 0) 5 0 + 1
def microAt (im : List Byte) (i : Nat) : Nat := field im (192 + 4 * i) 4
def microOp (w : Nat) : Nat := w / 2 ^ 28 % 16

/-- One instruction's fields obey Tables 8-2 and 8-3. -/
def microOk (w : Nat) : Bool :=
  let op := microOp w
  let aux := w % 256
  let c := w / 2 ^ 16 % 8
  op ≤ 7 && (op = 3 || c = 0) && (w / 2 ^ 15 % 2 = 1 || w / 2 ^ 8 % 32 = 0) &&
  (match op with
   | 2 => aux < 4
   | 4 => aux < 64
   | 5 => aux < 2
   | _ => aux = 0)

/-- A micro-program image obeys R192. -/
def microValid (im : List Byte) : Bool :=
  let n := microCount im
  bits (imWord im 0) 63 6 = 0 && (List.range 7).all (fun i => imWord im (1 + i) = 0) &&
  (List.range n).all fun i => microOk (microAt im i) && ((microOp (microAt im i) = 7) == (i + 1 = n))

/-- Slots that a micro-program's LUT steps name. -/
def microLuts (im : List Byte) : List Nat :=
  (List.range (microCount im)).filterMap fun i =>
    let w := microAt im i
    if microOp w = 4 then some (w % 64) else none

/-- a with its exponent replaced so that its magnitude lies in [1, 2) (08 Table 8-3, EXPX). -/
def unitExponent (a : Nat) : Nat :=
  match f32Of a with
  | .fin neg m d e => if m = 0 then a else f32Bits (.fin neg m d (e - floorLog m d e))
  | _ => a

/-- The exponent of a as a value. -/
def exponentOf (a : Nat) : Nat :=
  match f32Of a with
  | .nan => nan32
  | .inf _ => inf32
  | .fin _ m d e => if m = 0 then 0xFF800000 else f32Bits (Fpv.ofInt (floorLog m d e))

/-- n of EXPI: b truncated toward zero, limited. -/
def truncLimit (b : Nat) : Int :=
  match f32Of b with
  | .nan => 0
  | .inf neg => if neg then -512 else 512
  | .fin neg m d e =>
    let t : Int := min ((Fpv.fin false m d e).floorNat) 512
    if neg then -t else t

def cmp32 (rel a b : Nat) : Bool :=
  let x := f32Of a
  let y := f32Of b
  let un := x.isNan || y.isNan
  match rel with
  | 0 => !un && !x.lt y && !y.lt x
  | 1 => x.lt y
  | 2 => !un && !y.lt x
  | _ => un

/-- The segment table of a slot at an input. -/
def Cluster.lut (c : Cluster) (n x : Nat) : Nat :=
  match c.slot n with
  | .segments im => segEval im x
  | .builtin k => builtin k.val x
  | _ => nan32

/-- One micro-instruction's result (08 Table 8-3). -/
def Cluster.microStep (c : Cluster) (w a b tc : Nat) : Nat :=
  match microOp w with
  | 0 => fmul a b
  | 1 => fadd a b
  | 2 => if cmp32 (w % 4) a b then one32 else 0
  | 3 => if (f32Of a).isZero then tc else b
  | 4 => c.lut (w % 64) a
  | 5 => if w % 2 = 0 then exponentOf a else unitExponent a
  | 6 => if (f32Of b).isNan then nan32 else f32Bits ((f32Of a).mul (.fin false 1 1 (truncLimit b)))
  | _ => a

def flipIf (n : Bool) (x : Nat) : Nat := if n then x ^^^ 0x80000000 else x

/-- Run the instructions given on the working values (08 R192). -/
def Cluster.microRun (c : Cluster) (im : List Byte) : List Nat → (Nat → Nat) → Nat
  | [], t => t 0
  | w :: ws, t =>
    let a := flipIf (w.testBit 14) (t (w / 2 ^ 22 % 8))
    let b := flipIf (w.testBit 13) (if w.testBit 15 then field im (64 + 4 * (w / 2 ^ 8 % 32)) 4 else t (w / 2 ^ 19 % 8))
    let r := c.microStep w a b (t (w / 2 ^ 16 % 8))
    if microOp w = 7 then a
    else c.microRun im ws fun d => if d = w / 2 ^ 25 % 8 then r else t d

/-- The function in a slot at one FP32 input. -/
def Cluster.apply (c : Cluster) (n x : Nat) : Nat :=
  match c.slot n with
  | .segments im => segEval im x
  | .program im =>
    c.microRun im ((List.range (microCount im)).map (microAt im)) fun d => if d = 0 then x else 0
  | .builtin k => builtin k.val x
  | .empty => nan32

/-! ### SFTAB (08 R187, R188, R204) -/

/-- Bytes of the image an SFTAB names. -/
def State.imageBytes (s : State) (cl : Fin 32) (program : Bool) (a : Nat) : Nat :=
  if program then 448 else segBytes (s.peekBytes (clusterAddr cl a) 64)

/-- The checks of an SFTAB's address and image: the state its reads leave and the status. -/
def sftabLate (s : State) (cl : Fin 32) (program : Bool) (a : Nat) : State × Nat :=
  if a % 64 ≠ 0 then (s, 0x02)
  else if (rangeMem a 64).isNone || (rangeMem a (s.imageBytes cl program a)).isNone then (s, 0x01)
  else
    let g := s.readMem (clusterAddr cl a) (s.imageBytes cl program a)
    if g.ues ≠ [] then (g.st, 0x05)
    else (g.st, chk (if program then microValid g.data else segValid g.data) 0x08)

/-- The engine while an SFE runs: no SFTAB queued after it starts, whatever slot it names (08 R203). -/
def sfeRange : Nat × Nat := (2 ^ 42, 1)

def execSftab (cl : Fin 32) (s : State) : Result :=
  .next (s.mxDispatch cl true (fun ws => mxOp ws = 5) fun t i =>
    let w := word i.ws 1
    let n := bits w 37 32
    let a := bits w 31 0
    t.mxCheck cl i (firstStatus [wordCheck i.ws 2, chk (bits w 63 39 = 0) 0x03])
      [(a, t.imageBytes cl (bit w 38) a)] [slotRange n, sfeRange] (fun u => sftabLate u cl (bit w 38) a) fun u =>
        let im := u.peekBytes (clusterAddr cl a) (u.imageBytes cl (bit w 38) a)
        .fin (u.updCluster cl fun c => { c with
          slots := SMap.set FnSlot.reset c.slots n (if bit w 38 then .program im else .segments im) }) 0 0 0)

/-! ### SFE: fields and checks (05 Table 5-13, 08 R193, R196, R197, R199) -/

structure Sf where
  dst   : Nat
  src   : Nat
  mask  : Nat
  rows  : Nat
  n     : Nat
  func  : Nat
  ifmt  : Nat
  ofmt  : Nat
  param : Nat
deriving DecidableEq, Repr

def sfOf (ws : List Word) : Sf :=
  let w1 := word ws 1
  let w2 := word ws 2
  let w3 := word ws 3
  { dst := bits w1 63 32, src := bits w1 31 0, mask := bits w2 63 32, rows := bits w2 31 16 + 1, n := bits w2 15 0 + 1
    func := bits w3 63 56, ifmt := bits w3 55 52, ofmt := bits w3 51 48, param := bits w3 31 0 }

def round64 (n : Nat) : Nat := (n + 63) / 64 * 64

/-- Bytes of an element, and the pitch of a row. -/
def fmtBytes (c : Nat) : Nat := fmtWidth c / 8
def Sf.pin (x : Sf) : Nat := round64 (x.n * fmtBytes x.ifmt)
def Sf.pout (x : Sf) : Nat := round64 (x.n * fmtBytes x.ofmt)

def Sf.srcRange (x : Sf) : Nat × Nat := (x.src, (x.rows - 1) * x.pin + x.n * fmtBytes x.ifmt)
def Sf.dstRange (x : Sf) : Nat × Nat := (x.dst, (x.rows - 1) * x.pout + x.n * fmtBytes x.ofmt)

/-- Bytes of a mask row: Q of R199. -/
def Sf.maskRow (x : Sf) : Nat := (x.n + 511) / 512 * 64

/-- The mask or affine block; empty when there is none. -/
def Sf.maskRange (x : Sf) : Nat × Nat :=
  if x.mask = 0 then (0, 0)
  else match x.func with
    | 0x40 => (x.mask, x.rows * x.maskRow)
    | 0x41 => (x.mask, 4 * x.n)
    | 0x42 => (x.mask, round64 (4 * x.n) + 4 * x.n)
    | _ => (0, 0)

def plainFmt (c : Nat) : Bool := c = 8 || c = 9 || c = 0xA

/-- PARAM and the slot of the function (08 R193, R196, R199, Normalisation). -/
def Sf.funcOk (x : Sf) (c : Cluster) : Bool :=
  let v := f32Of x.param
  match x.func with
  | 0x40 => v.isFin && !v.isZero && !v.negative
  | 0x41 | 0x42 => v.isFin && (v.isZero || !v.negative)
  | f => v.isFin && !v.isZero && x.mask = 0 &&
    (match c.slot f with
     | .empty => false
     | .program im => (microLuts im).all fun n => (c.slot n).isTable
     | _ => true)

/-- 08 R197. -/
def Sf.overlapOk (x : Sf) : Bool := (x.src = x.dst && x.pin = x.pout) || !meet x.srcRange x.dstRange

def sfEarly (ws : List Word) (x : Sf) (c : Cluster) : Nat :=
  firstStatus
    [ wordCheck ws 4,
      chk (fmtAssigned x.ifmt && fmtAssigned x.ofmt && x.func ≤ 0x42 && bits (word ws 3) 47 32 = 0) 0x03,
      chk (plainFmt x.ifmt && plainFmt x.ofmt && x.funcOk c && x.overlapOk) 0x08 ]

def actOrPsum (m : ClMem) : Bool := m == .act || m == .psum
def actOrData (m : ClMem) : Bool :=
  match m with
  | .act => true
  | .dmem _ => true
  | _ => false

def sfLate (x : Sf) : Nat :=
  firstStatus
    [ chk (x.mask % 64 = 0) 0x02,
      chk (inMem actOrPsum x.srcRange && inMem actOrPsum x.dstRange && inMem actOrData x.maskRange) 0x01 ]

/-- What an SFE reads (08 R188). -/
def Sf.reads (x : Sf) (c : Cluster) : List (Nat × Nat) :=
  [x.srcRange, x.maskRange, sfeRange] ++
    if x.func < 0x40 then
      slotRange x.func :: (match c.slot x.func with
        | .program im => (microLuts im).map slotRange
        | _ => [])
    else []

/-- Dispatch of an SFE whose FUNC is one of the row's. -/
def State.sfDispatch (s : State) (cl : Fin 32) (mine : Nat → Bool) : State :=
  s.mxDispatch cl true (fun ws => mxOp ws = 4 && mine (sfOf ws).func) fun t i =>
    let x := sfOf i.ws
    let c := t.cluster cl
    t.mxCheck cl i (sfEarly i.ws x c) (x.reads c) [x.dstRange] (fun u => (u, sfLate x)) fun u =>
      .start u (i.exec (x.reads c) [x.dstRange])

/-- FUNC 0x00 to 0x3F, and the reserved codes, which end with 0x03 (08 R196). -/
def execSfeFunction (cl : Fin 32) (s : State) : Result := .next (s.sfDispatch cl fun f => f < 0x40 || 0x42 < f)
def execSfeSoftmax (cl : Fin 32) (s : State) : Result := .next (s.sfDispatch cl fun f => f = 0x40)
def execSfeRmsNormalisation (cl : Fin 32) (s : State) : Result := .next (s.sfDispatch cl fun f => f = 0x41)
def execSfeLayerNormalisation (cl : Fin 32) (s : State) : Result := .next (s.sfDispatch cl fun f => f = 0x42)

/-! ### SFE: one row -/

/-- Widen an element to FP32, and narrow a result (08 R196, 03 Table 3-13). -/
def widen (c x : Nat) : Nat := f32Bits (elemValue c x)
def narrow (c y : Nat) : Nat :=
  match c with
  | 8 => encodeIeee 8 7 (f32Of y)
  | 9 => encodeIeee 5 10 (f32Of y)
  | _ => y

def fdiv (x y : Nat) : Nat := f32Bits ((f32Of x).div (f32Of y))

/-- Pass one of soft maximum: m, s, k, seen and bad (08 R200). -/
structure Smx where
  m    : Nat := 0xFF800000
  s    : Nat := 0
  k    : Nat := 0
  seen : Bool := false
  bad  : Bool := false

def Smx.step (a : Smx) (x : Nat) : Smx :=
  let v := f32Of x
  if v.isNan then { a with bad := true }
  else if v = .inf false then { a with k := a.k + 1 }
  else if v = .inf true then a
  else if !a.seen then { a with m := x, s := one32, seen := true }
  else if (f32Of a.m).lt v then { a with s := fadd (fmul a.s (privExp (fsub a.m x))) one32, m := x }
  else { a with s := fadd a.s (privExp (fsub x a.m)) }

/-- Soft maximum of a row; a masked position is none. The results and SMX_EMPTY (08 R200). -/
def softmaxRow (param : Nat) (row : List (Option Nat)) : List Nat × Bool :=
  let xs := row.map fun e => e.map fun y => fmul y param
  let a := (xs.filterMap id).foldl Smx.step {}
  (xs.map fun e =>
    if a.bad then nan32
    else match e with
      | none => 0
      | some x =>
        if a.k > 0 then (if f32Of x = .inf false then f32Bits (.fin false 1 a.k 0) else 0)
        else if !a.seen || f32Of x = .inf true then 0
        else fdiv (privExp (fsub x a.m)) a.s,
   !a.bad && a.k = 0 && !a.seen)

/-- rsqrt of round32(round32(q / n) + eps) (08 R201, R202). -/
def normRoot (q n eps : Nat) : Nat := privRsqrt (fadd (f32Bits ((f32Of q).div (.fin false n 1 0))) eps)

/-- 08 R201; g gives the gains, none without an affine block. -/
def rmsRow (eps : Nat) (g : Option (List Nat)) (xs : List Nat) : List Nat :=
  let q := xs.foldl (fun q x => fadd q (fmul x x)) 0
  let r := normRoot q xs.length eps
  xs.zipIdx.map fun x =>
    let y := fmul x.1 r
    match g with
    | some gs => fmul y (gs.getD x.2 one32)
    | none => y

/-- 08 R202; ab gives the gains and biases. -/
def layerRow (eps : Nat) (ab : Option (List Nat × List Nat)) (xs : List Nat) : List Nat :=
  let mv := xs.zipIdx.foldl (fun (a : Nat × Nat) x =>
    let d := fsub x.1 a.1
    let mu := f32Bits ((f32Of a.1).add ((f32Of d).div (.fin false (x.2 + 1) 1 0)))
    (mu, fadd a.2 (fmul d (fsub x.1 mu)))) (0, 0)
  let r := normRoot mv.2 xs.length eps
  xs.zipIdx.map fun x =>
    let y := fmul (fsub x.1 mv.1) r
    match ab with
    | some (gs, bs) => fadd (fmul y (gs.getD x.2 one32)) (bs.getD x.2 0)
    | none => y

/-- Whether position (i, j) is masked (08 R199). -/
def Sf.masked (x : Sf) (s : State) (cl : Fin 32) (i j : Nat) : Bool :=
  x.func = 0x40 && x.mask ≠ 0 && (s.peek (clusterAddr cl (x.mask + i * x.maskRow + j / 8))).toNat.testBit (j % 8)

def Sf.elemAt (x : Sf) (s : State) (cl : Fin 32) (i j : Nat) : Nat :=
  widen x.ifmt (s.peekBits (8 * clusterAddr cl (x.src + i * x.pin) + j * fmtWidth x.ifmt) (fmtWidth x.ifmt))

def State.floats (s : State) (a n : Nat) : List Nat := (List.range n).map fun j => s.peekBits (8 * (a + 4 * j)) 32

/-- Results of row i and whether it was wholly masked. -/
def Sf.row (x : Sf) (s : State) (cl : Fin 32) (i : Nat) : List Nat × Bool :=
  let xs := (List.range x.n).map (x.elemAt s cl i)
  let gain := s.floats (clusterAddr cl x.mask) x.n
  let bias := s.floats (clusterAddr cl (x.mask + round64 (4 * x.n))) x.n
  match x.func with
  | 0x40 => softmaxRow x.param ((List.range x.n).map fun j =>
      if x.masked s cl i j then none else some (x.elemAt s cl i j))
  | 0x41 => (rmsRow x.param (if x.mask = 0 then none else some gain) xs, false)
  | 0x42 => (layerRow x.param (if x.mask = 0 then none else some (gain, bias)) xs, false)
  | f => (xs.map fun y => (s.cluster cl).apply f (fmul y x.param), false)

/-- What row i reads, in module-view ranges: its mask row or the affine block, and its elements but the masked ones. -/
def Sf.rowReads (x : Sf) (s : State) (cl : Fin 32) (i : Nat) : List (Nat × Nat) :=
  let mr := x.maskRange
  let aux := if mr.2 = 0 then []
    else if x.func = 0x40 then [(clusterAddr cl (x.mask + i * x.maskRow), (x.n + 7) / 8)]
    else if x.func = 0x41 then [(clusterAddr cl x.mask, 4 * x.n)]
    else [(clusterAddr cl x.mask, 4 * x.n), (clusterAddr cl (x.mask + round64 (4 * x.n)), 4 * x.n)]
  aux ++ ((List.range x.n).filter fun j => !x.masked s cl i j).map fun j =>
    (clusterAddr cl (x.src + i * x.pin) + j * fmtBytes x.ifmt, fmtBytes x.ifmt)

/-- Write a row of results. -/
def Sf.putRow (x : Sf) (cl : Fin 32) (s : State) (i : Nat) (f : Nat → Nat) : State :=
  s.writeMem (clusterAddr cl (x.dst + i * x.pout))
    (whole ((List.range x.n).flatMap fun j => toBytes (f j) (fmtBytes x.ofmt)))

/-- How a run of rows ends: the state, the rows completed, SMX_EMPTY, and the code words that failed. -/
structure SfRun where
  st    : State
  done  : Nat
  empty : Bool
  ues   : List Nat

/-- Rows i, i + 1, ... (n of them) in order (08 R197, R198): an uncorrectable error leaves its row unspecified and ends. -/
def Sf.run (x : Sf) (cl : Fin 32) (s : State) (i : Nat) (empty : Bool) : Nat → SfRun
  | 0 => ⟨s, i, empty, []⟩
  | n + 1 =>
    let r := s.touch (x.rowReads s cl i)
    if r.2.isEmpty then
      let o := x.row r.1 cl i
      x.run cl (x.putRow cl r.1 i fun j => narrow x.ofmt (o.1.getD j 0)) (i + 1) (empty || o.2) n
    else
      ⟨x.putRow cl r.1.drawn i fun j =>
        ofBytes ((List.range 4).map fun b => Config.freeStream r.1.freeCtr (4 * j + b)), i, empty, r.2⟩

/-- An SFE ends (08 R198): rows is where QUIESCE_ABORT stops it (05 R147). -/
def execSfeComplete (cl : Fin 32) (i : Fin 16) (rows : Nat) (s : State) : Result :=
  match s.mxRunning cl 4 i with
  | none => .next s
  | some e =>
    let x := sfOf e.words
    let aborted := (s.cluster cl).aborts e && rows < x.rows
    let r := x.run cl s 0 false (if aborted then rows else x.rows)
    let st := if !r.ues.isEmpty then 0x05 else if aborted then 0x07 else 0
    .next ((r.st.disposeAll r.ues).mxDone cl e st r.done (if r.empty then 2 else 0))

end Sys2Proof.Machine
end

