-- ==== Sys2Proof/Machine/ClusterRegs.lean ====
section
/-! DEFINITION. The cluster register block (02 Table 2-8, 07 Table 7-5, 08 Table 8-0, 09 Table 9-5, 10 Tables 10-7 and 10-13, 14
Table 14-5, 16 Tables 16-5a and 16-11, 17 Table 17-8, 18 Table 18-7, 20 R459, R464) as it is read and written, and the
instructions CSRR and CSRW that reach it (03 R88, R89). -/

namespace Sys2Proof.Machine

open Sys2Proof

/-! ### Reading -/

/-- MXC_GUARD_STAT (07 Table 7-6). -/
def Guard.stat (g : Guard) : Word :=
  BitVec.ofNat 64 (g.layer.toNat * 2 ^ 48 + b2n g.lastRerun * 2 ^ 33 + b2n g.opened * 2 ^ 32 + g.count.toNat)

/-- A ring's BASE, SIZE, TAIL and HEAD. -/
def Ring.reg (r : Ring) (o : Nat) : Word :=
  match o / 8 with
  | 0 => r.base.zeroExtend 64
  | 1 => r.size.zeroExtend 64
  | 2 => r.tail.zeroExtend 64
  | _ => r.head.zeroExtend 64

/-- The ring whose registers stand at an offset, and the offset within them. -/
def ringAt (o : Nat) : Option (RingId × Nat) :=
  if 0x100 ≤ o && o < 0x300 then
    some (.tm ⟨(o - 0x100) / 0x20 % 16, Nat.mod_lt _ (by decide)⟩, o % 0x20)
  else if 0x500 ≤ o && o < 0x520 then some (.commit, o - 0x500)
  else if 0x540 ≤ o && o < 0x560 then some (.ixr, o - 0x540)
  else if 0x600 ≤ o && o < 0x620 then some (.ftx, o - 0x600)
  else none

/-- The core whose registers stand at an offset, and the offset within them. -/
def coreAt (cl : Fin 32) (o : Nat) : Option (CoreId × Nat) :=
  if 0x8000 ≤ o && o < 0xA000 then some (⟨cl, ⟨(o - 0x8000) / 0x40 % 128, Nat.mod_lt _ (by decide)⟩⟩, o % 0x40) else none

/-- CLU_CORE_ registers of one core (02 Tables 2-14 to 2-17); CTL's bits are self-clearing. -/
def State.coreReg (s : State) (c : CoreId) (o : Nat) : Word :=
  let k := s.core c
  match o with
  | 0x08 => k.stateWord
  | 0x10 => k.startPc.zeroExtend 64
  | 0x18 => k.handler.zeroExtend 64
  | 0x20 => k.causeWord
  | 0x28 => k.excPc.zeroExtend 64
  | 0x30 => k.excAddr.zeroExtend 64
  | 0x38 => s.coreId c
  | _ => 0

/-- The registers of a cluster's block that are neither a ring's nor a core's. CLU_SPILL_POP reads as State.spillPop gives it;
write-only registers and unpopulated offsets read 0. -/
def State.blockReg (s : State) (cl : Fin 32) (o : Nat) : Word :=
  let c := s.cluster cl
  match o with
  | 0x000 => BitVec.ofNat 64 (b2n c.quiesceAbort * 2 + b2n c.quiesce)
  | 0x008 => s.cluStatus cl
  | 0x010 => c.event.zeroExtend 64
  | 0x408 => c.mxcStatus
  | 0x410 => c.grd.stat
  | 0x418 => c.reruns.zeroExtend 64
  | 0x420 => c.slotValid
  | 0x428 => c.slotKind
  | 0x438 => c.memStatus
  | 0x440 => c.age.zeroExtend 64
  | 0x448 => c.ringFault
  | 0x588 => s.spillStat cl
  | 0x590 => if (s.isFirst cl).isSome then c.reqBase.zeroExtend 64 else 0
  | 0x598 => if (s.isFirst cl).isSome then BitVec.ofNat 64 (c.reqSlots.toNat * 2 ^ 16 + c.reqKib.toNat) else 0
  | 0x5C0 => c.intf
  | 0x5D0 => c.step.zeroExtend 64
  | _ => if 0x480 ≤ o && o < 0x500 then SMap.get (fun _ => 0) c.tileReason ((o - 0x480) / 8) else 0

/-- A read of the register at offset o, a multiple of 8. -/
def State.clusterReg (s : State) (cl : Fin 32) (o : Nat) : Word :=
  match ringAt o, coreAt cl o with
  | some (r, i), _ => ((s.cluster cl).ring r).reg i
  | _, some (c, i) => s.coreReg c i
  | _, _ => s.blockReg cl o

/-- A read of CLU_SPILL_POP (16 R370): the oldest visible entry, removed; 0 when there is none. -/
def State.spillPop (s : State) (cl : Fin 32) : State × Word :=
  let f := (s.cluster cl).spill
  match f.front s.cycle with
  | some w => (s.updCluster cl fun c => { c with spill := f.pop s.cycle }, w)
  | none => (s, 0)

/-! ### Writing -/

/-- A write of CLU_STEP in partition cluster 0 is copied to every cluster of the partition; elsewhere it is ignored (20 R459). -/
def State.writeStep (s : State) (cl : Fin 32) (v : Word) : State :=
  match s.isFirst cl with
  | some p => s.updClusters (s.clustersOf p) fun c => { c with step := BitVec.ofNat 32 (bits v 31 0) }
  | none => s

/-- CLU_TRACE is written at most once in 8 cycles of a cluster (20 R464). -/
def State.tracePaced (s : State) (cl : Fin 32) : Bool :=
  let t := (s.cluster cl).traced
  t ≠ 0 && s.cycle < t - 1 + 8

/-- A write of CLU_TRACE: a record of kind 1 while bit 1 of MASK is 1 (20 Table 20-8, R464). -/
def State.writeTrace (s : State) (c : CoreId) (v : Word) : State :=
  if s.traceMask.getLsbD 0 && s.traceEn then
    (s.updCluster c.cl fun g => { g with traced := s.cycle + 1 }).trace 1 (s.partOf c.cl) c.cl.val c.k.val v 0
  else s

/-- A write of CLU_CORE_ registers of one core: RUN, HALT and RESTART act by the state of the core; CAUSE is the one writable
field of its register (02 Table 2-16). -/
def State.writeCoreReg (s : State) (c : CoreId) (o : Nat) (v : Word) : State :=
  match o with
  | 0x00 => s.coreCtlNow c (bit v 0) (bit v 1) (bit v 2)
  | 0x10 => s.updCore c fun k => { k with startPc := BitVec.ofNat 32 (bits v 31 0) }
  | 0x18 => s.updCore c fun k => { k with handler := BitVec.ofNat 32 (bits v 31 0) }
  | 0x20 => s.updCore c fun k => { k with cause := BitVec.ofNat 8 (bits v 7 0) }
  | 0x28 => s.updCore c fun k => { k with excPc := BitVec.ofNat 32 (bits v 31 0) }
  | _ => s

def State.writeRingReg (s : State) (cl : Fin 32) (r : RingId) (o : Nat) (v : Word) : State :=
  match o / 8 with
  | 0 => s.writeBaseSize cl r false v
  | 1 => s.writeBaseSize cl r true v
  | 2 => s.writeTail cl r v
  | _ => s

/-- CLU_EVENT after a write of v: a 1 clears a bit, unless it was set in this same cycle (00 R6). -/
def State.eventsLeft (s : State) (cl : Fin 32) (v : Word) : BitVec 4 :=
  BitVec.ofNat 4 ((List.finRange 4).foldl (fun x b =>
    x + b2n (s.w1c (.event cl b) ((s.cluster cl).event.getLsbD b.val) (bit v b.val)) * 2 ^ b.val) 0)

/-- The registers sliver cores may write that are neither a ring's nor a core's: CLU_EVENT and MXC_CTL (02 Table 2-8), the
request area (16 Table 16-5a), CLU_STEP and, by a core, CLU_TRACE (20 R459, R463). -/
def State.writeShared (s : State) (cl : Fin 32) (o : Nat) (v : Word) : State :=
  match o with
  | 0x010 => s.updCluster cl fun c => { c with event := s.eventsLeft cl v }
  | 0x400 => s.writeMxcCtl cl (bit v 1) (bit v 0)
  | 0x590 => s.writeReqArea cl false v
  | 0x598 => s.writeReqArea cl true v
  | 0x5A0 => s.reqDone cl v
  | 0x5D0 => s.writeStep cl v
  | _ => s

/-- A write of a register of the block that sliver cores may write. -/
def State.writeOpen (s : State) (cl : Fin 32) (o : Nat) (v : Word) : State :=
  match ringAt o, coreAt cl o with
  | some (r, i), _ => s.writeRingReg cl r i v
  | _, some (c, i) => s.writeCoreReg c i v
  | _, _ => s.writeShared cl o v

/-- A write of CLU_ARB_CTL: below 4 sets 4 (09 Table 9-8). -/
def State.writeArb (s : State) (cl : Fin 32) (v : Word) : State :=
  s.updCluster cl fun c => { c with age := BitVec.ofNat 8 (max 4 (bits v 7 0)) }

/-- A write of CLU_MEM_STATUS: REFUSED is cleared by a 1. -/
def State.writeMemStatus (s : State) (cl : Fin 32) (v : Word) : State :=
  s.updCluster cl fun c => { c with memRefused := s.w1c (.memRefused cl) c.memRefused (bit v 1) }

/-- A write of the register at offset o by the module register window: the memory registers belong to the management processors
(09 R218, R219), and CLU_STEP is written by sliver cores (20 R459). -/
def State.writeClusterReg (s : State) (cl : Fin 32) (mgmt : Bool) (o : Nat) (v : Word) : State :=
  match o with
  | 0x000 => s.writeCluCtl cl (bit v 0) (bit v 1)
  | 0x430 => if mgmt && bit v 0 then s.zeroiseNow cl else s
  | 0x438 => if mgmt then s.writeMemStatus cl v else s
  | 0x440 => if mgmt then s.writeArb cl v else s
  | 0x5D0 => s
  | _ => s.writeOpen cl o v

/-! ### CSRR and CSRW (03 R88, R89) -/

/-- Registers only their own core sees (03 Table 3-9). -/
def State.ownReg (s : State) (c : CoreId) (o : Nat) : Word :=
  let k := s.core c
  match o with
  | 0xF000 => s.time
  | 0xF008 => k.cycles
  | 0xF010 => k.retired
  | 0xF018 => k.scratch0
  | 0xF020 => k.scratch1
  | _ => 0

def Core.writeOwn (k : Core) (o : Nat) (v : Word) : Core :=
  match o with
  | 0xF018 => { k with scratch0 := v }
  | 0xF020 => { k with scratch1 := v }
  | _ => k

/-- What CSRR reads, and the state it leaves. -/
def State.csrRead (s : State) (c : CoreId) (o : Nat) : State × Word :=
  if 0xF000 ≤ o then (s, s.ownReg c o)
  else if o = 0x580 then s.spillPop c.cl
  else (s, s.clusterReg c.cl o)

/-- What CSRW does. -/
def State.csrWrite (s : State) (c : CoreId) (o : Nat) (v : Word) : State :=
  if 0xF000 ≤ o then s.updCore c fun k => k.writeOwn o v
  else if o = 0x5D8 then s.writeTrace c v
  else s.writeOpen c.cl o v

/-- A core's earlier stores have all taken effect. -/
def Core.storesDone (k : Core) : Bool := k.stores.isEmpty

/-- CSRR of an index into rd. -/
def State.csrr (s : State) (c : CoreId) (rd : BitVec 5) (idx : BitVec 16) (legal : Bool) : Result :=
  s.issue c 4 legal [] [.s rd] fun t _ =>
    let r := t.csrRead c idx.toNat
    .go (r.1.updCore c fun k => k.setS rd r.2)

def execCsrr (c : CoreId) (rd : BitVec 5) (idx : BitVec 16) (s : State) : Result :=
  s.csrr c rd idx (Instr.wellFormed (.csrr c rd idx))

/-- A read of CLU_SPILL_POP by CSRR (16 R370). -/
def execSpillPop (c : CoreId) (rd : BitVec 5) (s : State) : Result := s.csrr c rd 0x580 true

/-- CSRW takes effect after the core's earlier stores; one of CLU_TRACE waits for its turn (20 R464). -/
def execCsrw (c : CoreId) (ra : BitVec 5) (idx : BitVec 16) (s : State) : Result :=
  s.issue c 4 (Instr.wellFormed (.csrw c ra idx)) [.s ra] [] fun t k =>
    if !k.storesDone || (idx = 0x5D8 && t.traceMask.getLsbD 0 && t.tracePaced c.cl) then .wait
    else .go (t.csrWrite c idx.toNat (k.sreg ra))

/-- 20 R459. -/
def execCluStepWrite (c : CoreId) (v : Word) (s : State) : Result := .next (s.writeStep c.cl v)

/-- 20 R463, R464: the record of a write of CLU_TRACE, whose turn it is. -/
def execCluTraceWrite (c : CoreId) (v : Word) (s : State) : Result :=
  .next (if s.tracePaced c.cl then s else s.writeTrace c v)

end Sys2Proof.Machine
end

