-- ==== Sys2Proof/Machine/RegRead.lean ====
section
/-! DEFINITION. The module register window as it is read (16 Table 16-13): every register at the value its table gives. Reads
that change state stand with their commands: MOD_OWNSEM (16 R366) and CLU_SPILL_POP (16 R370). -/

namespace Sys2Proof.Machine

open Sys2Proof

/-- A field of a register. -/
def put (v lo : Nat) : Nat := v * 2 ^ lo

/-- Put the bits of a predicate side by side, bit i for f i. -/
def mask (n : Nat) (f : Nat → Bool) : Nat := (List.range n).foldl (fun x i => x + b2n (f i) * 2 ^ i) 0

/-! ### Identity and hosts (16) -/

/-- MOD_ID (16 Table 16-14). -/
def State.modId (s : State) : Nat :=
  put 0x5A54 16 + put Config.stepping.toNat 8 + put (b2n s.x16) 1 + b2n (s.variant == .v123)

/-- NVM_ registers (16 Table 16-15). -/
def State.nvmReg (s : State) (o : Nat) : Nat :=
  if o = 0 then b2n s.qosIso
  else if 0x1000 ≤ o && o < 0x5000 then
    let t := (o - 0x1000) / 0x10
    if o % 0x10 = 0 then (SMap.get (fun _ => (0x0101 : Word)) s.vfQos t).toNat
    else (SMap.get (fun _ => (0 : Word)) s.qosRoll.vfStat t).toNat
  else 0

/-! ### Memories and codes (10, 11) -/

/-- Tile residency registers (10 Tables 10-11, 10-12). -/
def State.tileReg (s : State) (o : Nat) : Nat :=
  match o with
  | 0 => b2n s.shareRef * 2 + b2n s.shareEn
  | 8 => s.tileHeals.toNat
  | 0x10 => s.nougat.length
  | _ => 0

def Scrub.word (x : Scrub) : Nat := put (b2n x.enable) 63 + x.interval.toNat

/-- HUB_INJ_CTL (11 Table 11-7). -/
def Inject.ctl (j : Inject) : Nat :=
  put j.pattern.toNat 48 + put j.beat.toNat 32 + put j.posB.toNat 24 + put j.posA.toNat 16 + put j.npos.toNat 2 +
    b2n j.refused * 2 + b2n j.arm

def EccRec.word (r : EccRec) (w : Nat) : Nat :=
  match w with
  | 0 => r.w0.toNat
  | 1 => r.w1.toNat
  | 2 => r.w2.toNat
  | _ => r.w3.toNat

/-- Error-code registers (11 Table 11-5). -/
def State.eccReg (s : State) (o : Nat) : Nat :=
  let at_ (m : SMap Word) (i : Nat) := (SMap.get (fun _ => (0 : Word)) m i).toNat
  if o = 0 then s.scrubD1.word
  else if o = 8 then s.scrubD2.word
  else if o = 0x10 then s.scrubSr.word
  else if 0x100 ≤ o && o < 0x130 then
    let j := s.injectOf ⟨(o - 0x100) / 0x10 % 3, Nat.mod_lt _ (by decide)⟩
    if o % 0x10 = 0 then j.addr.toNat else j.ctl
  else if 0x200 ≤ o && o < 0x280 then at_ s.d2Mark ((o - 0x200) / 8)
  else if 0x1000 ≤ o && o < 0x1700 then
    let i := (o - 0x1000) / 0x20
    match o % 0x20 with
    | 0 => at_ s.eccCe i
    | 8 => at_ s.eccCk i
    | 0x10 => at_ s.eccUe i
    | _ => 0
  else if o = 0x1800 then put s.eccLost.toNat 32 + s.eccNext.toNat
  else if 0x2000 ≤ o && o < 0x2800 then
    (SMap.get (fun _ => ({} : EccRec)) s.eccLog ((o - 0x2000) / 0x20)).word (o % 0x20 / 8)
  else 0

/-! ### Flash (12, 13) -/

/-- HUB_FCH_STATUS (12 Table 12-11). -/
def State.fchStatus (s : State) (c : Fin 64) : Nat :=
  let failed := mask 15 fun d => (SMap.get (fun _ => ({} : Die)) s.dies (c.val * 16 + d)).failed
  put failed 32 + put (b2n (s.chan c).failed) 16 + (s.present c).toNat

def State.flashReg (s : State) (o : Nat) : Nat :=
  if o = 0 then s.suspCtl.toNat
  else if o = 8 then s.rdCtl.toNat
  else if 0x100 ≤ o && o < 0x500 then
    let c : Fin 64 := ⟨(o - 0x100) / 0x10 % 64, Nat.mod_lt _ (by decide)⟩
    if o % 0x10 = 0 then s.fchStatus c else (s.chan c).hold.toNat
  else 0

/-- The bands a class owns. -/
def State.classBands (s : State) (k : Nat) : List Band :=
  (s.bands.map (·.2)).filter fun b => !b.isMeta && classCode b.cls = k && (b.state == .free || b.state == .opened || b.state == .closed)

/-- FTL_CLASS_STAT (13 Table 13-12); LIFE_LEFT is rounded as 00 R9 rounds. -/
def State.classStat (s : State) (k : Nat) : Nat :=
  let bs := s.classBands k
  let mean := if bs.isEmpty then 0 else s.erasedAll + bs.foldl (fun n b => n + b.erases) 0 / bs.length
  let top := if bs.isEmpty then 0 else s.erasedAll + bs.foldl (fun n b => max n b.erases) 0
  let life := ((3000 - mean) * 200 + 3000) / 6000
  put (min mean 4095) 52 + put (min top 4095) 40 + put life 32 + bs.length

/-- FTL_HMB_STAT (13 Table 13-13). -/
def State.hmbStat (s : State) : Nat := put s.hmbFails.toNat 32 + b2n s.hmbSusp

def State.ftlReg (s : State) (o : Nat) : Nat :=
  if o = 0 then s.mediaCtl.toNat
  else if 0x100 ≤ o && o < 0x140 then
    let k := (o - 0x100) / 0x10
    if o % 0x10 = 0 then s.reserveOf k else s.classStat k
  else if o = 0x200 then s.hmbStat
  else 0

/-- Praline registers (14 Tables 14-10 to 14-13). -/
def State.prlReg (s : State) (o : Nat) : Nat :=
  if o < 0x60 then (SMap.get (fun _ => (0 : Word)) s.prlPart (o / 8)).toNat
  else if o = 0x100 then b2n s.prlRef * 2 + b2n s.prlMerge
  else if 0x1000 ≤ o && o < 0x1200 then
    (SMap.get (fun _ => (0 : Word)) s.prlCnt ((o - 0x1000) / 0x20 * 4 + o % 0x20 / 8)).toNat
  else 0

/-! ### Fabric (18) -/

/-- FAB_CTL (18 Table 18-14). -/
def Fabric.ctl (f : Fabric) : Nat :=
  put f.fmFid.toNat 48 + put (b2n f.fmValid) 47 + put f.reqTo.toNat 32 + put f.putTo.toNat 24 + put f.tsync.toNat 16 +
    put f.ttl.toNat 8 + b2n f.annEn

def LinkState.code : LinkState → Nat
  | .down => 0
  | .training => 1
  | .init => 2
  | .plain => 3
  | .secure => 4
  | .failed => 5

/-- FAB_LINK_STATUS (18 Table 18-16); DOWNS is that of the present window. -/
def Link.status (win : Nat) (k : Link) : Nat :=
  put k.peerFid.toNat 48 + put k.peerLink.toNat 42 + put (b2n k.peerValid) 41 + put k.st.code 32 +
    put (if k.downsWin = win then k.downs.toNat else 0) 24

def CutState.code : CutState → Nat
  | .free => 0
  | .holding => 1
  | .done => 2
  | .failed => 3
  | .superseded => 4
  | .resumed => 5

/-- FAB_CUT_STAT (18 Table 18-17). -/
def Cut.stat (c : Cut) : Nat :=
  put c.group.toNat 48 + put c.epoch.toNat 32 + put c.depth.toNat 24 + put c.h.toNat 16 + put (b2n c.initiator) 4 + c.st.code

def Incident.word (x : Incident) (w : Nat) : Nat :=
  match w with
  | 0 => x.first.toNat
  | 1 => x.last.toNat
  | 2 => put x.suspect.toNat 48 + put x.kind.toNat 40 + x.reports.toNat
  | _ => b2n x.opened

def TlogRec.word (x : TlogRec) (w : Nat) : Nat :=
  match w with
  | 0 => x.w0.toNat
  | 1 => x.w1.toNat
  | 2 => x.w2.toNat
  | _ => x.w3.toNat

def Partition.grpWord (q : Partition) : Nat := put (b2n q.grpRef) 16 + q.group.toNat

/-- FAB_ registers but those of a link (18 Table 18-13). -/
def State.fabReg (s : State) (o : Nat) : Nat :=
  let f := s.fab
  if o = 0 then f.ctl
  else if o = 8 then put f.fid.toNat 48 + put f.lmn.toNat 32 + put f.epoch.toNat 16 + b2n f.valid
  else if 0x40 ≤ o && o < 0xA0 then (SMap.get (fun _ => ({} : Partition)) s.parts ((o - 0x40) / 8)).grpWord
  else if o = 0x100 then
    put f.cutGroup.toNat 48 + put f.cutEpoch.toNat 32 + put (b2n f.cutAction) 8 + put (b2n f.cutRefused) 2
  else if 0x110 ≤ o && o < 0x150 then
    let c := SMap.get (fun _ => ({} : Cut)) f.cuts ((o - 0x110) / 0x10)
    if o % 0x10 = 0 then c.stat else c.ticks.toNat
  else if o = 0x200 then put f.incLost.toNat 32 + f.incNext.toNat
  else if 0x1000 ≤ o && o < 0x2000 then
    (SMap.get (fun _ => ({} : Incident)) f.incidents ((o - 0x1000) / 0x20)).word (o % 0x20 / 8)
  else if 0x20000 ≤ o && o < 0x40000 then
    (SMap.get (fun _ => ({} : TlogRec)) f.tlog ((o - 0x20000) / 0x20)).word (o % 0x20 / 8)
  else if 0x40000 ≤ o && o < 0x80000 then
    let r (i : Nat) := (SMap.get (fun _ => (0 : W32)) f.route i).toNat
    put (r ((o - 0x40000) / 4 + 1)) 32 + r ((o - 0x40000) / 4)
  else if 0x80000 ≤ o && o < 0x100000 then (SMap.get (fun _ => (0 : Word)) f.lmns ((o - 0x80000) / 8)).toNat
  else 0

/-- Registers of one link. -/
def State.linkReg (s : State) (l : Fin 36) (o : Nat) : Nat :=
  match o with
  | 0 => b2n (s.link l).enable
  | 8 => (s.link l).status (s.time.toNat / 10000000000)
  | _ => if o < 0x40 then (SMap.get (fun _ => (0 : Word)) (s.link l).cnt ((o - 0x10) / 8)).toNat else 0

/-! ### Security (19) -/

def DebugState.code : DebugState → Nat
  | .closed => 0
  | .openNi => 1
  | .openInv => 2

def State.activeFw (s : State) : Option FwImage := SMap.get (fun _ => none) s.sec.fw s.sec.activeSlot.val

/-- The active firmware is signed by the owner. -/
def State.ownerFwRuns (s : State) : Bool :=
  match s.activeFw with
  | some f => f.ownerSigned
  | none => false

/-- The isolation promise: every condition of 19 Table 19-12, and no thermal throttle (21 R475). -/
def State.promise (s : State) : Bool :=
  s.arb.isolated && s.qosIso && !s.shareEn && s.sec.debugSt == .closed && s.sec.level ≠ 0 && !s.ownerFwRuns &&
    !s.pow.capped && !s.pow.throttled

/-- SEC_STATUS (19 Table 19-14). -/
def State.secStatus (s : State) : Nat :=
  let x := s.sec
  put x.epoch 53 + put x.raises 48 + put x.lowers 43 + put (mask 4 x.enrolled) 39 + put (mask 4 x.revoked) 35 +
    put x.svn 28 + put (b2n s.promise) 8 + put (b2n s.ownerFwRuns) 6 + put x.debugSt.code 4 + x.level

/-- SEC_OTP(w): the device secret reads 0 (19 R430). -/
def Sec.otpReg (x : Sec) (w : Nat) : Nat := if w < 4 then 0 else (x.word w).toNat

/-- SEC_ registers but a processor's own configuration flash registers (19 Table 19-13). -/
def State.secReg (s : State) (o : Nat) : Nat :=
  if o = 0 then s.secStatus
  else if o = 8 then b2n s.sec.fabOwner * 2 + b2n s.sec.ownerFw
  else if 0x2000 ≤ o && o < 0x2800 then s.sec.otpReg ((o - 0x2000) / 8)
  else 0

/-! ### Counters and power (20, 21) -/

/-- Counter and trace registers (20 Table 20-9). -/
def State.cntReg (s : State) (o : Nat) : Nat :=
  if o < 0xC00 then
    (SMap.get (fun _ => (0 : Word)) (SMap.get (fun _ => ({} : Partition)) s.parts (o / 0x100)).pcnt (o % 0x100 / 8)).toNat
  else if o = 0x10000 then put s.traceBase.toNat 48 + put s.traceMask.toNat 1 + b2n s.traceEn
  else if o = 0x10008 then s.traceHead.toNat
  else if o = 0x10100 then
    put s.mgmt.mirrorInt.toNat 48 + put s.mgmt.takeovers.toNat 32 + put (b2n s.mgmt.standbyOk) 2 + put s.mgmt.active.val 1
  else 0

/-- MOD_CLU_PWR (21 Table 21-10). -/
def Cluster.pwrWord (c : Cluster) : Nat :=
  put c.pstate.toNat 20 + put (b2n c.gateEn) 17 + put (b2n c.offEn) 16 + put c.cur.toNat 8 + c.setStep.toNat

/-- Power registers (21 Tables 21-7 to 21-10). -/
def State.powReg (s : State) (o : Nat) : Nat :=
  let p := s.pow
  if o = 0 then put p.pcap.toNat 48 + put (b2n p.throttled) 1 + b2n p.capped
  else if o = 0x18 then put p.watts.toNat 48 + put p.tempMax.toNat 40 + put p.pstate.val 8 + p.lastReset.toNat
  else if 0x100 ≤ o && o < 0x200 then (s.cluster ⟨(o - 0x100) / 8 % 32, Nat.mod_lt _ (by decide)⟩).pwrWord
  else 0

/-! ### The window (16 Table 16-13) -/

/-- The register at an offset of the module register window, a multiple of 8; unpopulated offsets read 0. -/
def State.moduleReg (s : State) (o : Nat) : Nat :=
  if o < 0x1000 then (if o = 0 then s.modId else if o = 0x10 then s.ownsem.toNat else 0)
  else if 0x10000 ≤ o && o < 0x20000 then s.nvmReg (o - 0x10000)
  else if 0x200000 ≤ o && o < 0x201000 then s.tileReg (o - 0x200000)
  else if 0x210000 ≤ o && o < 0x214000 then s.eccReg (o - 0x210000)
  else if 0x220000 ≤ o && o < 0x221000 then s.flashReg (o - 0x220000)
  else if 0x230000 ≤ o && o < 0x231000 then s.ftlReg (o - 0x230000)
  else if 0x240000 ≤ o && o < 0x242000 then s.prlReg (o - 0x240000)
  else if 0x310000 ≤ o && o < 0x310900 then
    s.linkReg ⟨(o - 0x310000) / 0x40 % 36, Nat.mod_lt _ (by decide)⟩ (o % 0x40)
  else if 0x300000 ≤ o && o < 0x400000 then s.fabReg (o - 0x300000)
  else if 0x400000 ≤ o && o < 0x500000 then s.secReg (o - 0x400000)
  else if 0x500000 ≤ o && o < 0x600000 then s.cntReg (o - 0x500000)
  else if 0x600000 ≤ o && o < 0x700000 then s.powReg (o - 0x600000)
  else if 0x1000000 ≤ o && o < 0x1200000 then
    (s.clusterReg ⟨(o - 0x1000000) / 0x10000 % 32, Nat.mod_lt _ (by decide)⟩ (o % 0x10000)).toNat
  else 0

/-! ### Reads that change state, and what each requester reads (16 R366, R370, R374; 11 R259) -/

/-- A read of MOD_OWNSEM by a port acquires it when it is free, and returns the holder (16 R366). -/
def State.semRead (s : State) (p : Port) : State × Word :=
  let t := if s.ownsem = 0 then { s with ownsem := semOf p } else s
  (t, t.ownsem.zeroExtend 64)

/-- The cluster block that holds an offset of the window, and the offset within it. -/
def blockOf (o : Nat) : Option (Fin 32 × Nat) :=
  if 0x1000000 ≤ o && o < 0x1200000 then some (⟨(o - 0x1000000) / 0x10000 % 32, Nat.mod_lt _ (by decide)⟩, o % 0x10000) else none

/-- A port is kept out of the block of a running job's cluster (16 R374). -/
def State.shutOut (s : State) (w : Requester) (cl : Fin 32) : Bool :=
  match w with
  | .bar2 _ => s.jobOn cl && s.sec.debugSt != .openInv
  | _ => false

/-- Its exceptions: CLU_STATUS, MXC_GUARD_STAT, MXC_GUARD_RERUNS and CLU_PART_INTF. -/
def openBlockReg (b : Nat) : Bool := b = 0x008 || b = 0x410 || b = 0x418 || b = 0x5C0

/-- SEC_CFL_STATUS (19 Table 19-16). -/
def CflProc.status (x : CflProc) : Nat := put x.code.toNat 8 + put x.xbank.toNat 4 + b2n x.busy

/-- The registers that each management processor has for itself (19 Table 19-13), read by the active one. -/
def State.ownCfl (s : State) (o : Nat) : Nat :=
  let x := SMap.get (fun _ => ({} : CflProc)) s.sec.procs s.mgmt.active.val
  if o = 0x400108 then x.status
  else if 0x401000 ≤ o && o < 0x401100 then
    ofBytes ((List.range 8).map fun i => SMap.get (fun _ => (0 : Byte)) x.buf (o - 0x401000 + i))
  else 0

/-- An error-log record is read (11 R259). -/
def State.eccSeen (s : State) (o : Nat) : State :=
  if 0x212000 ≤ o && o < 0x212800 then { s with eccUnread := s.eccUnread.filter (· ≠ (o - 0x212000) / 0x20) } else s

/-- What a requester reads at an offset of the window, a multiple of 8, and the state that the read leaves. -/
def State.windowReg (s : State) (w : Requester) (o : Nat) : State × Word :=
  match w, blockOf o with
  | .core c, some (cl, b) => if cl = c.cl then s.csrRead c b else (s, 0)
  | .core _, none => (s, 0)
  | w, some (cl, b) =>
    if s.shutOut w cl && !openBlockReg b then (s, 0)
    else if b = 0x580 then s.spillPop cl
    else (s, s.clusterReg cl b)
  | .bar2 p, none => if o = 0x10 then s.semRead p else (s.eccSeen o, BitVec.ofNat 64 (s.moduleReg o))
  | .mgmt, none => (s.eccSeen o, BitVec.ofNat 64 (s.ownCfl o + s.moduleReg o))

/-- The bytes of a register that an access of 4 or 8 bytes at an offset returns. -/
def accessed (o size : Nat) (v : Word) : Word :=
  if size = 8 then v else if o % 8 = 0 then v &&& 0xFFFFFFFF else v >>> 32

/-- A read whose turn has come: its data goes out. -/
def State.readNow (s : State) (w : Requester) (o size : Nat) : State :=
  let r := s.windowReg w (o / 8 * 8)
  r.1.emit (.registerData w (accessed o size r.2))

/-- A read through the window; one of a sleeping cluster's block wakes it and waits (21 R477). -/
def State.readWindow (s : State) (w : Requester) (o size : Nat) : State :=
  match w, blockOf o with
  | .core _, _ => s.readNow w o size
  | w, some (cl, b) =>
    let c := s.cluster cl
    if c.pstate = 0 || (s.shutOut w cl && !openBlockReg b) then s.readNow w o size
    else s.setCluster cl { c.woken with wakeWrites := c.wakeWrites ++ [.read w o size] }
  | w, none => s.readNow w o size

end Sys2Proof.Machine
end

