-- ==== Sys2Proof/Machine/Admin.lean ====
section
/-! DEFINITION. NVMe admin commands (16 Tables 16-1, 16-4, R350 to R352, R365; 13 R282, R293; 19 R436, R440, R441; 20 R458, R460,
R464). The data of Identify and of log pages stands in the outbox as the values the spec gives, not in the byte layouts of NVM
Express; statuses the spec does not name are those of NVM Express (log 36, 47). -/

namespace Sys2Proof.Machine

open Sys2Proof

/-- A command-specific status of NVM Express. -/
def State.specific (s : State) (h : Hdr) (sc : Byte) : State := s.complete h 1 sc 0

/-- Return words and complete. -/
def State.answerWords (s : State) (h : Hdr) (ws : List Nat) : State :=
  (s.emit (.words h (ws.map (BitVec.ofNat 64)))).okay h 0

/-! ### Identify (16 Table 16-1) -/

/-- Namespaces that exist, in ascending order. -/
def State.nsList (s : State) : List Nat := (s.nss.filter fun e => e.2.isSome).map (·.1)

/-- Namespaces attached to a function. -/
def State.nsOf (s : State) (f : FnId) : List Nat :=
  s.nsList.filter fun n => match s.ns n with
    | some v => v.attached.contains f
    | none => false

def kindCode : NsKind → Nat
  | .block => 0
  | .tile => 1

/-- A power state as a controller reports it (16 Table 16-6): operational, maximum power in watts, entry and exit latency in
microseconds. -/
def powerStates : List (List Nat) :=
  [[1, 1500, 0, 0], [1, 420, 10, 2], [1, 300, 1000, 60000], [0, 15, 5000, 5000], [0, 9, 50000, 2000000]]

/-- Slots of the largest host memory buffer (13 R291), and its bytes, 64 GiB (16 Table 16-1). -/
def hmbMost : Nat := 16519104
def hmbBytes : Nat := 68719476736

/-- A controller: MOD_ID, NSIDs, Abort Command Limit, CAP.TO in seconds, queue entries, its queue pairs and vectors, placement handles, the
volatile write cache, which is present, the most bytes of a host memory buffer, and the power states. -/
def State.controllerData (s : State) (f : FnId) : List Nat :=
  [s.modId, 1023, 7, 15, 4096, (s.fn f).pairs, (s.fn f).vectors, 4, 1, hmbBytes, 5] ++ powerStates.flatten

/-- A namespace: blocks, kind, bytes in a block, placement handles; zeros when it is not attached. -/
def State.nsData (s : State) (f : FnId) (nsid : BitVec 32) : List Nat :=
  match s.nsFor f nsid with
  | some v => [v.blocks, kindCode v.kind, 4096, 4]
  | none => [0, 0, 0, 0]

def execIdentify (h : Hdr) (cns : BitVec 8) (nsid : BitVec 32) (s : State) : Result :=
  .next (s.hostStore h (.identify h cns nsid) fun t =>
    match cns.toNat with
    | 0x00 => t.answerWords h (t.nsData h.fn nsid)
    | 0x01 => t.answerWords h (t.controllerData h.fn)
    | 0x02 => t.answerWords h ((t.nsOf h.fn).filter fun n => nsid.toNat < n)
    | 0x10 => if FnId.isPf h.fn then t.answerWords h (t.nsList.filter fun n => nsid.toNat < n) else t.generic h 0x02
    | _ => t.generic h 0x02)

/-! ### Features (16 Table 16-1, R365; 13 R291, R292; 20 R460) -/

/-- Features kept as set: arbitration, temperature threshold, error recovery, write cache, interrupts, write atomicity, event
configuration, keep-alive, data placement. -/
def plainFeature (fid : Nat) : Bool :=
  fid = 0x01 || fid = 0x04 || fid = 0x05 || fid = 0x06 || fid = 0x08 || fid = 0x09 || fid = 0x0A || fid = 0x0B ||
    fid = 0x0F || fid = 0x1D

def Fn.feat (g : Fn) (fid : Nat) : W32 := SMap.get (fun _ => (0 : W32)) g.feats fid

def State.setFeat (s : State) (f : FnId) (fid : Nat) (v : W32) : State :=
  s.updFn f fun g => { g with feats := SMap.set (fun _ => (0 : W32)) g.feats fid v }

/-- The partition whose watches a function names: CDW11[11:8] on a physical function, its own on a virtual one (20 R460). -/
def State.watchPart (s : State) (f : FnId) (cdw11 : W32) : Option (Fin 12) :=
  match f with
  | .pf _ => if h : bits cdw11 11 8 < 12 then some ⟨bits cdw11 11 8, h⟩ else none
  | .vf t => allParts.find? fun p => s.reaches (.vf t) p

/-- A watch entry as Get Features returns it (20 Table 20-4). -/
def Watch.words (w : Watch) : List Nat :=
  let d := w.data
  [put d.step.toNat 32 + put d.maxDumps.toNat 16 + d.symbol.toNat,
   put (put (b2n w.full) 15 + w.dumps % 128) 16 + d.logNsid.toNat, d.logLba.toNat, d.logBlocks.toNat]

def State.watchAt (s : State) (p : Fin 12) (w : Nat) : Option Watch := SMap.get (fun _ => none) (s.part p).watches w

def State.setWatch (s : State) (p : Fin 12) (w : Nat) (v : Option Watch) : State :=
  s.updPart p fun q => { q with watches := SMap.set (fun _ => none) q.watches w v }

/-- Both ports' requests are met by the lowest state that both allow (16 R365): the smaller of the numbers that the serving
physical functions set. -/
def State.allowedState (s : State) : Fin 5 :=
  let want (p : Port) : Nat := if s.serves (.pf p) then bits ((s.fn (.pf p)).feat 0x02) 4 0 else 4
  ⟨min (min (want .a) (want .b)) 4, by omega⟩

/-- A state set by Set Features: a lower-power one is entered when its condition holds, a higher one is returned to. -/
def State.applyPower (s : State) : State :=
  let t := s.allowedState
  if t < s.pow.pstate then s.wake t else s.enterState t

/-- A new media key; it is committed to a key store before the operation that made it completes (19 R438). -/
def State.newKey (s : State) : State × Nat :=
  ({ s with sec := { s.sec with keyGen := s.sec.keyGen + 1, storeSeq := s.sec.storeSeq + 1 } }, s.sec.keyGen + 1)

/-- Enabling the host memory buffer with a number of bytes, under a new key that is kept nowhere, clears its failures and its records (13
R291, R292, Table 13-13). -/
def State.setHmb (s : State) (on : Bool) (bytes : Nat) : State :=
  if on then { s with
    hmbOn := true, hmbSusp := false, hmbFails := 0, hmbNow := 0, hmbPages := [], hmbGens := []
    hmbSlots := min (bytes / 4160) hmbMost, hmbKey := s.sec.keyGen + 1, sec := { s.sec with keyGen := s.sec.keyGen + 1 } }
  else { s with hmbOn := false, hmbPages := [], hmbKey := 0 }

/-- The table of autonomous transitions: an entry for each power state (16 R365). -/
def State.setApst (s : State) (f : FnId) (on : Bool) (table : List Word) : State :=
  (s.setFeat f 0x0C (if on then 1 else 0)).updFn f fun g => { g with apst := table.take 32 }

/-- Write protection of one namespace (13 R288, 10 R242; log 49). -/
def State.setProtect (s : State) (n : Nat) (on : Bool) : State :=
  match s.ns n with
  | some v => s.setNs n (some { v with writeProt := on })
  | none => s

def execSetFeatures (h : Hdr) (fid : BitVec 8) (nsid cdw11 : BitVec 32) (x : FeatArgs) (s : State) : Result :=
  .next (s.hostStore h (.setFeatures h fid nsid cdw11 x) fun t =>
    let f := fid.toNat
    if plainFeature f then (t.setFeat h.fn f cdw11).okay h 0
    else match f with
      | 0x02 =>
        if bits cdw11 4 0 < 5 then ((t.setFeat h.fn 2 cdw11).okay h 0).applyPower else t.generic h 0x02
      | 0x07 => t.okay h (BitVec.ofNat 32 (((t.fn h.fn).pairs - 1) * 65537))
      | 0x0C => (t.setApst h.fn x.enable x.data).okay h 0
      | 0x0D =>
        let n := (x.data.headD 0).toNat
        if FnId.isPf h.fn && n ≤ hmbBytes then (t.setHmb x.enable n).okay h 0 else t.generic h 0x02
      | 0x84 =>
        if (t.nsFor h.fn nsid).isSome then (t.setProtect nsid.toNat (bits cdw11 2 0 ≠ 0)).okay h 0 else t.generic h 0x0B
      | _ => t.generic h 0x02)

def execGetFeatures (h : Hdr) (fid : BitVec 8) (nsid cdw11 : BitVec 32) (s : State) : Result :=
  .next (s.hostStore h (.getFeatures h fid nsid cdw11) fun t =>
    let f := fid.toNat
    if plainFeature f then t.okay h ((t.fn h.fn).feat f)
    else match f with
      | 0x0C => (t.emit (.words h (t.fn h.fn).apst)).okay h ((t.fn h.fn).feat 0x0C)
      | 0x02 => t.okay h (BitVec.ofNat 32 t.pow.pstate.val)
      | 0x07 => t.okay h (BitVec.ofNat 32 (((t.fn h.fn).pairs - 1) * 65537))
      | 0x0D => if FnId.isPf h.fn then t.okay h (if t.hmbOn then 1 else 0) else t.generic h 0x02
      | 0x84 =>
        match t.nsFor h.fn nsid with
        | some v => t.okay h (if v.writeProt then 1 else 0)
        | none => t.generic h 0x0B
      | 0xC0 =>
        match t.watchPart h.fn cdw11 with
        | some p => match t.watchAt p (bits cdw11 1 0) with
          | some w => t.answerWords h w.words
          | none => t.answerWords h [0, 0, 0, 0]
        | none => t.generic h 0x02
      | _ => t.generic h 0x02)

/-- The log namespace of a watch: a block namespace whose key tenant is a tenant of the partition, or the owner. -/
def State.watchNs (s : State) (p : Fin 12) (d : WatchData) : Bool :=
  match s.ns d.logNsid.toNat with
  | some v => v.kind == .block && d.logLba.toNat + d.logBlocks.toNat ≤ v.blocks && match v.keyTenant with
      | some (some t) => s.reaches (.vf t) p
      | _ => true
  | none => false

/-- Arm or disarm watch CDW11[1:0] (20 R460, Table 20-4). -/
def execTensorWatchArm (h : Hdr) (cdw11 : BitVec 32) (data : WatchData) (s : State) : Result :=
  .next (s.hostStore h (.tensorWatchArm h cdw11 data) fun t =>
    match t.watchPart h.fn cdw11 with
    | none => t.generic h 0x02
    | some p =>
      if !t.watchNs p data || data.rsvd ≠ 0 || 64 < data.maxDumps.toNat then t.generic h 0x02
      else (t.setWatch p (bits cdw11 1 0) (if data.maxDumps = 0 then none else
        some { data := data, dumps := 0, full := false, next := 0 })).okay h 0)

/-! ### Log pages (16 Table 16-4) -/

/-- Entry of the Partition Status page (17 Table 17-10). -/
def State.statusEntry (s : State) (p : Fin 12) : List Nat :=
  let q := s.part p
  let cs := s.clustersOf p
  let intf : Word := match cs.head? with
    | some c => (s.cluster c).intf
    | none => 0
  [put q.job.state.code 56 + put (causeCode q.job.endCause) 48 + put q.job.kof.toNat 40, q.job.endTime.toNat,
   q.job.version.toNat, bits intf 31 0,
   put (bits intf 47 32) 48 + put (q.fracs.foldl (fun n x => max n x.toNat) 0) 32 + q.window.toNat,
   cs.foldl (fun n c => n + (s.cluster c).reruns.toNat) 0, (SMap.get (fun _ => (0 : Word)) q.pcnt 3).toNat, 0]

/-- A tenant reads its own NVM_VF_STAT on that page too (16, below Table 16-16), behind its partition's entry (log 89). -/
def State.ownStat (s : State) (f : FnId) : List Nat :=
  match f with
  | .pf _ => []
  | .vf t => [(SMap.get (fun _ => (0 : Word)) s.qosRoll.vfStat t.val).toNat]

/-- Entry of the Partition Counters page: the last snapshot (20 R458). -/
def State.counterEntry (s : State) (p : Fin 12) : List Nat :=
  (List.range 32).map fun i => (SMap.get (fun _ => (0 : Word)) (s.part p).snapshot i).toNat

/-- Words of an entry of the Nougat table (10 Table 10-5). -/
def nougatWords (x : Option Nougat) : List Nat :=
  match x with
  | none => [0, 0, 0, 0]
  | some n =>
    [put n.nsid.toNat 54 + put n.tile.toNat 18 + put n.size.toNat 6 + n.owner.toNat,
     put n.sgt.toNat 48 + put n.pin 32 + put n.pmask.toNat 20 + put n.st.toNat 16 + put (b2n n.inD1) 1 + b2n n.inD2,
     put n.d1Loc.toNat 32 + n.d2Loc.toNat, n.lastUse.toNat]

/-- A function's own partition alone, for a tenant; every partition for the owner (16 R350). -/
def State.seen (s : State) (f : FnId) : List (Fin 12) :=
  if FnId.isPf f then allParts else allParts.filter fun p => s.reaches f p

/-- Four words of trace record i of the ring. -/
def State.traceRec (s : State) (i : Nat) : List Nat :=
  let a := d2Base + s.traceBase.toNat * gib + i % 33554432 * 32
  (List.range 4).map fun w => ofBytes (Memory.bytes s.mem (a + 8 * w) 8)

/-- A virtual function receives the records of its partition whose kind its tenant may read: 1 to 5 (20 R464). -/
def State.traceSeen (s : State) (f : FnId) (r : List Nat) : Bool :=
  let w1 := r.getD 1 0
  FnId.isPf f || (w1 / 2 ^ 56 ≤ 5 && (s.seen f).any fun p => p.val = w1 / 2 ^ 52 % 16)

/-- Records from an index on that the ring still holds; the page holds 128 (log 48). -/
def State.traceFrom (s : State) (f : FnId) (index : Nat) : List Nat :=
  let n := s.traceHead.toNat
  (((List.range (min 128 (n - index))).map fun i => s.traceRec (index + i)).filter (s.traceSeen f)).flatten

/-- SMART / Health: critical warning, temperature, unsafe shutdowns, power state, namespaces seen. -/
def State.healthData (s : State) (f : FnId) : List Nat :=
  [s.critWarn.toNat, s.pow.tempMax.toNat, s.pow.dirtyLosses.toNat, s.pow.pstate.val] ++ s.nsOf f

/-- Error Information of the function's own commands: submission queue, command identifier, status. -/
def State.errorData (s : State) (f : FnId) : List Nat :=
  (s.errLog.filter fun e => e.1.fn == f).map fun e =>
    put e.1.sq.toNat 48 + put e.1.cid.toNat 32 + put e.2.1.toNat 8 + e.2.2.toNat

/-- The supported commands of a function, in the numbering of NVM Express (log 47): opcodes, with bit 8 set for the I/O commands of the NVM
command set, bit 9 for those of Computational Programs and bit 10 for those of Subsystem Local Memory. A physical function alone has the
namespace, format, sanitize, firmware, virtualization and memory-range commands and those of Table 16-3. -/
def supportedBy (f : FnId) : List Nat :=
  [0x00, 0x01, 0x02, 0x04, 0x05, 0x06, 0x08, 0x09, 0x0A, 0x0C, 0x18, 0x19, 0x1A, 0x22, 0x23, 0x81, 0x82] ++
    (if FnId.isPf f then [0x0D, 0x10, 0x11, 0x15, 0x1C, 0x21, 0x80, 0x84, 0xC0, 0xC1, 0xC2, 0xC3] else []) ++
    [0x100, 0x101, 0x102, 0x108, 0x109, 0x201, 0x401, 0x402, 0x405]

/-- Sanitize Status: running, failed, succeeded, and the block quads done on every die. -/
def State.sanitizeData (s : State) : List Nat :=
  [match s.san.active with
    | none => 0
    | some .block => 1
    | some .crypto => 2, b2n s.san.failed, b2n s.san.succeeded, s.dies.foldl (fun n e => n + e.2.sanQuad) 0]

/-- Firmware Slot Information: active slot, slot of the next reset, security versions of both. -/
def State.slotData (s : State) : List Nat :=
  let svn (k : Nat) : Nat := match SMap.get (fun _ => none) s.sec.fw k with
    | some (f : FwImage) => f.svn.toNat
    | none => 0
  [s.sec.activeSlot.val + 1, s.sec.nextSlot.val + 1, svn 0, svn 1]

/-- One configuration, one reclaim group, four reclaim unit handles, bytes in a reclaim unit (13 R293). -/
def fdpData : List Nat := [1, 1, 4, 3120562176]

/-- A page whose contents the spec does not give returns a free value (log 47). -/
def State.freePage (s : State) (h : Hdr) : State := (s.drawn.emit (.words h [Config.freeWord s.freeCtr])).okay h 0

def execGetLogPage (h : Hdr) (lid : BitVec 8) (index : Nat) (s : State) : Result :=
  .next (s.hostStore h (.getLogPage h lid index) fun t =>
    let owner := FnId.isPf h.fn
    match lid.toNat with
    | 0x01 => t.answerWords h (t.errorData h.fn)
    | 0x02 => t.answerWords h (t.healthData h.fn)
    | 0x03 => t.answerWords h t.slotData
    | 0x04 => (t.updFn h.fn fun g => { g with changed := [] }).answerWords h (t.fn h.fn).changed
    | 0x05 => t.answerWords h (supportedBy h.fn)
    | 0x20 => t.answerWords h fdpData
    | 0x21 => (t.drawn.emit (.words h [4, Config.freeWord t.freeCtr])).okay h 0
    | 0x22 => t.freePage h
    | 0x23 => t.freePage h
    | 0x81 => t.answerWords h t.sanitizeData
    | 0xC0 =>
      if owner then t.answerWords h ((List.range 128).flatMap fun i => nougatWords (t.nougatAt (index + i)))
      else t.specific h 0x09
    | 0xC1 => t.answerWords h ((t.seen h.fn).flatMap t.statusEntry ++ t.ownStat h.fn)
    | 0xC2 =>
      if owner then (State.emit { t with eccUnread := [] } (.events h t.modLog)).okay h 0 else t.specific h 0x09
    | 0xC3 => if owner then t.answerWords h ((List.range 4).map t.classStat) else t.specific h 0x09
    | 0xC4 => t.answerWords h ((t.seen h.fn).flatMap t.counterEntry)
    | 0xC5 => t.answerWords h (t.traceFrom h.fn index)
    | _ => t.specific h 0x09)

/-! ### Queues, events, keep-alive (16 R351, R352) -/

def Fn.sqAt (g : Fn) (q : Nat) : Option (Half × Half) := SMap.get (fun _ => none) g.sqs q
def Fn.cqAt (g : Fn) (q : Nat) : Option (Half × Half) := SMap.get (fun _ => none) g.cqs q
def Fn.setSq (g : Fn) (q : Nat) (v : Option (Half × Half)) : Fn := { g with sqs := SMap.set (fun _ => none) g.sqs q v }
def Fn.setCq (g : Fn) (q : Nat) (v : Option (Half × Half)) : Fn := { g with cqs := SMap.set (fun _ => none) g.cqs q v }

/-- A queue number the function may use. -/
def Fn.queueOk (g : Fn) (q : Nat) : Bool := 1 ≤ q && q ≤ g.pairs

/-- size counts entries: 2 to 4,096 of a submission queue (R351). -/
def execCreateIoSq (h : Hdr) (qid : BitVec 16) (size : BitVec 16) (cqid : BitVec 16) (s : State) : Result :=
  .next (s.hostStore h (.createIoSq h qid size cqid) fun t =>
    let g := t.fn h.fn
    if (g.cqAt cqid.toNat).isNone then t.specific h 0x00
    else if !g.queueOk qid.toNat || (g.sqAt qid.toNat).isSome then t.specific h 0x01
    else if size.toNat < 2 || 4096 < size.toNat then t.specific h 0x02
    else (t.setFn h.fn (g.setSq qid.toNat (some (size, cqid)))).okay h 0)

def execCreateIoCq (h : Hdr) (qid : BitVec 16) (size : BitVec 16) (vector : BitVec 16) (s : State) : Result :=
  .next (s.hostStore h (.createIoCq h qid size vector) fun t =>
    let g := t.fn h.fn
    if !g.queueOk qid.toNat || (g.cqAt qid.toNat).isSome then t.specific h 0x01
    else if size.toNat < 2 then t.specific h 0x02
    else if g.vectors ≤ vector.toNat then t.specific h 0x08
    else (t.setFn h.fn (g.setCq qid.toNat (some (size, vector)))).okay h 0)

/-- End a waiting command with a generic status. -/
def State.endHeld (sc : Byte) (s : State) (x : Held) : State :=
  let t := (s.unhold x).dropAll (heldLocks x)
  match hdrOf (heldInstr x) with
  | some h => (t.dropStart h).generic h sc
  | none => t

def sameQueue (f : FnId) (q : Half) (x : Held) : Bool :=
  match hdrOf (heldInstr x) with
  | some h => h.fn == f && h.sq == q
  | none => false

/-- Commands of a deleted queue that wait end with Command Aborted due to SQ Deletion (0x08); one in its data phase ends as it
would. -/
def execDeleteIoSq (h : Hdr) (qid : BitVec 16) (s : State) : Result :=
  .next (s.hostStore h (.deleteIoSq h qid) fun t =>
    let g := t.fn h.fn
    if (g.sqAt qid.toNat).isNone then t.specific h 0x01
    else
      let gone := t.heldCmds.filter fun x => sameQueue h.fn qid x && !heldDispatched x
      ((gone.foldl (State.endHeld 0x08) t).updFn h.fn fun g => g.setSq qid.toNat none).okay h 0)

def execDeleteIoCq (h : Hdr) (qid : BitVec 16) (s : State) : Result :=
  .next (s.hostStore h (.deleteIoCq h qid) fun t =>
    let g := t.fn h.fn
    if (g.cqAt qid.toNat).isNone then t.specific h 0x01
    else if g.sqs.any fun e => match e.2 with
      | some v => v.2 = qid
      | none => false then t.specific h 0x0C
    else (t.setFn h.fn (g.setCq qid.toNat none)).okay h 0)

/-- The request is held until an event is posted; one that waits is posted at once. -/
def execAsynchronousEventRequest (h : Hdr) (s : State) : Result :=
  .next (s.hostStore h (.asynchronousEventRequest h) fun t =>
    match (t.fn h.fn).events with
    | e :: es => (t.updFn h.fn fun g => { g with events := es }).emit (.asyncEvent h e)
    | [] => t.updFn h.fn fun g => { g with aers := g.aers ++ [h] })

def execKeepAlive (h : Hdr) (s : State) : Result :=
  .next (s.hostStore h (.keepAlive h) fun t => t.okay h 0)

/-! ### Abort (16 R363) -/

/-- Aborts of a controller that have not completed. -/
def State.abortsOf (s : State) (f : FnId) : Nat :=
  (s.heldCmds.filter fun x => match heldInstr x with
    | .abort h _ _ => h.fn == f
    | _ => false).length

def sameCommand (f : FnId) (q cid : Half) (i : Instr) : Bool :=
  match hdrOf i with
  | some h => h.fn == f && h.sq == q && h.cid == cid
  | none => false

/-- A waiting request of a command. -/
def sourceIs (f : FnId) (q cid : Half) (x : ReqSource × List Byte) : Bool :=
  match x.1 with
  | .host h _ => h.fn == f && h.sq == q && h.cid == cid
  | _ => false

/-- The partition in which a command's request waits for a slot. -/
def State.waitsIn (s : State) (f : FnId) (q cid : Half) : Option (Fin 12) :=
  allParts.find? fun p => (s.part p).requests.any (sourceIs f q cid)

def execAbort (h : Hdr) (sq cid : BitVec 16) (s : State) : Result :=
  .next (if s.serves h.fn && 8 ≤ s.abortsOf h.fn then s.specific h 0x03 else s.hostStore h (.abort h sq cid) fun t =>
    match t.heldCmds.find? fun x => sameCommand h.fn sq cid (heldInstr x) && !heldDispatched x with
    | some x => (t.endHeld 0x07 x).okay h 0
    | none =>
      match t.waitsIn h.fn sq cid with
      | some p =>
        ((t.updPart p fun q => { q with requests := q.requests.filter fun x => !sourceIs h.fn sq cid x }).generic
          ⟨h.fn, sq, cid⟩ 0x07).okay h 0
      | none => t.okay h 1)

end Sys2Proof.Machine
end

