-- ==== Sys2Proof/Machine/Aging.lean ====
section
/-! DEFINITION. Aging of the requests that wait at a bank (09 R211). -/

namespace Sys2Proof.Machine

open Sys2Proof

/-- CLU_ARB_CTL.AGE of the cluster whose bank holds an address; the requester's own where no bank does. -/
def State.ageAt (s : State) (cl : Fin 32) (m : Nat) : Nat :=
  (s.cluster (match bankAt m with
    | some b => b.1
    | none => cl)).age.toNat

/-- A request that arrived at a cycle and names an address has waited long enough. -/
def State.waited (s : State) (cl : Fin 32) (m since : Nat) : Bool := s.cycle - since ≥ s.ageAt cl m

/-- A request that has waited CLU_ARB_CTL.AGE cycles at its bank is aged (09 R211). Hub accesses are performed when they come and
wait nowhere (log 94). -/
def execRequestAged (c : CoreId) (kind : BankReq) (j : Fin 16) (s : State) : Result :=
  .next (match kind with
    | .store =>
      let k := s.core c
      match k.stores[j.val]? with
      | some b => if s.waited c.cl b.addr b.issued then s.setCore c { k with stores := k.stores.set j.val { b with aged := true } }
                  else s
      | none => s
    | .load =>
      let k := s.core c
      match k.loads[j.val]? with
      | some l => if s.waited c.cl l.addr l.issued then s.setCore c { k with loads := k.loads.set j.val { l with aged := true } }
                  else s
      | none => s
    | .fullEmpty =>
      match (s.core c).feAt with
      | some (m, i, _) => if s.waited c.cl m i then s.updCore c fun k => { k with feAt := some (m, i, true) } else s
      | none => s
    | .tileMover =>
      match (s.cluster c.cl).tmOf j with
      | some e =>
        let claim := e.ranges.filter fun x => (bankAt x.1).isSome && s.waited c.cl x.1 e.since
        if claim.isEmpty then s else s.setTm c.cl { e with aged := true, claim := claim }
      | none => s)

end Sys2Proof.Machine
end

