-- ==== Sys2Proof/Machine/Namespaces.lean ====
section
/-! DEFINITION. Admin commands of the owner on namespaces, firmware and functions (13 R282, R293, R302; 16 R351; 19 R436, R438,
R440, R441), and the Subsystem Local Memory commands (16 R353). -/

namespace Sys2Proof.Machine

open Sys2Proof

/-! ### Keys (19 R438 to R441) -/

/-- Replace the media key of a namespace. -/
def State.rekey (s : State) (n : Nat) : State :=
  let k := s.newKey
  match k.1.ns n with
  | some v => k.1.setNs n (some { v with key := k.2 })
  | none => s

/-- The key of a tenant is made at its first use; t is 1024 for the owner. -/
def State.useTenantKey (s : State) (t : Nat) : State :=
  if SMap.get (fun _ => 0) s.sec.tenantKeys t = 0 then
    let k := s.newKey
    { k.1 with sec := { k.1.sec with tenantKeys := SMap.set (fun _ => 0) k.1.sec.tenantKeys t k.2 } }
  else s

def tenantNo : Option (Fin 1024) → Nat
  | some t => t.val
  | none => 1024

/-- A tenant's key goes with its last namespace. -/
def State.dropTenantKey (s : State) (k : Option (Fin 1024)) : State :=
  let left := s.nss.any fun e => match e.2 with
    | some v => v.keyTenant = some k
    | none => false
  if left || k = none then s
  else { s with sec := { s.sec with
    tenantKeys := SMap.set (fun _ => 0) s.sec.tenantKeys (tenantNo k) 0, storeSeq := s.sec.storeSeq + 1 } }

/-! ### Create, delete, attach (13 R282, 19 R440) -/

/-- User capacity in logical blocks of 4 KiB (00 Table 0-1). -/
def capacityBlocks (v : Variant) : Nat :=
  match v with
  | .v245 => 60000000000
  | .v123 => 30000000000

def State.usedBlocks (s : State) : Nat := s.nss.foldl (fun n e => match e.2 with
  | some v => n + v.blocks
  | none => n) 0

def State.freeNsid (s : State) : Option Nat := ((List.range 1023).map (· + 1)).find? fun n => (s.ns n).isNone

/-- Note on page 0x04 of each function that a namespace has changed. -/
def State.noteChange (s : State) (fs : List FnId) (n : Nat) : State :=
  fs.foldl (fun (t : State) f => t.updFn f fun g => { g with changed := (g.changed.filter (· ≠ n)) ++ [n] }) s

def State.createNs (s : State) (h : Hdr) (kind : NsKind) (blocks : Nat) : State :=
  if blocks = 0 then s.generic h 0x02
  else if capacityBlocks s.variant < s.usedBlocks + blocks then s.specific h 0x15
  else match s.freeNsid with
    | none => s.specific h 0x16
    | some n =>
      let k := s.newKey
      (((k.1.setNs n (some { kind := kind, blocks := blocks, key := k.2 })).noteChange [.pf .a, .pf .b] n).commitRoot).okay h
        (BitVec.ofNat 32 n)

/-- A namespace's data is gone: its copies in the pools, its buffered units and its map. -/
def State.wipeNs (s : State) (n : Nat) : State := (s.dropCopies n 0 (s.nsBlocks n)).unmapAll n

def State.nsPinned (s : State) (n : Nat) : Bool := s.pinnedRange n 0 (s.nsBlocks n)

def State.deleteNs (s : State) (n : Nat) : State :=
  match s.ns n with
  | some v =>
    let t := (s.wipeNs n).setNs n none
    match v.keyTenant with
    | some k => (t.dropTenantKey k).noteChange v.attached n
    | none => t
  | none => s

/-- Namespaces an NSID names: all of them by 0xFFFF_FFFF. -/
def State.named (s : State) (nsid : BitVec 32) : List Nat :=
  if nsid = 0xFFFFFFFF then s.nsList else if (s.ns nsid.toNat).isSome then [nsid.toNat] else []

/-- Creating and deleting wait for the end of a sanitize (Sanitize In Progress); a namespace with a pinned tile is not deleted
(log 37). -/
def execNamespaceManagement (h : Hdr) (a : NsAction) (s : State) : Result :=
  .next (s.ownerCmd h (.namespaceManagement h a) false fun t =>
    if t.san.active.isSome then t.generic h 0x1D
    else match a with
      | .create kind blocks => t.createNs h kind blocks.toNat
      | .delete nsid =>
        let ns := t.named nsid
        if ns.isEmpty then t.generic h 0x0B
        else if ns.any t.nsPinned then t.generic h 0x20
        else ((ns.foldl State.deleteNs t).commitRoot).okay h 0)

/-- The tenant of a function, none for the owner. -/
def fnTenant : FnId → Option (Fin 1024)
  | .pf _ => none
  | .vf t => some t

/-- The first attachment fixes the key tenant. -/
def State.attach (s : State) (n : Nat) (v : Namespace) (f : FnId) : State :=
  let k := v.keyTenant.getD (fnTenant f)
  ((s.useTenantKey (tenantNo k)).setNs n (some { v with attached := v.attached ++ [f], keyTenant := some k })).noteChange [f] n

/-- A tenant's namespace attaches only to that tenant's function. -/
def Namespace.isPrivate (v : Namespace) (f : FnId) : Bool :=
  match v.keyTenant with
  | some (some t) => f != .vf t
  | _ => false

def execNamespaceAttachment (h : Hdr) (nsid : BitVec 32) (attach : Bool) (target : FnId) (s : State) : Result :=
  .next (s.ownerCmd h (.namespaceAttachment h nsid attach target) false fun t =>
    match t.ns nsid.toNat with
    | none => t.generic h 0x0B
    | some v =>
      let has := v.attached.contains target
      if attach then
        if has then t.specific h 0x18
        else if v.isPrivate target then t.specific h 0x19
        else (t.attach nsid.toNat v target).okay h 0
      else if has then
        ((t.setNs nsid.toNat (some { v with attached := v.attached.filter fun f => f != target })).noteChange [target]
          nsid.toNat).okay h 0
      else t.specific h 0x1A)

/-! ### Format (16 R367, 19 R441) -/

def State.formatNs (ses : Nat) (s : State) (n : Nat) : State :=
  let t := s.wipeNs n
  if ses = 2 then t.rekey n else t

/-- Secure Erase Setting 2 replaces the media key. -/
def State.format (h : Hdr) (nsid : BitVec 32) (ses : BitVec 3) (s : State) : State :=
  s.whenRunning (.formatNvm h nsid ses) fun u =>
    let ns := u.named nsid
    if 2 < ses.toNat then u.endSemOp 0x80 h 0 0x02
    else if ns.isEmpty then u.endSemOp 0x80 h 0 0x0B
    else if ns.any u.nsPinned then u.endSemOp 0x80 h 0 0x20
    else ((ns.foldl (State.formatNs ses.toNat) u).commitRoot).endSemOp 0x80 h 0 0

def execFormatNvm (h : Hdr) (nsid : BitVec 32) (ses : BitVec 3) (s : State) : Result :=
  .next (s.semCmd h (State.format h nsid ses))

/-! ### Firmware (19 R436, R437) -/

/-- The image waits for its commit. -/
def execFirmwareImageDownload (h : Hdr) (img : FwImage) (s : State) : Result :=
  .next (s.ownerCmd h (.firmwareImageDownload h img) false fun t =>
    (State.okay { t with sec := { t.sec with staged := some img } } h 0))

/-- A firmware image that start-up would accept (R436). -/
def State.fwOk (s : State) (f : FwImage) : Bool :=
  f.verifies && f.rsvdZero && f.svn.toNat ≤ 64 && s.sec.svn ≤ f.svn.toNat &&
    (!f.ownerSigned || (s.sec.ownerFw && s.sec.ownerOk f.slot.val))

def Sec.setFw (x : Sec) (k : Fin 2) (f : FwImage) : Sec := { x with fw := SMap.set (fun _ => none) x.fw k.val (some f) }

/-- The slot that does not run. -/
def Sec.otherSlot (x : Sec) : Fin 2 := if x.activeSlot = 0 then 1 else 0

/-- Put an image into the inactive slot; an activating commit makes it the one of the next module reset and raises SVN. -/
def State.commitFw (s : State) (f : FwImage) (activate : Bool) : State :=
  let x := s.sec.setFw s.sec.otherSlot f
  { s with sec := if activate then { x.raiseSvn f.svn.toNat with nextSlot := x.otherSlot, staged := none }
                  else { x with staged := none } }

/-- The staged image, or the one in the inactive slot when nothing is staged; one that is not accepted is Invalid Firmware
Image. -/
def State.putFirmware (h : Hdr) (activate : Bool) (s : State) : State :=
  match s.sec.staged.orElse fun _ => SMap.get (fun _ => none) s.sec.fw s.sec.otherSlot.val with
  | some f => if s.fwOk f then (s.commitFw f activate).okay h 0 else s.specific h 0x07
  | none => s.specific h 0x07

/-- A commit with an activating action runs under MOD_OWNSEM. -/
def State.activateFirmware (h : Hdr) (s : State) : State := s.whenRunning (.firmwareCommit h true) (State.putFirmware h true)

def execFirmwareCommit (h : Hdr) (activate : Bool) (s : State) : Result :=
  .next (if activate then s.semCmd h (State.activateFirmware h)
    else s.ownerCmd h (.firmwareCommit h activate) false (State.putFirmware h false))

/-! ### Virtual functions (16 R351) -/

/-- Every function. -/
def allFns : List FnId := [.pf .a, .pf .b] ++ (List.finRange 1024).map .vf

/-- Queue pairs and vectors held by the functions other than one. -/
def State.heldBy (s : State) (f : FnId) : Nat × Nat :=
  (allFns.filter (· != f)).foldl (fun n g => (n.1 + (s.fn g).pairs, n.2 + (s.fn g).vectors)) (0, 0)

def Fn.offline (g : Fn) : Fn :=
  { g with online := false, sqs := [], cqs := [], feats := [], aers := [], events := [] }

/-- 1 to 512 queue pairs with one more vector, of an offline function; a physical function manages the functions of its own
port. -/
def execVirtualizationManagement (h : Hdr) (t : Fin 1024) (a : VirtAction) (s : State) : Result :=
  .next (s.ownerCmd h (.virtualizationManagement h t a) false fun u =>
    let f := FnId.vf t
    let g := u.fn f
    if u.portOf f != u.portOf h.fn then u.specific h 0x1F
    else match a with
      | .assignQueues n =>
        if g.online then u.specific h 0x20
        else if n < 1 || 512 < n || 16384 < (u.heldBy f).1 + n then u.generic h 0x02
        else (u.setFn f { g with pairs := n }).okay h (BitVec.ofNat 32 n)
      | .assignVectors n =>
        if g.online then u.specific h 0x20
        else if n ≠ g.pairs + 1 || g.pairs = 0 || 17408 < (u.heldBy f).2 + n then u.generic h 0x02
        else (u.setFn f { g with vectors := n }).okay h (BitVec.ofNat 32 n)
      | .online =>
        if g.pairs = 0 || g.vectors ≠ g.pairs + 1 then u.specific h 0x20
        else (u.setFn f { g with online := true }).okay h 0
      | .offline => (u.setFn f g.offline).okay h 0)

/-! ### Directives (13 R293) -/

/-- Whether placement directives are enabled is kept with the function's features. -/
def directiveKey : Nat := 0x100

def execDirectiveSend (h : Hdr) (nsid : BitVec 32) (enable : Bool) (s : State) : Result :=
  .next (s.hostStore h (.directiveSend h nsid enable) fun t =>
    if nsid = 0xFFFFFFFF || (t.nsFor h.fn nsid).isSome then
      (t.setFeat h.fn directiveKey (if enable then 1 else 0)).okay h 0
    else t.generic h 0x0B)

/-- Supported: data placement; enabled or not; the placement handles. -/
def execDirectiveReceive (h : Hdr) (nsid : BitVec 32) (s : State) : Result :=
  .next (s.hostStore h (.directiveReceive h nsid) fun t =>
    if nsid = 0xFFFFFFFF || (t.nsFor h.fn nsid).isSome then
      t.answerWords h [1, ((t.fn h.fn).feat directiveKey).toNat, 4]
    else t.generic h 0x0B)

/-! ### Memory range sets (16 R353) -/

def State.rangeSet (s : State) (id : Nat) : Option (Fin 12 × Bool) := SMap.get (fun _ => none) s.rangeSets id

def State.freeSetId (s : State) : Option Nat := ((List.range 24).map (· + 1)).find? fun n => (s.rangeSet n).isNone

/-- A region is named once: naming it again returns the same identifier. -/
def State.setOf (s : State) (p : Fin 12) (d2 : Bool) : Option Nat :=
  (s.rangeSets.find? fun e => e.2 = some (p, d2)).map (·.1)

def State.putSet (s : State) (id : Nat) (v : Option (Fin 12 × Bool)) : State :=
  { s with rangeSets := SMap.set (fun _ => none) s.rangeSets id v }

def State.nameRegion (s : State) (h : Hdr) (p : Fin 12) (d2 : Bool) : State :=
  match (s.part p).cfg, s.setOf p d2, s.freeSetId with
  | none, _, _ => s.vendor h 0x07
  | _, some id, _ => s.okay h (BitVec.ofNat 32 id)
  | _, none, some id => (s.putSet id (some (p, d2))).okay h (BitVec.ofNat 32 id)
  | _, none, none => s.generic h 0x02

def execMemoryRangeSetManagement (h : Hdr) (a : RangeSetAction) (s : State) : Result :=
  .next (s.ownerCmd h (.memoryRangeSetManagement h a) true fun t =>
    match a with
    | .create p d2 =>
      match t.namedPart h.fn p with
      | some q => t.nameRegion h q d2
      | none => t.generic h 0x02
    | .delete id =>
      if (t.rangeSet id.toNat).isSome then (t.putSet id.toNat none).okay h 0 else t.generic h 0x02)

/-- Where a range of a memory range set lies, or the status that refuses it. -/
def State.setPlace (s : State) (f : FnId) (id : BitVec 16) (offset n : Nat) : Except (Byte × Byte) Nat :=
  match s.rangeSet id.toNat with
  | none => .error (0, 0x02)
  | some (p, d2) =>
    if !s.reaches f p then .error (0, 0x02)
    else if s.jobLoaded p then .error (7, 0x02)
    else match (s.part p).cfg with
      | none => .error (7, 0x07)
      | some r =>
        let ar := if d2 then r.d2Region else r.d1Region
        if ar.gib.toNat * gib < offset + n then .error (0, 0x02)
        else .ok ((if d2 then d2Base else 0) + ar.base.toNat * gib + offset)

/-- A read that meets an uncorrectable error is an unrecovered read. -/
def execMemoryRead (h : Hdr) (id : BitVec 16) (offset : BitVec 64) (len : BitVec 32) (s : State) : Result :=
  .next (s.hostIo h (.memoryRead h id offset len) len.toNat true fun t =>
    match t.setPlace h.fn id offset.toNat len.toNat with
    | .error e => t.complete h e.1 e.2 0
    | .ok m =>
      let g := t.readMem m len.toNat
      if g.ues.isEmpty then (g.st.emit (.bytes h g.data)).okay h 0 else g.st.complete h 2 0x81 0)

def execMemoryWrite (h : Hdr) (id : BitVec 16) (offset : BitVec 64) (data : List Byte) (s : State) : Result :=
  .next (s.hostIo h (.memoryWrite h id offset data) data.length true fun t =>
    match t.setPlace h.fn id offset.toNat data.length with
    | .error e => t.complete h e.1 e.2 0
    | .ok m => (t.writeMem m (whole data)).okay h 0)

/-- The bytes at the source of a copy, or the status that refuses it. -/
def State.copyFrom (s : State) (f : FnId) (e : CopyEnd) (units : Nat) : Except (State × Byte × Byte) (State × List Byte) :=
  match e with
  | .namespaceAt nsid block =>
    match s.ioStatus f nsid block.toNat units false with
    | some x => .error (s, x)
    | none =>
      let t := s.noteRead nsid.toNat block.toNat units
      match s.readUnits nsid.toNat block.toNat units with
      | some us => .ok (t, us.flatMap unitBytes)
      | none => .error (t, 2, 0x81)
  | .rangeSetAt id offset =>
    match s.setPlace f id offset.toNat (units * 4096) with
    | .error x => .error (s, x)
    | .ok m =>
      let g := s.readMem m (units * 4096)
      if g.ues.isEmpty then .ok (g.st, g.data) else .error (g.st, 2, 0x81)

/-- Whether the destination takes the data: no status, a status, or no room in the write buffer. -/
def State.copyTo (s : State) (h : Hdr) (i : Instr) (e : CopyEnd) (units : Nat) (d : List Byte) : State :=
  match e with
  | .namespaceAt nsid block =>
    match s.ioStatus h.fn nsid block.toNat units true with
    | some x => s.complete h x.1 x.2 0
    | none =>
      let k := s.classFor nsid.toNat none
      if !s.hostRoom (s.fnPart h.fn) k (s.writeCost nsid.toNat block.toNat units) then s.hold (.bufferWait [] false i)
      else match s.hostWrite nsid.toNat block.toNat k (unitsFrom units d) with
        | some t => ((t.countWrite (s.fnPart h.fn) (units * 4096)).writeThrough).okay h 0
        | none => s.generic h 0x20
  | .rangeSetAt id offset =>
    match s.setPlace h.fn id offset.toNat (units * 4096) with
    | .error x => s.complete h x.1 x.2 0
    | .ok m => (s.writeMem m (whole d)).okay h 0

/-- Units of 4 KiB. -/
def execMemoryCopy (h : Hdr) (src dst : CopyEnd) (units : BitVec 32) (s : State) : Result :=
  let i := Instr.memoryCopy h src dst units
  .next (s.hostIo h i (units.toNat * 4096) true fun t =>
    match t.copyFrom h.fn src units.toNat with
    | .error x => x.1.complete h x.2.1 x.2.2 0
    | .ok x => x.1.copyTo h i dst units.toNat x.2)

end Sys2Proof.Machine
end

