-- ==== Sys2Proof/Machine/HostResets.lean ====
section
/-! DEFINITION. Resets of the host side (16 Table 16-5, R359, R360), the links and PERST# of the ports (16 R348, R368; 22 R489,
R492), and the ownership semaphore (16 R366 to R368). -/

namespace Sys2Proof.Machine

open Sys2Proof

/-! ### Commands in flight (R359, R360) -/

/-- A waiting command belongs to one of the functions. -/
def heldOf (fs : List FnId) (x : Held) : Bool :=
  match hdrOf (heldInstr x) with
  | some h => fs.contains h.fn
  | none => false

/-- A command in its data phase goes on without its completion. -/
def muted (x : Held) : Held :=
  match x with
  | .bufferWait ids _ i => .bufferWait ids true i
  | y => y

/-- What becomes of a waiting command: an operation accepted under the semaphore runs to its end (R368). -/
def Held.afterReset (fs : List FnId) (x : Held) : Option Held :=
  if heldOf fs x && !x.isSem then (if heldDispatched x then some (muted x) else none) else some x

/-- Locks of the waiting commands that are discarded. -/
def State.discardedLocks (s : State) (fs : List FnId) : List Nat :=
  (s.heldCmds.filter fun x => heldOf fs x && !heldDispatched x).flatMap heldLocks

/-- A request came from one of the functions. -/
def ReqSource.isFrom (fs : List FnId) (x : ReqSource) : Bool :=
  match x with
  | .host h _ => fs.contains h.fn
  | _ => false

/-- Waiting requests are discarded; a slot in use is kept, and its response is dropped. -/
def Partition.hostReset (fs : List FnId) (q : Partition) : Partition :=
  { q with
    requests := q.requests.filter fun r => !r.1.isFrom fs
    slots := q.slots.map fun r => if r.2.1.isFrom fs then (r.1, .dropped, r.2.2) else r
    job := match q.job.waiter with
      | some h =>
        if !fs.contains h.fn then q.job
        else if q.job.state == .restoring || q.job.state == .loading then { q.job with state := .none, waiter := none }
        else { q.job with waiter := none }
      | none => q.job }

/-- The controller is disabled; a controller reset keeps the admin queue registers and the MSI-X table, which NVM Express and PCI Express
give no reset here (log 117). -/
def Bar0.afterReset (b : Bar0) (whole : Bool) : Bar0 := if whole then {} else { aqa := b.aqa, asq := b.asq, acq := b.acq, msix := b.msix }

/-- Queues, events and feature state; the resource assignment stays. whole says that it is more than a controller reset. -/
def Fn.cleared (whole : Bool) (g : Fn) : Fn :=
  { g with sqs := [], cqs := [], feats := [], aers := [], events := [], changed := [], apst := [], bar0 := g.bar0.afterReset whole }

/-- Reset functions: no job ends, no partition changes, no pin is released. Their Key Per I/O keys go (19 Table 19-6). -/
def State.resetFns (s : State) (whole : Bool) (fs : List FnId) : State :=
  let s1 := s.dropAll (s.discardedLocks fs)
  let s2 := { s1 with
    heldCmds := s1.heldCmds.filterMap (Held.afterReset fs)
    sec := { s1.sec with kpio := s1.sec.kpio.filter fun k => !(fs.map FnId.key).contains k.1 } }
  let s3 := allParts.foldl (fun (t : State) p => t.updPart p (Partition.hostReset fs)) s2
  fs.foldl (fun (t : State) f => t.updFn f (Fn.cleared whole)) s3

def execControllerReset (f : FnId) (s : State) : Result := .next (s.resetFns false [f])

def execVfFunctionLevelReset (t : Fin 1024) (s : State) : Result := .next (s.resetFns true [.vf t])

def execPfFunctionLevelReset (p : Port) (s : State) : Result := .next (s.resetFns true (s.fnsOf p))

/-! ### Ports -/

/-- In x16 mode port B is absent (16 R348, 22 Table 22-6). -/
def State.absent (s : State) (p : Port) : Bool := s.x16 && p == .b

/-- The contact of a port's PERST# (22 Table 22-2). -/
def perstBit (p : Port) : BitVec 7 :=
  match p with
  | .a => 1
  | .b => 2

def State.contact (s : State) (m : BitVec 7) (high : Bool) : State :=
  { s with pow := { s.pow with contacts := if high then s.pow.contacts ||| m else s.pow.contacts &&& ~~~m } }

/-- linkDown says that the link goes down or is hot reset; otherwise PERST# goes low, which holds the port in reset until its
release. -/
def execPortReset (p : Port) (linkDown : Bool) (s : State) : Result :=
  if s.absent p then .next s
  else
    let s1 := (s.resetFns true (s.fnsOf p)).updPort p fun q =>
      { q with linkUp := false, perst := q.perst || !linkDown, downAt := some (q.downAt.getD s.time) }
    .next (if linkDown then s1 else s1.contact (perstBit p) false)

/-- The release of port A samples X16_SEL; a change of it resets both ports. -/
def State.sampleX16 (s : State) (sel : Bool) : State :=
  let s1 := s.contact 8 sel
  if sel = s.x16 then s1
  else
    let s2 := (s1.resetFns true (s1.fnsOf .a ++ s1.fnsOf .b)).updPort .b fun q =>
      { q with linkUp := false, downAt := some (q.downAt.getD s.time) }
    { s2 with x16 := sel }

def execPerstRelease (p : Port) (x16Sel : Bool) (s : State) : Result :=
  if s.absent p then .next s
  else
    let s1 := (s.updPort p fun q => { q with perst := false }).contact (perstBit p) true
    .next (if p = .a then s1.sampleX16 x16Sel else s1)

/-- The storage domain has power (01 R17; 21 Table 21-4), which link training needs (22 Table 22-5). -/
def State.storageOn (s : State) : Bool := !(s.pow.stage == .off || s.pow.stage == .alwaysOn || s.pow.stage == .verified)

/-- 100 ms have passed since a port's link went down. -/
def State.longDown (s : State) (p : Port) : Bool :=
  match (s.port p).downAt with
  | some t => 100000000 ≤ (s.time - t).toNat
  | none => false

/-- The hold of a port whose link has been down for 100 ms is released. -/
def State.releaseDown (s : State) (p : Port) : State :=
  if s.ownsem = semOf p && s.longDown p then { s with ownsem := 0 } else s

/-- A link that returns in time keeps the hold. -/
def execPcieLinkUp (p : Port) (s : State) : Result :=
  .next (if s.storageOn && !(s.port p).perst && !s.absent p then
    (s.releaseDown p).updPort p fun q => { q with linkUp := true, downAt := none } else s)

/-! ### MOD_OWNSEM (16 R366, R368) -/

/-- A read acquires the semaphore when it is free, and returns the holder. -/
def execOwnsemRead (p : Port) (s : State) : Result :=
  if s.absent p then .next s
  else
    let r := s.semRead p
    .next (r.1.emit (.registerData (.bar2 p) r.2))

/-- A write of 0 by the holder releases it. -/
def execOwnsemRelease (p : Port) (v : Word) (s : State) : Result :=
  .next (if s.ownsem = semOf p && bits v 1 0 = 0 then { s with ownsem := 0 } else s)

/-- The port that holds the semaphore. -/
def State.holder (s : State) : Option Port := if s.ownsem = 1 then some .a else if s.ownsem = 2 then some .b else none

/-- 100 ms after the holder's link went down, unless it has returned. -/
def execOwnsemLinkDownRelease (s : State) : Result :=
  match s.holder with
  | some p => .next (s.releaseDown p)
  | none => .next s

end Sys2Proof.Machine
end

