-- ==== Sys2Proof/Machine/Sanitize.lean ====
section
/-! DEFINITION. Sanitize (13 R306 to R309, 19 R441). -/

namespace Sys2Proof.Machine

open Sys2Proof

/-! ### What a sanitize does at its start (13 R306) -/

/-- Waiting reads, writes and deallocations of the NVM command set. -/
def heldIo (x : Held) : Bool := (ioRange (heldInstr x)).isSome

/-- End one with Sanitize In Progress; the completion of a muted one is discarded. -/
def State.endForSanitize (s : State) (x : Held) : State :=
  match x with
  | .bufferWait ids true i => (s.unhold (.bufferWait ids true i)).dropAll ids
  | y => s.endHeld 0x1D y

/-- The areas of D1 and D2 that may be assigned: all but the hub reserves (10 R221). -/
def State.zeroAssignable (s : State) : State := (s.zeroFill 0 d1Reserve).zeroFill d2Base (d2Reserve - d2Base)

/-- The dies keep nothing of a stripe that was on its way, and start from their first block quad. -/
def Die.sanitized (d : Die) : Die := { d with programs := [], sanQuad := 0 }

/-- An entry of a table changed, and dropped where it becomes what an unlisted one reads as. -/
def remap {α : Type} [DecidableEq α] (d : Nat → α) (m : SMap α) (f : α → α) : SMap α :=
  (m.map fun e => (e.1, f e.2)).filter fun e => e.2 ≠ d e.1

def State.startSanitize (s : State) (a : SanAction) : State :=
  let s1 := (s.heldCmds.filter heldIo).foldl State.endForSanitize s
  let s2 := s1.nsList.foldl State.unmapAll { s1 with
    buffer := [], stripes := [], nougat := [], dies := remap (fun _ => {}) s1.dies Die.sanitized }
  State.zeroAssignable { s2 with san := { active := some a } }

/-- Common to the three actions, once accepted under the semaphore: no job loaded. -/
def State.sanitizeRun (s : State) (h : Hdr) (i : Instr) (f : State → State) : State :=
  s.whenRunning i fun u => if u.anyJob then u.generic h 0x0C else f u

def State.blockErase (h : Hdr) (s : State) : State :=
  s.sanitizeRun h (.sanitizeBlockErase h) fun t => ((t.startSanitize .block).commitRoot).okay h 0

def execSanitizeBlockErase (h : Hdr) (s : State) : Result := .next (s.semCmd h (State.blockErase h))

/-! ### Keys (13 R309, 19 R438, R441) -/

/-- Every wrapped key goes with the epoch; new tenant and namespace keys are made. -/
def State.remakeKeys (s : State) : State :=
  let s1 := s.nsList.foldl State.rekey { s with sec := s.sec.stepEpoch }
  s1.sec.tenantKeys.foldl (fun (t : State) e =>
    let k := t.newKey
    { k.1 with sec := { k.1.sec with tenantKeys := SMap.set (fun _ => 0) k.1.sec.tenantKeys e.1 k.2 } }) s1

def State.setSan (s : State) (f : Sanitize → Sanitize) : State := { s with san := f s.san }

/-- Key destruction is committed before the map reset begins. -/
def State.cryptoErase (h : Hdr) (s : State) : State :=
  s.sanitizeRun h (.sanitizeCryptoErase h) fun t =>
    if 1024 ≤ t.sec.epoch + 16 then t.generic h 0x02
    else ((t.startSanitize .crypto).remakeKeys.commitRoot).okay h 0

def execSanitizeCryptoErase (h : Hdr) (s : State) : Result := .next (s.semCmd h (State.cryptoErase h))

def State.exitFailure (h : Hdr) (s : State) : State :=
  s.sanitizeRun h (.sanitizeExitFailureMode h) fun t => ((t.setSan fun x => { x with failed := false }).commitRoot).okay h 0

def execSanitizeExitFailureMode (h : Hdr) (s : State) : Result := .next (s.semCmd h (State.exitFailure h))

/-! ### Progress and end (13 R307, R308) -/

/-- Every die of the module, by channel. -/
def allDies : List DieId := (List.finRange 64).flatMap fun c => (List.finRange 15).map fun d => ⟨c, d⟩

/-- Block quads of a die. -/
def dieQuads : Nat := 2760

/-- Quads that a die erases, programs and erases again in 60 s, at 472.8 ms each. -/
def quadsPerMinute : Nat := 126

/-- One die's share of 60 s. -/
def State.eraseQuads (s : State) (d : DieId) : State :=
  let a := (s.die d).sanQuad
  let n := min quadsPerMinute (dieQuads - a)
  let ks := (List.range n).flatMap fun i => (List.range 4).map fun p => dieBlock d p (a + i)
  (s.eraseBlocks ks).updDie d fun x => { x with sanQuad := a + n }

/-- The dies that work on a Block Erase: the first 120 that are not finished. -/
def State.sanDies (s : State) : List DieId :=
  (allDies.filter fun d => s.dieThere d && !s.dieFailed d && (s.die d).sanQuad < dieQuads).take 120

def execSanitizeProgressCommit (s : State) : Result :=
  match s.san.active with
  | none => .next s
  | some .block => .next ((s.sanDies.foldl State.eraseQuads s).commitRoot)
  | some .crypto => .next s.commitRoot

/-- A band of the table after its reset: its erase count stays, and a band out of use stays so (13 R309). -/
def Band.cleared (b : Band) : Band := if b.state == .dead then b else { erases := b.erases }

/-- The map and the band table after their reset: no codeword of the media belongs to a unit. -/
def State.resetBands (s : State) : State :=
  { s with cwords := [], nsMap := [], mapCache := [], mapDir := [], journalTail := [], journal := 0, bands := remap (fun _ => {}) s.bands Band.cleared }

/-- Every block of the media was erased twice. -/
def State.wholeErase (s : State) : State :=
  { s with
    lossReads := 0, erasedAll := s.erasedAll + 2
    blocks := remap (fun _ => {}) s.blocks fun b => { retired := b.retired }
    dies := remap (fun _ => {}) s.dies fun d => { d with sanQuad := 0 } }

/-- Every die that works has done all its block quads (13 R307). -/
def State.allErased (s : State) : Bool :=
  allDies.all fun d => !s.dieThere d || s.dieFailed d || dieQuads ≤ (s.die d).sanQuad

def execSanitizeComplete (s : State) : Result :=
  let done (t : State) : Result := .next (t.resetBands.setSan fun _ => { succeeded := true }).commitRoot
  match s.san.active with
  | none => .next s
  | some .block => if s.allErased then done s.wholeErase else .next s
  | some .crypto => done s

end Sys2Proof.Machine
end

