-- ==== Sys2Proof/Machine/PowerUp.lean ====
section
/-! DEFINITION. Inputs, resets and start-up (13 R301 to R305; 16 Table 16-5; 19 R437, R446, R447; 21 R468, R472, R478 to R484; 22
R489, R491, R495 to R497). -/

namespace Sys2Proof.Machine

open Sys2Proof

/-! ### What outlasts a reset (21 Table 21-5, Table 21-6) -/

/-- A link without power: its receptacle stays as it is plugged. -/
def Link.unpowered (k : Link) : Link := { present := k.present, lowPower := k.lowPower }

/-- The OTP row and what the configuration flash keeps: firmware slots, keys, policy, owners (19 Tables 19-1, 19-2). -/
def Sec.kept (x : Sec) : Sec :=
  { otp := x.otp, otpLock := x.otpLock, fabOwner := x.fabOwner, ownerFw := x.ownerFw, keyGen := x.keyGen
    tenantKeys := x.tenantKeys, storeSeq := x.storeSeq, fw := x.fw, activeSlot := x.nextSlot, nextSlot := x.nextSlot
    lowering := x.lowering }

/-- A port as the host drives it. -/
def PortSt.unpowered (q : PortSt) : PortSt := { perst := q.perst }

/-- What outlasts the loss of all power: OTP, configuration flash and F; what is plugged and driven from outside; and the
model's queue, outputs, cycles and counter of free values. -/
def State.kept (s : State) : State :=
  { pending := s.pending, cycle := s.cycle, freeCtr := s.freeCtr, variant := s.variant, outbox := s.outbox
    cfl := s.cfl, rootRecs := s.rootRecs, sec := s.sec.kept
    dies := remap (fun _ => {}) s.dies fun d => { retired := d.retired }
    blocks := s.blocks, lossReads := s.lossReads, erasedAll := s.erasedAll, cwords := s.cwords
    nss := s.nss, bands := s.bands, bandStamp := s.bandStamp, spares := s.spares, journal := s.journal
    mgmt := { mirrors := s.mgmt.mirrors }
    readOnly := s.readOnly, critWarn := if s.readOnly then 8 else 0
    ports := remap (fun _ => {}) s.ports PortSt.unpowered
    links := remap (fun _ => {}) s.links Link.unpowered, cables := s.cables
    pow := { dirtyLosses := s.pow.dirtyLosses, torn := s.pow.torn, contacts := s.pow.contacts } }

/-- Counters of a link since power-up. -/
def State.keepLinkCounts (s old : State) : State :=
  allLinks.foldl (fun (t : State) l => t.updLink l fun k => { k with cnt := (old.link l).cnt }) s

/-- What a module reset leaves beside it: the time, and counters and logs since power-up (21 R472, R482). -/
def State.keptUp (s : State) : State :=
  State.keepLinkCounts { s.kept with
    time := s.time, tileHeals := s.tileHeals
    eccCe := s.eccCe, eccCk := s.eccCk, eccUe := s.eccUe
    eccLog := s.eccLog, eccNext := s.eccNext, eccLost := s.eccLost, eccUnread := s.eccUnread
    prlCnt := s.prlCnt, traceHead := s.traceHead, modLog := s.modLog, errLog := s.errLog, x16 := s.x16
    mgmt := { s.kept.mgmt with takeovers := s.mgmt.takeovers, beatAt := s.time } } s

/-- The debug state that every reset enters (19 R447); tenant keys are unwrapped only when it is CLOSED (R437, R448). -/
def State.resetDebug (s : State) : State :=
  let d : DebugState := if s.sec.level = 0 then .openInv else .closed
  { s with sec := { s.sec with debugSt := d, withheld := d != .closed } }

/-! ### The flush before a reset (13 Table 13-9a) -/

/-- Step 2: every HOLD bit is set, running and suspended programs are completed, and erases are abandoned, their blocks left for erase. -/
def State.holdAll (s : State) : State :=
  let t := (List.finRange 64).foldl (fun (u : State) c => u.updChan c fun x => { x with hold := 0x7FFF, toLdpc := [], toPraline := [] }) s
  s.dies.foldl (fun (u : State) e => match e.2.op with
    | some o => match o.kind with
      | .program pages => u.pagesDone pages
      | .erase _ _ => u
    | none => u) { t with dies := remap (fun _ => {}) s.dies fun d => { d with op := none, senses := [], reads := [] } }

/-- Steps 2 and 3. -/
def State.flushSteps (s : State) : State := s.holdAll.flushAll

/-- The counters as a loss leaves them whose sequence did not complete: as last committed, plus READ_SCAN (12 R276); the
loss is counted at the next start-up (13 R305). -/
def State.losePending (s : State) : State :=
  let t : State := { s with pow := { s.pow with torn := true } }
  match s.lastRoot with
  | none => t
  | some r =>
    let bs := remap (fun _ => {}) s.blocks fun b => { b with reads := 0, base := 0 }
    { t with
      blocks := r.reads.foldl (fun m e => SMap.upd (fun _ => ({} : Block)) m e.1 fun b =>
        { b with reads := e.2.1, base := e.2.2 }) bs
      lossReads := r.lossReads + BitVec.ofNat 32 s.readScan }

/-- A module reset (21 R482); cause is what MOD_PWR_STAT.LAST_RESET reads. With the storage side lost to a module fault the
FTL recovers as after an unsafe shutdown; the state after a module fault lasts until an NVM Subsystem Reset or a power cycle (17 R392). -/
def State.moduleReset (s : State) (cause : BitVec 3) (flush : Bool) : State :=
  let s1 := if !flush || !s.pow.mainIn || !s.ftlUp then s
    else if s.pow.fatal then s.losePending else s.flushSteps.commitRoot
  let t := s1.cutCfl.keptUp
  let stays := cause ≠ 4 && s.pow.moduleFault
  State.resetDebug { t with
    critWarn := if stays then t.critWarn ||| 4 else t.critWarn
    pow := { t.pow with
      mainIn := s.pow.mainIn, auxIn := s.pow.auxIn, lastReset := cause, stage := .alwaysOn
      moduleFault := stays, fatal := stays && s.pow.fatal } }

/-! ### Resets by the host and by pins (16 R359, 21 R483, 22 R491) -/

/-- Ignored from a port that does not hold MOD_OWNSEM, and while a sanitize runs under it (16 R367). -/
def execNvmSubsystemReset (p : Port) (s : State) : Result :=
  if s.absent p || s.ownsem ≠ semOf p || s.san.active.isSome then .next s
  else if s.anyJob then .next (s.resetFns true (s.fnsOf .a ++ s.fnsOf .b))
  else .next (s.moduleReset 4 true)

/-- A pulse between the two limits either resets or does nothing: a free choice. -/
def execResetPin (nanoseconds : Nat) (s : State) : Result :=
  if s.pow.stage == .off || nanoseconds ≤ 950 then .next s
  else if 1100 ≤ nanoseconds then .next (s.moduleReset 2 true)
  else if Config.freeBool s.freeCtr then .next (s.drawn.moduleReset 2 true) else .next s.drawn

/-- MOD_RST_CTL.MODULE. -/
def execModuleResetWrite (w : Requester) (s : State) : Result :=
  match w with
  | .bar2 p => .next (if s.ownsem = semOf p && !s.anyJob then s.moduleReset 3 true else s)
  | _ => .next s

/-! ### Inputs (13 R303, R305; 21 R468, R481; 22 R497) -/

/-- Both domains are gone, the always-on domain stays: its part of the module is as it was (01 R17, 21 R481). -/
def State.mainOff (s : State) : State :=
  let t := s.keptUp
  { t with
    sec := s.sec, mgmt := s.mgmt
    pow := { t.pow with
      auxIn := true, lastReset := s.pow.lastReset, lossAt := s.pow.lossAt
      stage := if s.pow.stage == .alwaysOn then .alwaysOn else .verified } }

/-- No input is left: the always-on domain is off. -/
def State.allOff (s : State) : State := s.cutCfl.kept.resetDebug

/-- Once NVMe is ready the write buffer is programmed and the roots committed; before, nothing is flushed. -/
def execMainInputLoss (step4Done : Bool) (s : State) : Result :=
  if !s.pow.mainIn then .next s
  else
    let up := s.pow.stage == .ready
    let s1 := if up && !s.pow.fatal then s.flushSteps else s
    let s2 := if !up then s1 else if step4Done && !s.pow.fatal then s1.commitRoot else s1.losePending.tearRoot
    let s3 : State := { s2 with pow := { s2.pow with lossAt := if up then some s.time else none } }
    .next (if s.pow.auxIn then s3.mainOff.log .mainLost else s3.allOff)

/-- Table 13-9a, total. -/
def lossTicks (v : Variant) : Nat :=
  match v with
  | .v245 => 24100000
  | .v123 => 36100000

/-- While the power-loss sequence runs, its end is a module reset without steps 2 to 4; otherwise start-up goes on from the
storage domain. -/
def execMainInputReturn (s : State) : Result :=
  if s.pow.mainIn || s.pow.stage == .off then .next s
  else
    let t : State := { s with pow := { s.pow with mainIn := true, lossAt := none } }
    match s.pow.lossAt with
    | some a => .next (if (s.time - a).toNat ≤ lossTicks s.variant then t.moduleReset s.pow.lastReset false else t)
    | none => .next t

def execAuxInputLoss (s : State) : Result :=
  if !s.pow.auxIn then .next s
  else if s.pow.mainIn then .next (State.log { s with pow := { s.pow with auxIn := false } } .auxLost)
  else .next s.allOff

/-! ### Start-up (21 Table 21-4) -/

def State.setStage (s : State) (g : Stage) : State := { s with pow := { s.pow with stage := g } }
def State.setCompute (s : State) (g : ComputeStage) : State := { s with pow := { s.pow with compute := g } }

/-- Both inputs come into range: the time counter starts at 0 (21 R472). -/
def execPowerOn (s : State) : Result :=
  if s.pow.stage == .off then
    .next (State.resetDebug { s with
      time := 0
      pow := { s.pow with mainIn := true, auxIn := true, stage := .alwaysOn, lastReset := 1 } })
  else .next s

/-- A slot holds an image that verifies. -/
def State.slotOk (s : State) (k : Fin 2) : Bool :=
  match SMap.get (fun _ => none) s.sec.fw k.val with
  | some f => s.fwOk f
  | none => false

/-- A slot's image runs: the active processor executes it from the slot's bank (19 R433, 21 Table 21-4). -/
def State.runSlot (s : State) (k : Fin 2) : State :=
  let procs := SMap.upd (fun _ => ({} : CflProc)) s.sec.procs s.mgmt.active.val fun x => { x with xbank := BitVec.ofNat 4 k.val }
  State.setStage { s with
    sec := { s.sec with island := .running, activeSlot := k, procs := procs }
    mgmt := { s.mgmt with beatAt := s.time } } .verified

/-- 19 R437: the slot last activated, the other one when its verification fails, recovery when both do. A lowering that was
interrupted goes on first (R446). -/
def execFirmwareVerify (s : State) : Result :=
  if s.pow.stage != .alwaysOn || s.sec.lowering.isSome then .next s
  else if s.slotOk s.sec.nextSlot then .next (s.runSlot s.sec.nextSlot)
  else if s.slotOk (1 - s.sec.nextSlot) then .next (s.runSlot (1 - s.sec.nextSlot))
  else .next { s with sec := { s.sec with island := .recovery } }

/-- In recovery one vendor-signed image goes into slot 1 and the module starts again. -/
def execRecoveryImage (img : FwImage) (s : State) : Result :=
  if s.sec.island == .recovery && !img.ownerSigned && s.fwOk img then
    .next (State.moduleReset { s with sec := { s.sec.setFw 0 img with nextSlot := 0 } } s.pow.lastReset false)
  else .next s

/-- The namespace table of a record; the media keys and their lock state are those of the key store (19 R438, R441). -/
def State.restoreNss (s : State) (l : SMap (Option Namespace)) : SMap (Option Namespace) :=
  l.map fun e => (e.1, e.2.map fun v => match s.ns e.1 with
    | some w => { v with key := w.key, keyTenant := w.keyTenant, opal := w.opal, kpio := w.kpio, locked := w.locked }
    | none => v)

/-- What the winning record of Ochre or Umber restores (13 R301, Table 13-8); without one the module starts as shipped. -/
def State.restoreRoot (s : State) : State :=
  match s.newestRoot with
  | none => State.log { s with nss := [] } .noRecord
  | some (a, r) =>
    let put {α : Type} [DecidableEq α] (d : Nat → α) (l : List α) : SMap α :=
      l.zipIdx.foldl (fun m e => SMap.set d m e.2 e.1) []
    let s1 : State := { s with
      rootAt := some a, rootSeq := r.seq, rootTime := s.time
      nss := s.restoreNss r.nss, mapDir := r.dir
      d2Mark := put (fun _ => 0) r.marks, arb := r.arb, reserve := put (fun _ => 0) r.reserves, san := r.san }
    let s2 := r.failed.foldl (fun (t : State) e =>
      let c : Fin 64 := ⟨e.1 % 64, Nat.mod_lt _ (by decide)⟩
      let u := if e.2.2 then t.updChan c fun x => { x with failed := true } else t
      (List.finRange 15).foldl (fun (w : State) d =>
        if e.2.1.getLsbD d.val then w.updDie ⟨c, d⟩ fun x => { x with failed := true } else w) u) s1
    let s3 : State := { s2 with dies := r.quads.foldl (fun m e =>
      SMap.upd (fun _ => ({} : Die)) m e.1 fun x => { x with sanQuad := e.2 }) s2.dies }
    allParts.foldl (fun (t : State) p => t.updPart p fun q =>
      { q with cfg := r.parts.getD p.val none, bindings := put (fun _ => none) (r.bindings.getD p.val []) }) s3

/-- The records are read and the storage domain is powered; the hold-up bank begins to charge. -/
def execStorageDomainPowerUp (s : State) : Result :=
  if s.pow.stage == .verified && s.pow.mainIn then .next (s.restoreRoot.setStage .storage) else .next s

def execD2TrainingDone (s : State) : Result :=
  .next (if s.pow.stage == .storage then s.setStage .d2Trained else s)

/-- D2 holds zero with valid check bits (01 R31). Compute is powered while the roots load. -/
def execD2FillDone (s : State) : Result :=
  .next (if s.pow.stage == .d2Trained then
    ((s.zeroFill d2Base (d2Top - d2Base)).setStage .d2Filled).setCompute .powered else s)

/-- The roots are loaded and the journal replayed; a loss that did not complete its sequence counts (13 R305). -/
def execFtlRootsLoaded (s : State) : Result :=
  if s.pow.stage == .d2Filled then
    let t := s.reloadMap.setStage .rootsLoaded
    .next (if s.pow.torn then
      { t with pow := { t.pow with torn := false, dirtyLosses := t.pow.dirtyLosses + 1 } } else t)
  else .next s

def execD1TrainingDone (s : State) : Result :=
  .next (if s.pow.compute == .powered then s.setCompute .trained else s)

def execD1FillDone (s : State) : Result :=
  .next (if s.pow.compute == .trained then (s.zeroFill 0 d1Top).setCompute .filled else s)

/-- 21 R479: NVMe ready waits for the D2 fill, the roots and the hold-up measurement. -/
def execNvmeReady (s : State) : Result :=
  .next (if s.pow.stage == .rootsLoaded && s.pow.holdupOk then s.setStage .ready else s)

end Sys2Proof.Machine
end

