-- ==== Sys2Proof/Machine/Security.lean ====
section
/-! DEFINITION. Signed commands of the owner (19 R443 to R448, Table 19-8), Key Per I/O and TCG Opal (19 R438, R441,
Table 19-7). A command meets the semaphore first, then its signature, the level and debug state, and the OTP row. -/

namespace Sys2Proof.Machine

open Sys2Proof

/-! ### Security protocol 0xF0 (19 R443) -/

/-- The protocol is there on physical functions. -/
def State.secCmd (s : State) (h : Hdr) (i : Instr) (f : State → State) : State :=
  s.hostCmd h i false fun t => if FnId.isPf h.fn then f t else t.generic h 0x02

/-- An operation under MOD_OWNSEM. -/
def State.secSem (s : State) (h : Hdr) (i : Instr) (f : State → State) : State :=
  s.secCmd h i fun t => t.underSem h f

/-- 60 s. -/
def nonceLife : Nat := 60000000000

/-- The nonce was issued, has served no command, and has not expired. -/
def State.nonceOk (s : State) (n : BitVec 256) : Bool :=
  s.sec.nonces.any fun x => x.1 = n && (s.time - x.2).toNat < nonceLife

def State.dropNonce (s : State) (n : BitVec 256) : State :=
  { s with sec := { s.sec with nonces := s.sec.nonces.filter fun x => x.1 ≠ n } }

def State.signed (s : State) (g : Signed) : Bool := g.verifies && s.sec.ownerOk g.slot.val && s.nonceOk g.nonce

/-- A signed command: its nonce serves no other. -/
def State.withSigned (s : State) (h : Hdr) (g : Signed) (f : State → State) : State :=
  if s.signed g then f (s.dropNonce g.nonce) else (s.dropNonce g.nonce).vendor h 0x10

def State.setSec (s : State) (x : Sec) : State := { s with sec := x }

def execGetNonce (h : Hdr) (s : State) : Result :=
  .next (s.secCmd h (.getNonce h) fun t =>
    let n := Config.nonce t.freeCtr
    ((t.drawn.setSec { t.sec with nonces := t.sec.nonces ++ [(n, t.time)] }).emit
      (.words h ((List.range 4).map fun i => BitVec.ofNat 64 (n.toNat >>> (64 * i))))).okay h 0)

/-- 60 s have passed. -/
def execNonceExpiry (nonce : BitVec 256) (s : State) : Result := .next (if s.nonceOk nonce then s else s.dropNonce nonce)

/-! ### Owners -/

/-- The six words of an owner's hash, the least significant first, and the bit of OWNER_CTL. -/
def Sec.enrol (x : Sec) (slot : Nat) (hash : BitVec 384) : Sec :=
  let y := (List.range 6).foldl (fun (z : Sec) i =>
    z.program (otpOwner slot + i) (BitVec.ofNat 64 (hash.toNat >>> (64 * i)))) x
  y.program otpOwnerCtl (BitVec.ofNat 64 (2 ^ slot))

def State.enrol (s : State) (h : Hdr) (hash : BitVec 384) : State :=
  match (List.range 4).find? fun k => !s.sec.enrolled k with
  | some k => (s.setSec (s.sec.enrol k hash)).okay h 0
  | none => s.vendor h 0x12

/-- Unsigned only while no slot is enrolled. -/
def execEnrolOwner (h : Hdr) (sg : Option Signed) (hash : BitVec 384) (s : State) : Result :=
  .next (s.secSem h (.enrolOwner h sg hash) fun t =>
    match sg with
    | some g => t.withSigned h g fun u => u.enrol h hash
    | none => if (List.range 4).any t.sec.enrolled then t.vendor h 0x10 else t.enrol h hash)

/-- Signed by another valid slot. -/
def execRevokeOwner (h : Hdr) (sg : Signed) (slot : Fin 4) (s : State) : Result :=
  .next (s.secSem h (.revokeOwner h sg slot) fun t =>
    t.withSigned h sg fun u =>
      if sg.slot = slot || !u.sec.ownerOk slot.val then u.vendor h 0x10
      else (u.setSec (u.sec.program otpOwnerCtl (BitVec.ofNat 64 (2 ^ (8 + slot.val))))).okay h 0)

/-! ### Levels (19 R444 to R446) -/

/-- SET_LEVEL: no job loaded, and a level from which the change is allowed. -/
def State.levelCmd (s : State) (h : Hdr) (i : Instr) (g : Signed) (from_ : Nat → Bool) (f : State → State) : State :=
  s.secSem h i fun t => t.withSigned h g fun u => if u.anyJob || !from_ u.sec.level then u.vendor h 0x11 else f u

/-- From 0 to 1. What the RAISE word holds is not stated: a free value. -/
def execSetLevelRaise (h : Hdr) (sg : Signed) (s : State) : Result :=
  .next (s.levelCmd h (.setLevelRaise h sg) sg (· = 0) fun t =>
    match (List.range 16).find? fun i => !t.sec.locked (otpRaise i) with
    | some i =>
      (t.drawn.setSec ((t.sec.program (otpRaise i) (Config.freeWord t.freeCtr)).lockWord (otpRaise i))).okay h 0
    | none => t.vendor h 0x12)

/-- Any locked nonzero value is level 2: a free one. -/
def nonzeroWord (w : Word) : Word := if w = 0 then 1 else w

def execSetLevel2 (h : Hdr) (sg : Signed) (s : State) : Result :=
  .next (s.levelCmd h (.setLevel2 h sg) sg (· ≤ 1) fun t =>
    (t.drawn.setSec ((t.sec.program otpLevel2 (nonzeroWord (Config.freeWord t.freeCtr))).lockWord otpLevel2)).okay h 0)

/-- Every unwrapped key of the island and the engines is cleared. -/
def Sec.clearKeys (x : Sec) : Sec := { x with kpio := [], withheld := true }

/-- Steps 1 and 2 of a lowering with ticket i: START, EPOCH0, one EPOCH bit, KEYS. -/
def Sec.lower (x : Sec) (i : Nat) : Sec :=
  let y := x.program (otpTicket i) (BitVec.ofNat 64 (x.epoch * 2 ^ 32 + 0xFFFFFFFF))
  let z := (y.stepEpoch).program (otpTicket i) (BitVec.ofNat 64 (0xFF * 2 ^ 48))
  { z.clearKeys with lowering := some (.erasing i) }

/-- The processors are held in reset, so no command is served until the module starts again. -/
def execSetLevelLower (h : Hdr) (sg : Signed) (s : State) : Result :=
  .next (s.levelCmd h (.setLevelLower h sg) sg (· = 1) fun t =>
    match t.sec.unused ((List.range 16).map otpTicket) with
    | some w =>
      if 1024 ≤ t.sec.epoch then t.vendor h 0x12
      else State.setStage ((t.setSec (t.sec.lower (w - otpTicket 0))).okay h 0) .alwaysOn
    | none => t.vendor h 0x12)

/-- Steps 3 and 4: both banks read erased, with the firmware slots, key stores, roots and mirrors they held; no key can decrypt
F; the ticket is done, and the island is in recovery. -/
def execLoweringEraseComplete (s : State) : Result :=
  match s.sec.lowering with
  | some (.erasing i) =>
    let x := (s.sec.program (otpTicket i) (BitVec.ofNat 64 (0xFF * 2 ^ 56))).lockWord (otpTicket i)
    .next { s with
      cfl := [], rootRecs := [], rootAt := none, rootSeq := 0
      mgmt := { s.mgmt with mirrors := [] }
      nss := [], nsMap := [], mapCache := [], mapDir := [], journalTail := [], cwords := [], bands := [], journal := 0, buffer := []
      stripes := []
      sec := { x with
        fw := [], tenantKeys := [], fabOwner := false, ownerFw := false, lowering := none, island := .recovery } }
  | none => .next s

/-! ### Debug (19 R447, R448) -/

/-- A job ends as a kill without a copy and its partition is zeroised; a load, restore or vacate in progress completes with 0x0D. -/
def State.killNow (s : State) (p : Fin 12) : State :=
  if s.jobLoaded p then
    let t := (((s.answerWaiter p 0x0D).dropHeld (startsJob (s.part p).job.waiter)).answerWaiting p).clearJob p
    let u := match (s.part p).cfg with
      | some r => t.zeroiseRec r
      | none => t
    u.closeJob p .kill 0
  else s

/-- Before OPEN_INV takes effect: every job ends, and tenant, Key Per I/O and host-buffer keys are cleared. -/
def State.openInvasive (s : State) : State :=
  let t := allParts.foldl State.killNow s
  { t with hmbOn := false, hmbKey := 0, sec := { t.sec.clearKeys with debugSt := .openInv } }

def execDebugOpen (h : Hdr) (sg : Signed) (invasive : Bool) (s : State) : Result :=
  .next (s.secCmd h (.debugOpen h sg invasive) fun t =>
    t.withSigned h sg fun u =>
      if !invasive then (u.setSec { u.sec with debugSt := .openNi }).okay h 0
      else if u.sec.level = 2 then u.vendor h 0x11
      else u.openInvasive.okay h 0)

def execDebugClose (h : Hdr) (s : State) : Result :=
  .next (s.secCmd h (.debugClose h) fun t => (t.setSec { t.sec with debugSt := .closed }).okay h 0)

/-! ### Policy and owner data -/

/-- Kept in the key store. -/
def execSetPolicy (h : Hdr) (sg : Signed) (fabOwner ownerFw : Bool) (s : State) : Result :=
  .next (s.secSem h (.setPolicy h sg fabOwner ownerFw) fun t =>
    t.withSigned h sg fun u =>
      (u.setSec { u.sec with fabOwner := fabOwner, ownerFw := ownerFw, storeSeq := u.sec.storeSeq + 1 }).okay h 0)

/-- A word of OWNER_DATA; bits set stay set, and a locked word does not change. -/
def execOtpWrite (h : Hdr) (sg : Signed) (word : BitVec 8) (v : Word) (lock : Bool) (s : State) : Result :=
  .next (s.secSem h (.otpWrite h sg word v lock) fun t =>
    t.withSigned h sg fun u =>
      if word < 0xD0 then u.generic h 0x02
      else
        let x := u.sec.program word.toNat v
        (u.setSec (if lock then x.lockWord word.toNat else x)).okay h 0)

/-! ### Key Per I/O and TCG Opal -/

/-- Keys that a module holds. -/
def kpioMax : Nat := 65536

/-- A function injects or clears the key of a tag. -/
def execKeyPerIoInject (h : Hdr) (tag : BitVec 16) (clear : Bool) (s : State) : Result :=
  .next (s.hostStore h (.keyPerIoInject h tag clear) fun t =>
    let k := (FnId.key h.fn, tag)
    let rest := t.sec.kpio.filter (· != k)
    if clear then (t.setSec { t.sec with kpio := rest }).okay h 0
    else if kpioMax ≤ rest.length then t.generic h 0x02
    else (t.setSec { t.sec with kpio := rest ++ [k] }).okay h 0)

/-- GenKey: the namespace's media key is replaced, and what it held reads as no value the spec states (log 1). -/
def State.genKey (s : State) (n : Nat) : State :=
  let t := s.rekey n
  let k := t.sec.keyGen
  let lose (d : Unit4K) : Unit4K := Config.undecrypted k d
  { t with
    buffer := t.buffer.map fun b => if b.kind == .unit && b.nsid.toNat = n then { b with data := lose b.data } else b
    cwords := t.cwords.map fun e => (e.1, e.2.map fun w => match w.owner with
      | some o => if w.kind == .unit && o.1.toNat = n then { w with data := lose w.data, key := k } else w
      | none => w) }

/-- Each namespace is one locking range; Opal and Key Per I/O on one namespace are not supported (19 Table 19-7). -/
def execTcgOpalCommand (h : Hdr) (nsid : BitVec 32) (m : Locking) (s : State) : Result :=
  .next (s.hostStore h (.tcgOpalCommand h nsid m) fun t =>
    match t.nsFor h.fn nsid with
    | none => t.generic h 0x0B
    | some v =>
      let n := nsid.toNat
      match m with
      | .enableOpal => if v.kpio then t.generic h 0x02 else (t.setNs n (some { v with opal := true })).okay h 0
      | .enableKeyPerIo => if v.opal then t.generic h 0x02 else (t.setNs n (some { v with kpio := true })).okay h 0
      | .genKey => if v.opal then (t.genKey n).okay h 0 else t.generic h 0x02
      | .lock => if v.opal then (t.setNs n (some { v with locked := true })).okay h 0 else t.generic h 0x02
      | .unlock => if v.opal then (t.setNs n (some { v with locked := false })).okay h 0 else t.generic h 0x02)

end Sys2Proof.Machine
end

