-- ==== Sys2Proof/Machine/Attest.lean ====
section
/-! DEFINITION. Attestation (19 R450 to R452): the SPDM 1.3 responder on its three transports. The order of requests, the response codes
and the error codes are those of SPDM 1.3 (log 50); digests, certificates, signatures and exchange data are values the spec
does not give, and each response that carries them holds one free word for them (log 1). -/

namespace Sys2Proof.Machine

open Sys2Proof

/-! ### Transports -/

def State.spdmOf (s : State) (v : SpdmVia) : Spdm :=
  match v with
  | .nvme f => SMap.get (fun _ => ({} : Spdm)) s.sec.spdmNvme (FnId.key f)
  | .i3c => s.sec.spdmI3c
  | .link l => SMap.get (fun _ => ({} : Spdm)) s.sec.spdmLink l.val

def State.setSpdm (s : State) (v : SpdmVia) (x : Spdm) : State :=
  match v with
  | .nvme f => s.setSec { s.sec with spdmNvme := SMap.set (fun _ => ({} : Spdm)) s.sec.spdmNvme (FnId.key f) x }
  | .i3c => s.setSec { s.sec with spdmI3c := x }
  | .link l => s.setSec { s.sec with spdmLink := SMap.set (fun _ => ({} : Spdm)) s.sec.spdmLink l.val x }

/-- The transport carries requests: a serving controller, the sideband of running firmware, a link that carries Indigo. -/
def State.spdmUp (s : State) (v : SpdmVia) : Bool :=
  match v with
  | .nvme f => s.serves f
  | .i3c => s.sec.island == .running
  | .link l => (s.link l).st == .plain || (s.link l).st == .secure

def State.spdmSay (s : State) (v : SpdmVia) (code : Byte) (data : List Word) : State := s.emit (.spdm v code data)

/-- ERROR: 0x01 invalid request, 0x04 unexpected request, 0x06 decrypt error. -/
def State.spdmError (s : State) (v : SpdmVia) (e : Nat) : State := s.spdmSay v 0x7F [BitVec.ofNat 64 e]

/-- A response whose contents the spec does not give. -/
def State.respondFree (s : State) (v : SpdmVia) (code : Byte) : State :=
  s.drawn.spdmSay v code [Config.freeWord s.freeCtr]

/-- A request: on a transport that is up, and answered ERROR out of order. -/
def State.spdmReq (s : State) (v : SpdmVia) (ok : Spdm → Bool) (f : State → State) : Result :=
  .next (if !s.spdmUp v then s else if ok (s.spdmOf v) then f s else s.spdmError v 0x04)

/-! ### Connection -/

/-- GET_VERSION starts over; the version is 1.3. -/
def execGetVersion (v : SpdmVia) (s : State) : Result :=
  s.spdmReq v (fun _ => true) fun t => (t.setSpdm v { version := true }).spdmSay v 0x04 [0x13]

def execGetCapabilities (v : SpdmVia) (s : State) : Result :=
  s.spdmReq v (·.version) fun t => (t.setSpdm v { t.spdmOf v with caps := true }).respondFree v 0x61

/-- ECDSA P-384, SHA-384, ECDHE P-384 and AES-256-GCM, as the numbers 1 to 4 of this list (R450). -/
def execNegotiateAlgorithms (v : SpdmVia) (s : State) : Result :=
  s.spdmReq v (·.caps) fun t => (t.setSpdm v { t.spdmOf v with algs := true }).spdmSay v 0x63 [1, 2, 3, 4]

/-! ### Certificates and challenges -/

def execGetDigests (v : SpdmVia) (s : State) : Result := s.spdmReq v (·.algs) fun t => t.respondFree v 0x01

/-- Certificate slot 0 holds the chain. -/
def execGetCertificate (v : SpdmVia) (slot : BitVec 4) (_offset _len : BitVec 16) (s : State) : Result :=
  s.spdmReq v (·.algs) fun t => if slot = 0 then t.respondFree v 0x02 else t.spdmError v 0x01

/-- The alias key signs. -/
def execChallenge (v : SpdmVia) (slot : BitVec 4) (_nonce : BitVec 256) (s : State) : Result :=
  s.spdmReq v (·.algs) fun t => if slot = 0 then t.respondFree v 0x03 else t.spdmError v 0x01

/-! ### Measurements (R451) -/

/-- A virtual function receives measurements 1 to 5 and that of its own partition. -/
def State.mayMeasure (s : State) (v : SpdmVia) (i : Nat) : Bool :=
  (1 ≤ i && i ≤ 5) || (16 ≤ i && i < 28 && match v with
    | .nvme (.vf t) => allParts.any fun p => p.val + 16 = i && s.reaches (.vf t) p
    | _ => true)

/-- What a measurement covers, as far as it is state of the module; its digest is not computed. -/
def State.measured (s : State) (i : Nat) : List Word :=
  let x := s.sec
  let w (n : Nat) : Word := BitVec.ofNat 64 n
  match i with
  | 3 => match s.activeFw with
    | some f => [w f.svn.toNat, w (b2n f.ownerSigned)]
    | none => []
  | 4 => [w x.level, w x.debugSt.code, w (mask 4 x.enrolled), w (mask 4 x.revoked), w (b2n x.fabOwner * 2 + b2n x.ownerFw)] ++
      (List.range 24).map fun k => x.word (otpOwner 0 + k)
  | 5 => [w (b2n s.arb.isolated), w (b2n s.qosIso), w (b2n s.shareEn), w (b2n s.promise)]
  | _ => if h : 16 ≤ i ∧ i < 28 then
      let p : Fin 12 := ⟨i - 16, by omega⟩
      if s.jobLoaded p then [(s.part p).job.version] else []
    else []

/-- The measurement of a partition without an image is zero: no version and no digest (Table 19-11). -/
def State.noImage (s : State) (i : Nat) : Bool :=
  if h : 16 ≤ i ∧ i < 28 then !s.jobLoaded ⟨i - 16, by omega⟩ else false

def execGetMeasurements (v : SpdmVia) (index : BitVec 8) (s : State) : Result :=
  s.spdmReq v (·.algs) fun t =>
    if t.mayMeasure v index.toNat then
      if t.noImage index.toNat then t.spdmSay v 0x60 [0, 0]
      else t.drawn.spdmSay v 0x60 (t.measured index.toNat ++ [Config.freeWord t.freeCtr])
    else t.spdmError v 0x01

/-! ### Sessions -/

def execKeyExchange (v : SpdmVia) (_reqSession : BitVec 16) (s : State) : Result :=
  s.spdmReq v (·.algs) fun t => (t.setSpdm v { t.spdmOf v with handshake := true, session := false }).respondFree v 0x64

def execFinish (v : SpdmVia) (verifies : Bool) (s : State) : Result :=
  s.spdmReq v (·.handshake) fun t =>
    let x := t.spdmOf v
    if verifies then (t.setSpdm v { x with handshake := false, session := true }).respondFree v 0x65
    else (t.setSpdm v { x with handshake := false }).spdmError v 0x06

def execSpdmKeyUpdate (v : SpdmVia) (s : State) : Result := s.spdmReq v (·.session) fun t => t.spdmSay v 0x69 []

def execHeartbeat (v : SpdmVia) (s : State) : Result := s.spdmReq v (·.session) fun t => t.spdmSay v 0x68 []

def execEndSession (v : SpdmVia) (s : State) : Result :=
  s.spdmReq v (·.session) fun t => (t.setSpdm v { t.spdmOf v with session := false }).spdmSay v 0x6C []

end Sys2Proof.Machine
end

