-- ==== Sys2Proof/Machine/CfgFlash.lean ====
section
/-! DEFINITION. Operations of the management processors on the configuration flash (19 R431 to R434). -/

namespace Sys2Proof.Machine

open Sys2Proof

def State.cflProc (s : State) (p : Fin 2) : CflProc := SMap.get (fun _ => ({} : CflProc)) s.sec.procs p.val
def State.setCflProc (s : State) (p : Fin 2) (v : CflProc) : State :=
  s.setSec { s.sec with procs := SMap.set (fun _ => ({} : CflProc)) s.sec.procs p.val v }

def State.cflBank (s : State) (b : Nat) : CflBank := SMap.get (fun _ => ({} : CflBank)) s.sec.banks b
def State.setCflBank (s : State) (b : Nat) (v : CflBank) : State :=
  s.setSec { s.sec with banks := SMap.set (fun _ => ({} : CflBank)) s.sec.banks b v }

def cflSize : Nat := 0x8000000

/-- A key store or the slot that runs (19 Table 19-2). -/
def State.cflGuarded (s : State) (a : Nat) : Bool :=
  let o := a % 0x4000000
  (0x3000000 ≤ o && o < 0x3400000) || (o < 0x3000000 && cflBankOf a = s.sec.activeSlot.val)

/-- The standby's operation that the active processor's, written in the same hub cycle, takes the place of (19 Table 19-4). -/
def State.cflYields (s : State) (p : Fin 2) (a : Nat) : Option (Fin 2) :=
  match (s.cflBank (cflBankOf a)).op with
  | some (q, _, _) => if p = s.mgmt.active && q ≠ p && (s.cflBank (cflBankOf a)).at_ = s.cycle then some q else none
  | none => none

/-- The first code of 19 Table 19-3 in its order, none when the operation is accepted; n is the alignment. -/
def State.cflCheck (s : State) (p : Fin 2) (a n : Nat) : Option Nat :=
  if a % n ≠ 0 || cflSize ≤ a then some 0x04
  else if (s.cflProc p).xbank.toNat = cflBankOf a then some 0x02
  else if s.cflGuarded a then some 0x03
  else if (s.cflBank (cflBankOf a)).op.isSome && (s.cflYields p a).isNone then some 0x01
  else none

/-- A write of SEC_CFL_CMD by processor p while its firmware runs. -/
def State.cflStart (s : State) (p : Fin 2) (a n : Nat) (op : CflOp) : State :=
  if s.sec.island != .running || s.mgmt.halted then s
  else
    let x := s.cflProc p
    match s.cflCheck p a n with
    | some c => s.setCflProc p { x with code := BitVec.ofNat 8 c }
    | none =>
      let t := match s.cflYields p a with
        | some q => s.setCflProc q { s.cflProc q with busy := false, code := 0x01 }
        | none => s
      (t.setCflBank (cflBankOf a) { op := some (p, op, x.buf), at_ := s.cycle }).setCflProc p { x with busy := true }

def execCflProgram (proc : Fin 2) (addr : BitVec 32) (s : State) : Result :=
  .next (s.cflStart proc addr.toNat 256 (.program addr.toNat))

def execCflErase (proc : Fin 2) (addr : BitVec 32) (s : State) : Result :=
  .next (s.cflStart proc addr.toNat 4096 (.erase addr.toNat))

/-- The page holds the buffer, the sector reads erased; where the verification fails they are unspecified. -/
def State.cflApply (s : State) (op : CflOp) (buf : SMap Byte) (ok : Bool) : State :=
  match op with
  | .program a => if ok then s.cflStore a ((List.range 256).map (SMap.get (fun _ => 0) buf)) else s.cflFree a 256
  | .erase a => if ok then s.cflStore a (List.replicate 4096 0xFF) else s.cflFree a 4096

def execCflOperationComplete (bank : Fin 2) (verified : Bool) (s : State) : Result :=
  match (s.cflBank bank.val).op with
  | none => .next s
  | some (p, op, buf) =>
    let t := ((s.setCflBank bank.val {}).cflApply op buf verified).dropImage op.addr
    .next (t.setCflProc p { t.cflProc p with busy := false, code := if verified then 0x00 else 0x05 })

end Sys2Proof.Machine
end

