-- ==== Sys2Proof/Machine/MgmtPair.lean ====
section
/-! DEFINITION. Counter snapshots and tensor watch records (20 R457 to R462), and the pair of management processors (20 R465 to
R467). -/

namespace Sys2Proof.Machine

open Sys2Proof

/-! ### Snapshots (20 R458) -/

/-- Word 0 the window's number, words 1 to 19 the counters 0 to 18. -/
def Partition.snap (win : Nat) (q : Partition) : Partition :=
  let z : Nat → Word := fun _ => 0
  let m := (List.range 19).foldl (fun m i => SMap.set z m (i + 1) (SMap.get z (q.cross (win + 1)).edge i)) (SMap.set z [] 0 (BitVec.ofNat 64 win))
  { q with snapshot := m }

def execCounterSnapshotWindow (s : State) : Result :=
  .next (if s.msWindow = 0 then s else allParts.foldl (fun (t : State) p => t.updPart p (Partition.snap (s.msWindow - 1))) s)

/-! ### Tensor watch records (20 R461, Tables 20-5, 20-6) -/

/-- 16 MiB, the most a record keeps of a footprint and its scales. -/
def dumpMax : Nat := 16777216

/-- The first block of a record. -/
def Dump.header (d : Dump) (index : Nat) : List Nat :=
  let long := dumpMax < d.foot.2 + d.scales.2
  [put 0x54574348 32 + put (bits (word d.words 0) 31 16) 16 + put (b2n long) 1 + b2n d.rerun, d.time.toNat,
   put d.step.toNat 32 + d.foot.1, put d.foot.2 32 + d.scales.2, index, 0, 0, 0] ++ d.dstD.map (·.toNat)

/-- The record in units of 4 KiB: the header block, then the footprint and the scales. -/
def Dump.units (d : Dump) (index : Nat) (data : List Byte) : List Unit4K :=
  let kept := data.take dumpMax
  ofUnit ((d.header index).flatMap fun w => toBytes w 8) ::
    (List.range ((kept.length + 4095) / 4096)).map fun i => ofUnit ((kept.drop (4096 * i)).take 4096)

/-- The footprint and the scales as they stand. -/
def State.dumpData (s : State) (cl : Fin 32) (d : Dump) : State × List Byte :=
  let f := s.readMem (clusterAddr cl d.foot.1) d.foot.2
  let g := f.st.readMem (clusterAddr cl d.scales.1) d.scales.2
  (g.st, f.data ++ g.data)

def State.dropDump (s : State) (cl : Fin 32) (d : Dump) : State := s.updCluster cl fun c => { c with dumps := c.dumps.erase d }

/-- Write the record of a watch: FULL when it would pass the log area, disarmed when the write is refused; it waits for room. -/
def State.writeDump (s : State) (cl : Fin 32) (p : Fin 12) (d : Dump) (v : Watch) : State :=
  let g := s.dumpData cl d
  let us := d.units (s.partIndex cl) g.2
  let n := v.data.logNsid.toNat
  let at_ := v.data.logLba.toNat + v.next
  let gone := g.1.dropDump cl d
  if v.data.logBlocks.toNat < v.next + us.length then gone.setWatch p d.w.val (some { v with full := true })
  else if !s.nsWritable n || s.nsBlocks n < at_ + us.length then (gone.setWatch p d.w.val none).log (.watchDisarmed p.val)
  else if !s.hostRoom (some p) .warm (s.writeCost n at_ us.length) then s
  else
    let t := ((gone.writeUnits n at_ .warm us).countWrite (some p) (us.length * 4096)).writeThrough
    ((t.setWatch p d.w.val (some { v with dumps := v.dumps + 1, next := v.next + us.length })).count (some p) 17 1).trace 5 (some p)
      cl.val 0 (BitVec.ofNat 64 (bits (word d.words 0) 31 16)) (d.step.zeroExtend 64)

/-- No cluster of the partition has a record of the watch whose STORE completed earlier (20 Table 20-6). -/
def State.dumpFirst (s : State) (p : Fin 12) (d : Dump) : Bool :=
  (s.clustersOf p).all fun c => (s.cluster c).dumps.all fun e => e.w != d.w || d.time.toNat ≤ e.time.toNat

/-- The oldest record of watch w that a cluster has to write: the partition's records go in completion order. -/
def execTensorWatchDump (cl : Fin 32) (w : Fin 4) (s : State) : Result :=
  match (s.cluster cl).dumps.find? fun d => d.w == w, s.partOf cl with
  | some d, some p =>
    match s.watchAt p w.val with
    | some v =>
      .next (if !s.dumpFirst p d then s else if v.full || v.data.maxDumps.toNat ≤ v.dumps then s.dropDump cl d else s.writeDump cl p d v)
    | none => .next (s.dropDump cl d)
  | some d, none => .next (s.dropDump cl d)
  | none, _ => .next s

/-! ### Heartbeats (20 R465, R467) -/

def State.firmwareUp (s : State) : Bool := s.sec.island == .running

def execMgmtHeartbeat (proc : Fin 2) (s : State) : Result :=
  .next (if s.firmwareUp && !s.mgmt.halted && proc = s.mgmt.active then
    { s with mgmt := { s.mgmt with beatAt := s.time } } else s)

def execStandbyFailure (s : State) : Result :=
  .next (if s.firmwareUp && s.mgmt.standbyOk then
    State.log { s with mgmt := { s.mgmt with standbyOk := false } } .standbyFailed else s)

/-! ### The mirror (20 R466) -/

/-- Mirror slots 0 and 1: 4 MiB in each bank (19 Table 19-2). -/
def mirrorBase (slot0 : Bool) : Nat := if slot0 then 0x3400000 else 0x7400000
def mirrorSize : Nat := 0x400000

/-- A mirror record's bytes: the layout of 13 Table 13-7 with FORMAT 2, and five sections whose bytes the spec does not give (log 107). -/
def mirrorBytes (r : MirrorRec) : List Byte := recBytes r.seq r.time r.size 2 5 (Config.mirrorByte r.seq.toNat)

def State.mirrorValid (s : State) (a : Nat) : Bool := s.recValid 2 (mirrorBase (regionOf a) + mirrorSize) a

/-- The better of two records by SEQ. -/
def betterMirror (b : Option (Nat × MirrorRec)) (e : Nat × MirrorRec) : Option (Nat × MirrorRec) :=
  match b with
  | some x => if seqBeats e.2.seq x.2.seq then some e else b
  | none => some e

/-- The newest valid record (13 R301). -/
def State.newestMirror (s : State) : Option (Nat × MirrorRec) :=
  s.mgmt.mirrors.foldl (fun b e => match e.2 with
    | some r => if s.mirrorValid e.1 && s.recordSeq e.1 = r.seq then betterMirror b (e.1, r) else b
    | none => b) none

/-- The last record of a slot's log. -/
def Mgmt.slotLast (m : Mgmt) (slot0 : Bool) : Option (Nat × MirrorRec) :=
  m.mirrors.foldl (fun b e => match e.2 with
    | some r => if regionOf e.1 = slot0 then betterMirror b (e.1, r) else b
    | none => b) none

def State.mirrorPlace (s : State) (slot0 : Bool) (size : Nat) : Nat :=
  s.placeIn (mirrorBase slot0) mirrorSize ((s.mgmt.slotLast slot0).map fun x => x.1 + x.2.size) size

/-- The state a record holds now: error log, events, features, watches; at most 32 KiB. -/
def State.mirrorRecord (s : State) (seq : W32) : MirrorRec :=
  { seq := seq, time := s.time, size := 4096 * (1 + Config.mirrorSectors seq.toNat % 8)
    modLog := s.modLog, errLog := s.errLog
    fns := s.fns.map fun e => (e.1, e.2.feats, e.2.events, e.2.apst)
    watches := allParts.map fun p => (s.part p).watches }

/-- The state that a record holds is no longer that of the newest one. -/
def State.mirrorStale (s : State) : Bool :=
  match s.newestMirror with
  | some x => { s.mirrorRecord x.2.seq with time := x.2.time, size := x.2.size } ≠ x.2
  | none => true

/-- A record is due: MIRROR_INTERVAL has passed, or the state has changed, at most once per 10 s. -/
def State.mirrorDue (s : State) : Bool :=
  match s.mgmt.mirrorAt with
  | some t => 10000000000 ≤ (s.time - t).toNat &&
      (s.mgmt.mirrorInt.toNat * 1000000000 ≤ (s.time - t).toNat || s.mirrorStale)
  | none => true

/-- A record is written at an offset; those whose sectors it takes are gone. -/
def State.putMirror (s : State) (a : Nat) (r : MirrorRec) : State :=
  let kept := s.mgmt.mirrors.filter fun e => match e.2 with
    | some x => !(a < e.1 + x.size && e.1 < a + r.size)
    | none => true
  let t := s.cflStore a (mirrorBytes r)
  { t with mgmt := { s.mgmt with mirrors := SMap.set (fun _ => none) kept a (some r), mirrorAt := some s.time } }

def State.writeMirror (s : State) (seq : W32) (slot0 : Bool) : State :=
  let r := s.mirrorRecord seq
  s.putMirror (s.mirrorPlace slot0 r.size) r

/-- Records alternate between the slots as commits do under 13 R300: one that a bank's operation refuses is retried in the other slot and
logged. -/
def State.mirrorCommit (s : State) : State :=
  let (seq, slot0) : W32 × Bool := match s.newestMirror with
    | some x => (x.2.seq + 1, !regionOf x.1)
    | none => (1, true)
  if s.rootBusy slot0 then
    let t := s.log .rootRetry
    if t.rootBusy !slot0 then t else t.writeMirror seq !slot0
  else s.writeMirror seq slot0

def execMirrorWrite (s : State) : Result :=
  .next (if !s.firmwareUp || s.mgmt.halted || !s.mirrorDue then s else s.mirrorCommit)

/-- Take over a record: what changed since it was written is lost. -/
def State.takeMirror (s : State) (r : MirrorRec) : State :=
  let bare : SMap Fn := s.fns.map fun e => (e.1, { e.2 with feats := [], events := [], apst := [] })
  let fns := r.fns.foldl (fun m x => SMap.upd Fn.reset m x.1 fun g => { g with feats := x.2.1, events := x.2.2.1, apst := x.2.2.2 }) bare
  let t : State := { s with modLog := r.modLog, errLog := r.errLog, fns := fns.filter fun e => e.2 ≠ Fn.reset e.1 }
  allParts.foldl (fun (u : State) p => u.updPart p fun q => { q with watches := r.watches.getD p.val [] }) t

/-- With no valid record that state starts as shipped (13 R301). -/
def emptyMirror : MirrorRec := { seq := 0, modLog := [], errLog := [], fns := [], watches := [] }

/-! ### Takeover (20 R465) -/

/-- Admin commands that were in firmware end with Internal Error; I/O commands wait on. -/
def State.failAdmin (s : State) : State :=
  let t := (s.heldCmds.filter fun x => !heldIo x).foldl (State.endHeld 0x06) s
  allParts.foldl (fun (u : State) p => match (u.part p).job.waiter with
    | some h => (u.generic h 0x06).updPart p fun q => { q with job := { q.job with waiter := none } }
    | none => u) t

/-- The standby becomes active; SPDM sessions on NVMe and I3C end, and the hosts see one management reset. -/
def State.takeover (s : State) : State :=
  let t := match s.newestMirror with
    | some (_, r) => s.failAdmin.takeMirror r
    | none => (s.failAdmin.takeMirror emptyMirror).log .noRecord
  let seq : W32 := match s.newestMirror with
    | some (_, r) => r.seq
    | none => 0
  let act : Fin 2 := 1 - s.mgmt.active
  let procs := SMap.upd (fun _ => ({} : CflProc)) t.sec.procs act.val fun x =>
    { x with xbank := BitVec.ofNat 4 s.sec.activeSlot.val }
  let u : State := { t with
    sec := { t.sec with spdmNvme := [], spdmI3c := {}, procs := procs }
    mgmt := { t.mgmt with active := act, standbyOk := false, beatAt := s.time, takeovers := s.mgmt.takeovers + 1 }
    errLog := ((⟨.pf .a, 0, 0xFFFF⟩, 0, 0x06) :: t.errLog).take 256 }
  ((((u.log .mgmtTakeover).trace 6 none 0 0 (seq.zeroExtend 64) 0).asyncEvent (.pf .a) 0).asyncEvent (.pf .b) 0)

/-- 5 ms. -/
def beatLimit : Nat := 5000000

/-- No heartbeat within 5 ms, or an uncorrectable error in the active processor's memory. Without a standby both are lost: a
module fault on which the FTL stops (17 R390, R392). -/
def execMgmtTakeover (memError : Bool) (s : State) : Result :=
  if s.firmwareUp && (memError || beatLimit ≤ (s.time - s.mgmt.beatAt).toNat) then
    .next (if s.mgmt.standbyOk then s.takeover else s.moduleFault true)
  else .next s

end Sys2Proof.Machine
end

