-- ==== Sys2Proof/Machine/ClusterPower.lean ====
section
/-! DEFINITION. Clocks and sleep of clusters, power cap, temperature (21 R473 to R477), receptacles and sideband (22 R490, R493). -/

namespace Sys2Proof.Machine

open Sys2Proof

/-! ### Sleep (21 R476, R477) -/

def execClusterGate (cl : Fin 32) (s : State) : Result :=
  let c := s.cluster cl
  .next (if c.pstate = 0 && c.gateEn && (s.quiet cl || s.coresReset cl) && s.pow.compute == .ready then
    s.setCluster cl { c with pstate := 1, wakeFrom := 1 } else s)

/-- 21 R476: only a quiet cluster, or one whose cores are all in RESET, is powered off (02 R68). A cluster that is off has lost its
SRAM. -/
def execClusterPowerOff (cl : Fin 32) (s : State) : Result :=
  let c := s.cluster cl
  .next (if c.offEn && (c.pstate = 0 || c.pstate = 1) && !s.jobOn cl && (s.quiet cl || s.coresReset cl) && s.pow.compute == .ready then
    (s.zeroiseCluster cl).updCluster cl fun x => { x with pstate := 2, wakeFrom := 2 } else s)

def execClusterWake (cl : Fin 32) (s : State) : Result :=
  .next (if s.pow.compute == .ready then s.updCluster cl Cluster.woken else s)

/-! ### Steps (21 R473 to R475) -/

/-- The highest step a cluster may run at now: 8 while throttled. -/
def State.stepCap (s : State) (step : BitVec 5) : BitVec 5 := if s.pow.throttled then 8 else step

/-- MOD_CLU_PWR (21 Table 21-10, R485). In capped mode CUR stays at what the cap has made it, not above STEP. -/
def State.writePwr (s : State) (cl : Fin 32) (v : Word) : State :=
  let n := bits v 4 0
  if n < 8 || 28 < n then s
  else
    let st := BitVec.ofNat 5 n
    s.updCluster cl fun c => { c with
      gateEn := bit v 17, offEn := bit v 16, setStep := st
      cur := s.stepCap (if s.pow.capped && c.cur < st then c.cur else st) }

def execClusterStepWrite (w : Requester) (cl : Fin 32) (v : Word) (s : State) : Result :=
  .next (if hubWriter w then s.writePwr cl v else s)

/-- One step down, not below 8 (R474). -/
def Cluster.slower (c : Cluster) : Cluster := if c.pstate = 0 && 8 < c.cur then { c with cur := c.cur - 1 } else c
/-- One step up, not above STEP. -/
def Cluster.faster (c : Cluster) : Cluster := if c.cur < c.setStep then { c with cur := c.cur + 1 } else c

/-- Fixed mode, or the end of a throttle: CUR is STEP. -/
def State.allAtStep (s : State) : State := s.updClusters allClusters fun c => { c with cur := s.stepCap c.setStep }

def execPowerCapWindowEnd (watts : BitVec 16) (s : State) : Result :=
  let t : State := { s with pow := { s.pow with watts := watts } }
  if !s.pow.capped || s.pow.throttled then .next t
  else if s.pow.pcap < watts then .next (t.updClusters allClusters Cluster.slower)
  else if watts.toNat * 100 < s.pow.pcap.toNat * 95 then .next (t.updClusters allClusters Cluster.faster)
  else .next t

def State.setTemp (s : State) (celsius : Byte) : State := { s with pow := { s.pow with tempMax := celsius } }

def execThermalThrottle (celsius : BitVec 8) (s : State) : Result :=
  let t := s.setTemp celsius
  if 105 ≤ celsius.toNat then
    let u : State := { t with pow := { t.pow with throttled := true } }
    .next (u.updClusters allClusters fun c => { c with cur := 8 })
  else .next t

/-- The command is one full window in which every junction stayed below its temperature. -/
def execThermalRecover (celsius : BitVec 8) (s : State) : Result :=
  let t := s.setTemp celsius
  if s.pow.throttled && celsius.toNat < 100 then
    .next (State.allAtStep { t with pow := { t.pow with throttled := false } })
  else .next t

def execThermalTrip (celsius : BitVec 8) (s : State) : Result :=
  let t := s.setTemp celsius
  .next (if 115 ≤ celsius.toNat then t.moduleFault false else t)

/-! ### Receptacles and sideband (22 R490, R493) -/

/-- Links 4r to 4r + 3. -/
def receptacleLinks (r : Fin 9) : List (Fin 36) :=
  (List.finRange 4).map fun j => ⟨4 * r.val + j.val, by omega⟩

/-- A module above 5.0 W is held in low-power mode, its links stay DOWN, and the log reports it. -/
def execReceptacleModuleInsert (r : Fin 9) (tenthsWatt : Nat) (s : State) : Result :=
  let low := 50 < tenthsWatt
  let t : State := (receptacleLinks r).foldl (fun (u : State) l =>
    (u.linkDown l).updLink l fun k => { k with present := true, lowPower := low })
    { s with cables := SMap.set (fun _ => none) s.cables r.val (some tenthsWatt) }
  .next (if low then t.log (.receptaclePower r.val) else t)

/-- Served in every power state by running firmware; in PS3 and PS4 it wakes the module to PS2 (21 Table 21-1). -/
def execNvmeMiMessage (led : Option Bool) (s : State) : Result :=
  if !s.firmwareUp then .next s
  else .next ((State.emit { s with pow := { s.pow with led := led.getD s.pow.led } } .mi).wake 2)

end Sys2Proof.Machine
end

