-- ==== Sys2Proof/Machine/Control.lean ====
section
/-! DEFINITION. Branches, jumps, BREAK, ERET and undefined encodings (03 R73, R85 to R87, R90). -/

namespace Sys2Proof.Machine

open Sys2Proof

/-- 03 R85. -/
def branchTaken (op : BrOp) (a b : Word) : Bool :=
  match op with
  | .beq => a = b
  | .bne => a ≠ b
  | .blt => a.toInt < b.toInt
  | .bge => b.toInt ≤ a.toInt
  | .bltu => a.toNat < b.toNat
  | .bgeu => b.toNat ≤ a.toNat

/-- pc + sext(off) * 4 (03 R85, R86). -/
def relTarget {n : Nat} (pc : W32) (off : BitVec n) : W32 := pc + off.signExtend 32 * 4

def execBranch (c : CoreId) (op : BrOp) (ra rb : BitVec 5) (off : BitVec 16) (s : State) : Result :=
  s.issue c 4 true [.s ra, .s rb] [] fun t k =>
    if branchTaken op (k.sreg ra) (k.sreg rb) then .jump t (relTarget k.pc off) else .go t

/-- The link value: PC + 4 (03 R86). -/
def Core.link (k : Core) : Word := (k.pc + 4).zeroExtend 64

def execJal (c : CoreId) (rd : BitVec 5) (off : BitVec 21) (s : State) : Result :=
  s.issue c 4 true [] [.s rd] fun t k => .jump (t.setCore c (k.setS rd k.link)) (relTarget k.pc off)

/-- Target s[ra] + sext(imm16), with ra read before rd is written. A target of 2^32 or more lies outside the instruction
memory; CLU_CORE_EXC_PC, 32 bits wide (02 Table 2-8), holds its low 32 bits (log 25). -/
def execJalr (c : CoreId) (rd ra : BitVec 5) (imm : BitVec 16) (s : State) : Result :=
  s.issue c 4 true [.s ra] [.s rd] fun t k =>
    let a := k.sreg ra + imm.signExtend 64
    let t1 := t.setCore c (k.setS rd k.link)
    if a.toNat < 2 ^ 32 then .jump t1 (a.truncate 32)
    else .stay ((((t1.retire c).updCore c fun q => { q with pc := a.truncate 32 })).takeException c 0x02 none)

def execBrk (c : CoreId) (s : State) : Result :=
  s.issue c 4 true [] [] fun _ _ => .exc 0x0E none

/-- ERET outside a handler is ILLEGAL (03 R90). -/
def execEret (c : CoreId) (s : State) : Result :=
  s.issue c 4 true [] [] fun t k => if k.inHandler then .stay (t.returnFrom c) else .exc 0x01 none

/-- An undefined or malformed encoding (03 R73). -/
def execIllegal (c : CoreId) (_w : W32) (s : State) : Result :=
  s.issue c 4 false [] [] fun _ _ => .exc 0x01 none

end Sys2Proof.Machine
end

