-- ==== Sys2Proof/Machine/Cuts.lean ====
section
/-! DEFINITION. Fabric groups and the Madder cut (18 R417, R420 to R423, Table 18-17). -/

namespace Sys2Proof.Machine

open Sys2Proof

/-! ### Groups -/

/-- A write of FAB_PART_GRP(p) (18 R417). -/
def State.writePartGrp (s : State) (p : Fin 12) (v : Word) : State :=
  let q := s.part p
  let ref := s.w1c (.grpRefused p) q.grpRef (bit v 16)
  if s.jobLoaded p then (s.setPart p { q with grpRef := true }).setBit (.grpRefused p)
  else s.setPart p { q with grpRef := ref, group := BitVec.ofNat 16 (bits v 15 0) }

def execFabPartGrpWrite (w : Requester) (p : Fin 12) (v : Word) (s : State) : Result :=
  .next (if hubWriter w then s.writePartGrp p v else s)

/-- Clusters of the partitions of a group. -/
def State.groupClusters (s : State) (g : Half) : List (Fin 32) :=
  (allParts.filter fun p => (s.part p).group = g).flatMap s.clustersOf

/-! ### Slots -/

/-- A slot that can be taken: free, or resumed at its initiator. -/
def Cut.idle (c : Cut) : Bool := c.st == .free || c.st == .resumed

def State.idleSlot (s : State) : Option Nat := (List.range 4).find? fun n => (s.cutAt n).idle

/-- Slots that a group's cuts take. -/
def State.slotsOf (s : State) (g : Half) : List Nat :=
  (List.range 4).filter fun n => !(s.cutAt n).idle && (s.cutAt n).group = g

/-- The epoch is newer than that of any cut of the group held here. -/
def State.cutNewer (s : State) (g e : Half) : Bool := (s.slotsOf g).all fun n => newerEpoch e (s.cutAt n).epoch

/-- The slot a new cut of a group takes: one that is idle, else that of the group's older cut. -/
def State.cutSlot (s : State) (g : Half) : Option Nat :=
  match s.idleSlot with
  | some n => some n
  | none => (s.slotsOf g).head?

def Cut.supersede (c : Cut) : Cut := { c with st := .superseded, hold := false, awaitAck := [], awaitDone := [] }

/-- A cluster that the cut stops; RESUME clears only what the cut set. -/
def State.cutQuiesceOn (s : State) (cl : Fin 32) : State :=
  if (s.cluster cl).quiesce then s
  else (s.quiesceCluster false cl).updCluster cl fun c => { c with cutQuiesce := true }

/-- The module enters hold in a slot (18 R421). -/
def State.enterCut (s : State) (n : Nat) (g e : Half) (action : Bool) (depth : Byte) (parent : Option (Fin 36)) : State :=
  let s1 := (s.slotsOf g).foldl (fun (t : State) m => t.setCut m (t.cutAt m).supersede) s
  let out := s1.secureBut (parent.toList)
  let c : Cut :=
    { st := .holding, group := g, epoch := e, action := action, depth := depth, initiator := parent.isNone
      parent := parent, since := s.time, awaitAck := out, hold := true }
  let s2 := s1.setCut n c
  let s3 := if action then (s2.groupClusters g).foldl State.cutQuiesceOn s2 else s2
  let s4 := s3.flood out { cutPacket s3 0x48 c (if action then 2 ^ 8 else 0) with note := depth.zeroExtend 32 }
  match parent with
  | some l => s4.enqueue l (cutPacket s4 0x49 c 1)
  | none => s4

/-! ### Commands of the owner (18 R420, R421) -/

/-- The hold of a slot ends; QUIESCE that the cut set is cleared on partitions that still hold their job. -/
def State.clearCutQuiesce (s : State) (g : Half) : State :=
  s.updClusters ((s.groupClusters g).filter fun cl => (s.cluster cl).cutQuiesce && s.jobOn cl) fun c =>
    { c with quiesce := false, cutQuiesce := false }

/-- RESUME of a cut at this module: its slot, and the slots of older cuts of the group, are left. -/
def State.resumeCut (s : State) (g e : Half) (written : Bool) : State :=
  match (s.slotsOf g).find? fun n => (s.cutAt n).epoch = e with
  | none => s
  | some n =>
    let c := s.cutAt n
    let end_ : Cut := if written && c.st == .holding then { c with st := .resumed, hold := false, awaitAck := [], awaitDone := [] } else {}
    let s1 := (s.setCut n end_).clearCutQuiesce g
    (s1.slotsOf g).foldl (fun (t : State) m => if (t.cutAt m).st == .superseded then t.setCut m {} else t) s1

/-- GO: this module is the initiator. -/
def State.startCut (s : State) (g e : Half) (action : Bool) : State :=
  let refused : State := State.setBit { s with fab := { s.fab with cutRefused := true } } .cutRefused
  if g = 0 || !s.cutNewer g e then refused
  else match s.idleSlot with
    | some n => s.enterCut n g e action 0 none
    | none => refused

/-- A write of FAB_CUT_CTL (18 Table 18-17). -/
def State.writeCutCtl (s : State) (v : Word) : State :=
  let g : Half := BitVec.ofNat 16 (bits v 63 48)
  let e : Half := BitVec.ofNat 16 (bits v 47 32)
  let s1 : State := { s with fab := { s.fab with
    cutGroup := g, cutEpoch := e, cutAction := bit v 8, cutRefused := s.w1c .cutRefused s.fab.cutRefused (bit v 2) } }
  let s2 := if bit v 0 then s1.startCut g e (bit v 8) else s1
  if bit v 1 then
    (s2.flood (s2.secureBut []) { indigo s2 0x4B 0 (epochWord e) 0 with group := g }).resumeCut g e true
  else s2

def execCutGo (w : Requester) (v : Word) (s : State) : Result := .next (if hubWriter w then s.writeCutCtl (v ||| 1) else s)

def execCutResumeWrite (w : Requester) (v : Word) (s : State) : Result :=
  .next (if hubWriter w then s.writeCutCtl (v ||| 2) else s)

/-! ### Packets of a cut (18 R421, R423) -/

def pkEpoch (pk : Packet) : Half := BitVec.ofNat 16 (bits pk.w2 47 32)

/-- The slot of the cut a packet belongs to. -/
def State.slotFor (s : State) (pk : Packet) : Option Nat :=
  (List.range 4).find? fun n => (s.cutAt n).st == .holding && (s.cutAt n).group = pk.group && (s.cutAt n).epoch = pkEpoch pk

/-- CUT_ACK with CHILD = 0, or with ABORT = 1. -/
def State.refuseCut (s : State) (l : Fin 36) (pk : Packet) (abort : Bool) : State :=
  s.enqueue l { indigo s 0x49 0 (epochWord (pkEpoch pk) + (if abort then 2 else 0)) 0 with group := pk.group }

def State.cutIn (s : State) (l : Fin 36) (pk : Packet) : State :=
  if !s.cutNewer pk.group (pkEpoch pk) then s.refuseCut l pk false
  else match s.cutSlot pk.group with
    | some n => s.enterCut n pk.group (pkEpoch pk) (bit pk.w2 8) (BitVec.ofNat 8 (pk.note.toNat + 1)) (some l)
    | none => s.refuseCut l pk true

def execCutReceive (l : Fin 36) (pk : Packet) (s : State) : Result :=
  .next (if s.rxHas l pk 0x48 then (s.takeRx l pk).cutIn l pk else s)

def State.cutAckIn (s : State) (l : Fin 36) (pk : Packet) : State :=
  match s.slotFor pk with
  | none => s
  | some n =>
    let c := s.cutAt n
    if bit pk.w2 1 then s.abortCut n
    else s.setCut n { c with
      awaitAck := c.awaitAck.filter (· != l)
      awaitDone := if bit pk.w2 0 && !c.awaitDone.contains l then c.awaitDone ++ [l] else c.awaitDone }

def execCutAckReceive (l : Fin 36) (pk : Packet) (s : State) : Result :=
  .next (if s.rxHas l pk 0x49 then (s.takeRx l pk).cutAckIn l pk else s)

def State.cutDoneIn (s : State) (l : Fin 36) (pk : Packet) : State :=
  match s.slotFor pk with
  | none => s
  | some n =>
    let c := s.cutAt n
    if bit pk.w2 1 then s.abortCut n
    else s.setCut n { c with
      awaitDone := c.awaitDone.filter (· != l)
      deepest := BitVec.ofNat 8 (max c.deepest.toNat (bits pk.w2 15 8)) }

def execCutDoneReceive (l : Fin 36) (pk : Packet) (s : State) : Result :=
  .next (if s.rxHas l pk 0x4A then (s.takeRx l pk).cutDoneIn l pk else s)

/-- Locally done (18 R421): records taken from the group's rings have completed, its partitions are quiet for ACTION = 1, and
every answer is in. -/
def State.cutDrained (s : State) (c : Cut) : Bool :=
  c.awaitAck.isEmpty && c.awaitDone.isEmpty && (s.fab.sends.all fun x => s.groupOfCl x.cl ≠ c.group) &&
    (!c.action || (s.groupClusters c.group).all s.quiet)

def execCutLocallyDone (slot : Fin 4) (s : State) : Result :=
  let c := s.cutAt slot.val
  if c.st == .holding && s.cutDrained c then
    let h : Byte := BitVec.ofNat 8 (max c.deepest.toNat c.depth.toNat)
    let t := s.setCut slot.val { c with st := .done, ticks := s.time - c.since, h := if c.initiator then h else 0 }
    match c.parent with
    | some l => .next (t.enqueue l (cutPacket t 0x4A c (h.toNat * 2 ^ 8)))
    | none => .next t
  else .next s

/-- RESUME is flooded once per module. -/
def State.resumeIn (s : State) (l : Fin 36) (pk : Packet) : State :=
  if (s.slotsOf pk.group).any fun n => (s.cutAt n).epoch = pkEpoch pk then
    (s.flood (s.secureBut [l]) pk).resumeCut pk.group (pkEpoch pk) false
  else s

def execCutResumeReceive (l : Fin 36) (pk : Packet) (s : State) : Result :=
  .next (if s.rxHas l pk 0x4B then (s.takeRx l pk).resumeIn l pk else s)

end Sys2Proof.Machine
end

