-- ==== Sys2Proof/Machine/Deque.lean ====
section
/-! DEFINITION. Task deques, work stealing and the work event (02 R52 to R56, 04 R119 to R122). Each core's deque is a list,
top first; dqVisible counts the entries from the top that steals and the occupancy map see (R55). -/

namespace Sys2Proof.Machine

open Sys2Proof

/-- Entries of the deque that steals see. -/
def Core.visible (k : Core) : Nat := min k.dqVisible k.deque.length

/-- The occupancy map: cores with a visible entry (02 R53, R55). -/
def State.occupied (s : State) (cl : Fin 32) (n : Fin 128) : Bool := (s.core ⟨cl, n⟩).visible > 0

/-- The order of a steal of kind "any" (02 R53): thief + 1 and on, modulo 128, the thief skipped. -/
def stealOrder (thief : Fin 128) : List (Fin 128) :=
  (List.range 127).map fun i => ⟨(thief.val + 1 + i) % 128, Nat.mod_lt _ (by decide)⟩

/-- The deque a steal takes from: the one named, or for "any" the first non-empty one (02 R53, R56). -/
def State.victimOf (s : State) (cl : Fin 32) (thief : Fin 128) (v : Option (Fin 128)) : Option (Fin 128) :=
  match v with
  | some n => some n
  | none => (stealOrder thief).find? fun n => s.occupied cl n

/-- A steal was served from the deque in this cycle (02 R55). -/
def Core.stoleNow (k : Core) (cycle : Nat) : Option Stolen :=
  match k.stole with
  | some u => if u.cycle = cycle then some u else none
  | none => none

/-- The thief that a deque serves among those that wait for it: round-robin from behind the one served last (02 R55). -/
def Core.nextThief (k : Core) (ts : List (Fin 128)) : Option (Fin 128) :=
  let p := match k.stole with
    | some u => u.thief.val + 1
    | none => 0
  ((List.range 128).map fun i => (⟨(p + i) % 128, Nat.mod_lt _ (by decide)⟩ : Fin 128)).find? fun t => ts.contains t

/-- The thieves whose held steals reach the deque of core n. -/
def State.thievesOf (s : State) (cl : Fin 32) (n : Fin 128) : List (Fin 128) :=
  ((s.cluster cl).heldSteals.filter fun h => s.victimOf cl h.thief h.victim == some n).map (·.thief)

/-- Whether the steal of a thief that reaches victim v is served now: a deque serves one steal a cycle, the one whose turn it is (02
R55). A steal of kind "any" that found no entry reaches no deque and is answered at once. -/
def State.stealOpen (s : State) (cl : Fin 32) (thief : Fin 128) (v : Option (Fin 128)) : Bool :=
  match v with
  | none => true
  | some n => let k := s.core ⟨cl, n⟩
    (k.stoleNow s.cycle).isNone && k.nextThief (thief :: s.thievesOf cl n) == some thief

/-- Serve a steal: the top entry, removed, or 0 (02 R52, 04 Table 4-10); seq is the steal's place among the thief's outstanding
loads. -/
def State.serveSteal (s : State) (cl : Fin 32) (thief : Fin 128) (seq : Nat) (v : Option (Fin 128)) : State × Word :=
  match v with
  | none => (s, 0)
  | some n =>
    let k := s.core ⟨cl, n⟩
    let w := if k.visible > 0 then k.deque.headD 0 else 0
    (s.setCore ⟨cl, n⟩ { k with
      deque := if k.visible > 0 then k.deque.tail else k.deque
      dqVisible := if k.visible > 0 then k.visible - 1 else k.dqVisible
      stole := some { cycle := s.cycle, word := w, thief := thief, seq := seq } }, w)

/-- An entry of the deque is spoken for in this cycle: a steal took one from it (02 Table 2-7, the last row). -/
def Core.stolenNow (k : Core) (cycle : Nat) : Bool :=
  match k.stoleNow cycle with
  | some u => u.word != 0
  | none => false

/-- A push fails when the deque is full, and in a cycle whose steal made the room (02 R52, Table 2-7). -/
def execDqpush (c : CoreId) (rd ra : BitVec 5) (s : State) : Result :=
  s.issueReg c 4 true [.s ra] [.s rd] fun k =>
    let w := k.sreg ra
    if w = 0 then k.setS rd 2
    else if k.deque.length + (if k.stolenNow s.cycle then 1 else 0) ≥ 64 then k.setS rd 1
    else { k with deque := k.deque ++ [w] }.setS rd 0

/-- The outstanding steal with this place among a core's loads is served w. -/
def Core.stealServed (k : Core) (seq cycle : Nat) (w : Word) : Core :=
  { k with loads := k.loads.map fun l => match l.kind with
      | .steal rd _ => if l.seq = seq then { l with kind := .steal rd (some (w, cycle)) } else l
      | _ => l }

/-- The steal of this cycle that took the deque's only entry and has not returned: the owner's pop gets that entry and the thief gets
0 (02 Table 2-7, the first row). -/
def State.lostSteal (s : State) (c : CoreId) : Option Stolen :=
  let k := s.core c
  match k.stoleNow s.cycle with
  | some u => if k.deque.isEmpty && u.word != 0 && (s.core ⟨c.cl, u.thief⟩).loads.any (fun l => l.kind.isSteal && l.seq == u.seq)
    then some u else none
  | none => none

def execDqpop (c : CoreId) (rd : BitVec 5) (s : State) : Result :=
  s.issue c 4 true [] [.s rd] fun t k =>
    match t.lostSteal c with
    | some u =>
      .go (((t.updCore ⟨c.cl, u.thief⟩ fun q => q.stealServed u.seq t.cycle 0).updCore c fun q =>
        { q with stole := some { u with word := 0 } }).updCore c fun q => q.setS rd u.word)
    | none => .go (t.setCore c ({ k with
        deque := k.deque.dropLast, dqVisible := min k.dqVisible k.deque.dropLast.length }.setS rd (k.deque.getLastD 0)))

/-- 04 R120: the steal is an outstanding load; it is held when the deque serves another in this cycle (02 R55). -/
def execDqsteal (c : CoreId) (rd ra : BitVec 5) (s : State) : Result :=
  s.issue c 4 true [.s ra] [.s rd] fun t k =>
    let a := k.sreg ra
    let named : Option (Fin 128) := if bit a 7 then none else some ⟨bits a 6 0 % 128, Nat.mod_lt _ (by decide)⟩
    if k.loads.length ≥ 8 then .wait
    else
      let v := t.victimOf c.cl c.k named
      if t.stealOpen c.cl c.k v then
        let r := t.serveSteal c.cl c.k k.memSeq v
        .issued (r.1.pushLoad c (.steal rd (some (r.2, t.cycle))) 0 0)
      else
        .issued ((t.pushLoad c (.steal rd none) 0 0).updCluster c.cl fun q =>
          { q with heldSteals := q.heldSteals ++ [{ thief := c.k, rd := rd, victim := named }] })

def execDqcnt (c : CoreId) (rd : BitVec 5) (s : State) : Result :=
  s.issueReg c 4 true [] [.s rd] fun k => k.setS rd (BitVec.ofNat 64 k.deque.length)

def execDqocc (c : CoreId) (rd ra : BitVec 5) (s : State) : Result :=
  s.issue c 4 true [.s ra] [.s rd] fun t k =>
    let h := if bit (k.sreg ra) 0 then 64 else 0
    .go (t.setCore c (k.setS rd (BitVec.ofNat 64
      ((List.range 64).foldl (fun x i =>
        if t.occupied c.cl ⟨(h + i) % 128, Nat.mod_lt _ (by decide)⟩ then x + 2 ^ i else x) 0))))

/-- 02 R55, R56: a held steal is served against the deque as it then stands; "any" re-scans the map. -/
def execStealHeldServe (cl : Fin 32) (thief : Fin 128) (s : State) : Result :=
  match (s.cluster cl).heldSteals.find? fun h => h.thief == thief with
  | none => .next s
  | some h =>
    let v := s.victimOf cl thief h.victim
    if s.stealOpen cl thief v then
      let s1 := s.updCluster cl fun q => { q with heldSteals := q.heldSteals.erase h }
      match (s.core ⟨cl, thief⟩).loads.find? fun l => l.kind == .steal h.rd none with
      | some l =>
        let r := s1.serveSteal cl thief l.seq v
        .next (r.1.updCore ⟨cl, thief⟩ fun k => k.stealServed l.seq s.cycle r.2)
      | none => .next s1
    else .next s

/-- Set the latch of every core of a cluster (04 R121). -/
def State.setLatches (s : State) (cl : Fin 32) : State :=
  allCores.foldl (fun t n => t.updCore ⟨cl, n⟩ fun k => { k with latch := true }) s

/-- 02 R55, 04 R121: every completed push of the core becomes visible, and every core's latch is set. -/
def execDequePushVisible (c : CoreId) (s : State) : Result :=
  let k := s.core c
  if k.visible < k.deque.length then
    .next ((s.setCore c { k with dqVisible := k.deque.length }).setLatches c.cl)
  else .next s

/-! ### The work event (04 R121) -/

def execWaitev (c : CoreId) (rd ra : BitVec 5) (s : State) : Result :=
  s.issue c 4 true [.s ra] [.s rd] fun t k =>
    if k.latch then .go (t.setCore c ({ k with latch := false }.setS rd 1))
    else
      let d := k.sreg ra
      .stay (t.setCore c { k with mode := .waiting, wait := some (.event rd (if d = 0 then none else some (t.time, d))) })

/-- WAITEV returns with a value, the latch cleared. -/
def State.waitevReturn (s : State) (c : CoreId) (rd : BitVec 5) (v : Word) : State :=
  ((s.updCore c fun k => { k with mode := .running, wait := none, latch := false }.setS rd v).advance c 4).retire c

def execWaitevWake (c : CoreId) (s : State) : Result :=
  let k := s.core c
  match k.mode, k.wait with
  | .waiting, some (.event rd _) => if k.latch then .next (s.waitevReturn c rd 1) else .next s
  | _, _ => .next s

/-- The timeout has expired; with the latch set the instruction returns 1. -/
def execWaitevTimeout (c : CoreId) (s : State) : Result :=
  let k := s.core c
  match k.mode, k.wait with
  | .waiting, some (.event rd (some (t, d))) =>
    if d.toNat ≤ (s.time - t).toNat then .next (s.waitevReturn c rd (if k.latch then 1 else 0)) else .next s
  | _, _ => .next s

def execEvsig (c : CoreId) (s : State) : Result :=
  s.issue c 4 true [] [] fun t _ => .go (t.setLatches c.cl)

def execEvclr (c : CoreId) (s : State) : Result :=
  s.issueReg c 4 true [] [] fun k => { k with latch := false }

end Sys2Proof.Machine
end

