-- ==== Sys2Proof/Machine/FullEmpty.lean ====
section
/-! DEFINITION. Full/empty slots (04 R112 to R118, 09 R213, R214). -/

namespace Sys2Proof.Machine

open Sys2Proof

/-- Access size (04 R113). -/
def feSize (v : Bool) : Nat := if v then 64 else 8

/-- The register t as data to store. -/
def Core.feData (k : Core) (v : Bool) (t : BitVec 5) : Slot :=
  if v then k.vreg (vField t) else (k.sreg t).zeroExtend 512

def feReg (v : Bool) (t : BitVec 5) : Reg := if v then .v (vField t) else .s t

/-- The tag that permits a waiting kind (04 Table 4-7). -/
def FeKind.needs : FeKind → Bool
  | .ldf => true
  | .ldfe => true
  | .stef => false

/-- Tag test, data access and tag change, one indivisible operation (04 R114). The tag permits it. On an uncorrectable error
of a load nothing is performed: the state the read leaves, and false. -/
def State.fePerform (s : State) (e : HeldFe) (cl : Fin 32) : State × Bool :=
  let c : CoreId := ⟨cl, e.core⟩
  let m := clusterAddr cl e.addr.toNat
  match e.kind with
  | .stef =>
    let s1 := s.writeMem m (whole (toBytes e.data.toNat (feSize e.v)))
    (s1.setTag m true, true)
  | kind =>
    let g := s.readMem m (feSize e.v)
    if g.ues.isEmpty then
      let s1 := if kind = .ldfe then g.st.setTag m false else g.st
      (s1.updCore c fun k =>
        if e.v then k.setV (vField e.t) (BitVec.ofNat 512 (ofBytes g.data))
        else k.setS e.t (BitVec.ofNat 64 (ofBytes g.data)), true)
    else (g.st, false)

/-- The cycle of arrival of a core's full/empty access at its bank, and whether it is aged (09 R211). -/
def Core.feArrival (k : Core) (m cycle : Nat) : Nat × Bool :=
  match k.feAt with
  | some (a, i, g) => if a = m then (i, g) else (cycle, false)
  | none => (cycle, false)

/-- The bank serves the access: the pointer moves behind the core (09 R210), and disagreeing tag copies are rewritten (R213). -/
def State.feServed (s : State) (c : CoreId) (m : Nat) (aged : Bool) : State :=
  ((s.updCore c fun k => { k with feAt := none }).served c m aged).repairTag m

/-- A full/empty access whose address has been formed: it waits until the core has nothing outstanding (04 R115), then until its bank
serves it (09 R209). -/
def State.feAccess (s : State) (c : CoreId) (k : Core) (m : Nat) (f : State → Act) : Act :=
  let r := k.feArrival m s.cycle
  if !k.drained then .wait
  else if !s.bankServes c m r.1 r.2 then .stay (s.updCore c fun q => { q with feAt := some (m, r.1, r.2) })
  else f (s.feServed c m r.2)

/-- A waiting kind at issue (04 R115, R116). The address recorded for its machine check is the one R78 gives for the access (log
96). -/
def State.feIssue (s : State) (c : CoreId) (k : Core) (kind : FeKind) (g v : Bool) (t ra : BitVec 5) (imm : BitVec 10) : Act :=
  let ea := effAddr (k.sreg ra) imm (feSize v)
  match s.checkSlot c g ea (feSize v) (kind == .stef) with
  | .exc cause a => .exc cause (some a)
  | .at _ m =>
    s.feAccess c k m fun s1 =>
      let e : HeldFe := { core := c.k, kind := kind, v := v, t := t, addr := BitVec.ofNat 32 ((m - winBase) % winSize)
                          data := if kind = .stef then k.feData v t else 0 }
      if s1.tagFull m = kind.needs then
        let r := s1.fePerform e c.cl
        if r.2 then .go r.1 else .check r.1 (some (s.excView c g ea))
      else
        .stay ((s1.updCore c fun k => { k with mode := .waiting, wait := some .fullEmpty }).updCluster c.cl fun q =>
          { q with held := q.held ++ [e] })

/-- A kind that does not wait (04 R115): f is done to the slot. -/
def State.feNow (s : State) (c : CoreId) (k : Core) (g v : Bool) (ra : BitVec 5) (imm : BitVec 10)
    (f : State → Nat → State) : Act :=
  match s.checkSlot c g (effAddr (k.sreg ra) imm (feSize v)) (feSize v) true with
  | .exc cause a => .exc cause (some a)
  | .at _ m => s.feAccess c k m fun s1 => .go (f s1 m)

def execLdf (c : CoreId) (g v : Bool) (t ra : BitVec 5) (imm : BitVec 10) (s : State) : Result :=
  s.issue c 4 (!v || t.toNat < 16) [.s ra] [feReg v t] fun u k => u.feIssue c k .ldf g v t ra imm

def execLdfe (c : CoreId) (g v : Bool) (t ra : BitVec 5) (imm : BitVec 10) (s : State) : Result :=
  s.issue c 4 (!v || t.toNat < 16) [.s ra] [feReg v t] fun u k => u.feIssue c k .ldfe g v t ra imm

def execStef (c : CoreId) (g v : Bool) (t ra : BitVec 5) (imm : BitVec 10) (s : State) : Result :=
  s.issue c 4 (!v || t.toNat < 16) [.s ra, feReg v t] [] fun u k => u.feIssue c k .stef g v t ra imm

def execStf (c : CoreId) (g v : Bool) (t ra : BitVec 5) (imm : BitVec 10) (s : State) : Result :=
  s.issue c 4 (!v || t.toNat < 16) [.s ra, feReg v t] [] fun u k =>
    u.feNow c k g v ra imm fun w m =>
      (w.writeMem m (whole (toBytes (k.feData v t).toNat (feSize v)))).setTag m true

def execSete (c : CoreId) (g : Bool) (ra : BitVec 5) (imm : BitVec 10) (s : State) : Result :=
  s.issue c 4 true [.s ra] [] fun u k => u.feNow c k g false ra imm fun w m => w.setTag m false

def execSetf (c : CoreId) (g : Bool) (ra : BitVec 5) (imm : BitVec 10) (s : State) : Result :=
  s.issue c 4 true [.s ra] [] fun u k => u.feNow c k g false ra imm fun w m => w.setTag m true

def execTest (c : CoreId) (g : Bool) (t ra : BitVec 5) (imm : BitVec 10) (s : State) : Result :=
  s.issue c 4 true [.s ra] [.s t] fun u k =>
    let ea := effAddr (k.sreg ra) imm 8
    match u.checkSlot c g ea 8 false with
    | .exc cause a => .exc cause (some a)
    | .at _ m =>
      if k.loads.length ≥ 8 || k.loadFenced then .wait else .issued (u.pushLoad c (.test t) m (u.excView c g ea))

/-- 04 R116: the first held access of the slot, in order of arrival, that its tag permits is performed; its core resumes. -/
def execFeRetry (cl : Fin 32) (slot : BitVec 26) (s : State) : Result :=
  let m := clusterAddr cl (slot.toNat * 64)
  match (s.cluster cl).held.find? fun e => e.addr.toNat / 64 = slot.toNat && s.tagFull m = e.kind.needs with
  | none => .next s
  | some e =>
    let c : CoreId := ⟨cl, e.core⟩
    if !s.bankServes c m s.cycle false then .next s else
    let r := (s.feServed c m false).fePerform e cl
    let s2 := r.1.updCluster cl fun q => { q with held := q.held.erase e }
    if r.2 then
      .next (((s2.updCore c fun k => { k with mode := .running, wait := none }).advance c 4).retire c)
    else .next (s2.machineCheck c (s2.core c).pc (some (s2.ownView cl e.addr.toNat)))

end Sys2Proof.Machine
end

