-- ==== Sys2Proof/Machine/HostRun.lean ====
section
/-! DEFINITION. Host commands that waited (16 R361, R362, R365; 01 R26; 21 R477), power states (16 R364, R365; 21 R470), the wake of a
cluster and the end of start-up (21 R477, R478). -/

namespace Sys2Proof.Machine

open Sys2Proof

/-! ### Running a command that waited -/

/-- The command again, from its fetch: the checks it has passed, it passes again. -/
def rerunCmd (i : Instr) (s : State) : Result :=
  match i with
  | .nvmRead h nsid slba x => Sys2Proof.Machine.execNvmRead h nsid slba x s
  | .nvmWrite h nsid slba ph data => Sys2Proof.Machine.execNvmWrite h nsid slba ph data s
  | .nvmFlush h nsid => Sys2Proof.Machine.execNvmFlush h nsid s
  | .writeZeroes h nsid slba nlb => Sys2Proof.Machine.execWriteZeroes h nsid slba nlb s
  | .datasetManagement h nsid ranges => Sys2Proof.Machine.execDatasetManagement h nsid ranges s
  | .unsupportedCommand h opcode => Sys2Proof.Machine.execUnsupportedCommand h opcode s
  | .identify h cns nsid => Sys2Proof.Machine.execIdentify h cns nsid s
  | .getFeatures h fid nsid cdw11 => Sys2Proof.Machine.execGetFeatures h fid nsid cdw11 s
  | .setFeatures h fid nsid cdw11 x => Sys2Proof.Machine.execSetFeatures h fid nsid cdw11 x s
  | .tensorWatchArm h cdw11 data => Sys2Proof.Machine.execTensorWatchArm h cdw11 data s
  | .getLogPage h lid index => Sys2Proof.Machine.execGetLogPage h lid index s
  | .createIoSq h qid size cqid => Sys2Proof.Machine.execCreateIoSq h qid size cqid s
  | .createIoCq h qid size vector => Sys2Proof.Machine.execCreateIoCq h qid size vector s
  | .deleteIoSq h qid => Sys2Proof.Machine.execDeleteIoSq h qid s
  | .deleteIoCq h qid => Sys2Proof.Machine.execDeleteIoCq h qid s
  | .abort h sq cid => Sys2Proof.Machine.execAbort h sq cid s
  | .asynchronousEventRequest h => Sys2Proof.Machine.execAsynchronousEventRequest h s
  | .keepAlive h => Sys2Proof.Machine.execKeepAlive h s
  | .namespaceManagement h a => Sys2Proof.Machine.execNamespaceManagement h a s
  | .namespaceAttachment h nsid attach target => Sys2Proof.Machine.execNamespaceAttachment h nsid attach target s
  | .formatNvm h nsid ses => Sys2Proof.Machine.execFormatNvm h nsid ses s
  | .firmwareImageDownload h img => Sys2Proof.Machine.execFirmwareImageDownload h img s
  | .firmwareCommit h activate => Sys2Proof.Machine.execFirmwareCommit h activate s
  | .virtualizationManagement h t a => Sys2Proof.Machine.execVirtualizationManagement h t a s
  | .directiveSend h nsid enable => Sys2Proof.Machine.execDirectiveSend h nsid enable s
  | .directiveReceive h nsid => Sys2Proof.Machine.execDirectiveReceive h nsid s
  | .memoryRangeSetManagement h a => Sys2Proof.Machine.execMemoryRangeSetManagement h a s
  | .memoryRead h id offset len => Sys2Proof.Machine.execMemoryRead h id offset len s
  | .memoryWrite h id offset data => Sys2Proof.Machine.execMemoryWrite h id offset data s
  | .memoryCopy h src dst units => Sys2Proof.Machine.execMemoryCopy h src dst units s
  | .loadProgram h p cdw13 sigVerifies image => Sys2Proof.Machine.execLoadProgram h p cdw13 sigVerifies image s
  | .programActivate h p => Sys2Proof.Machine.execProgramActivate h p s
  | .programDeactivate h p => Sys2Proof.Machine.execProgramDeactivate h p s
  | .executeProgram h p request => Sys2Proof.Machine.execExecuteProgram h p request s
  | .partitionConfigureSet h p r => Sys2Proof.Machine.execPartitionConfigureSet h p r s
  | .partitionConfigureClear h p => Sys2Proof.Machine.execPartitionConfigureClear h p s
  | .partitionArbitrationSet h r => Sys2Proof.Machine.execPartitionArbitrationSet h r s
  | .bindingSet h p slot b => Sys2Proof.Machine.execBindingSet h p slot b s
  | .jobControlVacate h p nsid lba => Sys2Proof.Machine.execJobControlVacate h p nsid lba s
  | .jobControlRestore h p nsid lba => Sys2Proof.Machine.execJobControlRestore h p nsid lba s
  | .jobControlKill h p => Sys2Proof.Machine.execJobControlKill h p s
  | .fabricIdentity h fid lmn epoch => Sys2Proof.Machine.execFabricIdentity h fid lmn epoch s
  | .sanitizeBlockErase h => Sys2Proof.Machine.execSanitizeBlockErase h s
  | .sanitizeCryptoErase h => Sys2Proof.Machine.execSanitizeCryptoErase h s
  | .sanitizeExitFailureMode h => Sys2Proof.Machine.execSanitizeExitFailureMode h s
  | .enrolOwner h sg hash => Sys2Proof.Machine.execEnrolOwner h sg hash s
  | .revokeOwner h sg slot => Sys2Proof.Machine.execRevokeOwner h sg slot s
  | .setLevelRaise h sg => Sys2Proof.Machine.execSetLevelRaise h sg s
  | .setLevel2 h sg => Sys2Proof.Machine.execSetLevel2 h sg s
  | .setLevelLower h sg => Sys2Proof.Machine.execSetLevelLower h sg s
  | .getNonce h => Sys2Proof.Machine.execGetNonce h s
  | .debugOpen h sg invasive => Sys2Proof.Machine.execDebugOpen h sg invasive s
  | .debugClose h => Sys2Proof.Machine.execDebugClose h s
  | .setPolicy h sg fabOwner ownerFw => Sys2Proof.Machine.execSetPolicy h sg fabOwner ownerFw s
  | .otpWrite h sg word v lock => Sys2Proof.Machine.execOtpWrite h sg word v lock s
  | .keyPerIoInject h tag clear => Sys2Proof.Machine.execKeyPerIoInject h tag clear s
  | .tcgOpalCommand h nsid m => Sys2Proof.Machine.execTcgOpalCommand h nsid m s
  | _ => .next s

/-- What an operation accepted under the semaphore does once it need not wait (16 R367, R368). -/
def semOperation (i : Instr) : State → State :=
  match i with
  | .formatNvm h nsid ses => State.format h nsid ses
  | .firmwareCommit h _ => State.activateFirmware h
  | .partitionConfigureSet h p r => State.setPartition h p r
  | .partitionConfigureClear h p => State.clearPartition h p
  | .partitionArbitrationSet h r => State.setArbitration h r
  | .fabricIdentity h fid lmn epoch => State.fabricIdentity h fid lmn epoch
  | .sanitizeBlockErase h => State.blockErase h
  | .sanitizeCryptoErase h => State.cryptoErase h
  | .sanitizeExitFailureMode h => State.exitFailure h
  | _ => id

/-- A completion of a command. -/
def isCompletionOf (h : Hdr) (o : Out) : Bool :=
  match o with
  | .completion g _ _ _ => g == h
  | _ => false

/-- The completion of a command that ran from s is discarded (16 R359, R368); a command that waits again stays mute. -/
def State.silence (s t : State) (i : Instr) : State :=
  match hdrOf i with
  | none => t
  | some h => { t with
      outbox := s.outbox ++ (t.outbox.drop s.outbox.length).filter fun o => !isCompletionOf h o
      heldCmds := t.heldCmds.map fun x => match x with
        | .bufferWait ids m j => .bufferWait ids (m || j == i) j
        | y => y }

/-- The command runs again, from its fetch. -/
def State.rerun (s : State) (i : Instr) : State :=
  match rerunCmd i s with
  | .next t => t
  | _ => s

/-- The controller of a command takes its completion. -/
def State.takes (s : State) (i : Instr) : Bool :=
  match hdrOf i with
  | some h => s.serves h.fn
  | none => false

/-- Take a waiting command off the list and run it. -/
def State.runHeld (s : State) (x : Held) : State :=
  let t := s.unhold x
  match x with
  | .semWait i =>
    let u := semOperation i t
    if s.takes i then u else t.silence u i
  | .bufferWait _ true i => t.silence (t.rerun i) i
  | .qosWait part i => { State.rerun { t with qosPart := part } i with qosPart := 0 }
  | y => t.rerun (heldInstr y)

/-- Run those that wait for one kind of thing, oldest first. -/
def State.runAll (s : State) (which : Held → Bool) : State := (s.heldCmds.filter which).foldl State.runHeld s

def Held.isWake : Held → Bool
  | .wakeWait _ => true
  | .semWait _ => true
  | _ => false

def Held.isCompute : Held → Bool
  | .computeWait _ => true
  | _ => false

/-! ### Windows and locks (16 R357, R361, R362; 01 R26) -/

/-- Commands admitted in this window and IOPS_WEIGHT of the function a command waits for; a physical function is admitted outside the weights. -/
def State.turn (s : State) (x : Held) : Nat × Nat :=
  match hdrOf (heldInstr x) with
  | some ⟨.vf t, _, _⟩ => ((s.admitted (.vf t)).1 + 1, max 1 (bits (s.vfQosOf t.val) 15 8))
  | _ => (0, 1)

/-- Of the commands that wait, that of the tenant with the fewest admitted commands for its IOPS_WEIGHT is next, and among equals the one
that has waited longest (16 R357, log 34). -/
def State.nextTurn (s : State) : List Held → Option Held
  | [] => none
  | x :: xs => match s.nextTurn xs with
    | some y => if (s.turn y).1 * (s.turn x).2 < (s.turn x).1 * (s.turn y).2 then some y else some x
    | none => some x

/-- Run the commands of a list, each once, in the order of their turns. -/
def State.runTurns (s : State) (xs : List Held) : Nat → State
  | 0 => s
  | n + 1 => match s.nextTurn xs with
    | some x => (s.runHeld x).runTurns (xs.erase x) n
    | none => s

/-- A window has ended (R357, R358): the commands that waited for the next one go on, if its time has come (00 R8). -/
def execQosWindowEnd (s : State) : Result :=
  let t := s.qosRoll
  let xs := t.heldCmds.filter Held.isQos
  .next (if s.msWindow = s.qosWin then s else t.runTurns xs xs.length)

/-- The first waiting command whose conflicts are gone is granted its locks; where there is none, the first command that
waits for table entries enters them. A restore holds no lock of its own and is tried again. -/
def execRangeLockGrant (s : State) : Result :=
  match s.heldCmds.find? s.mayGrant with
  | some (.lockWait [] i) => .next (s.runHeld (.lockWait [] i))
  | some (.lockWait ids i) => .next (((s.unhold (.lockWait ids i)).grantAll ids).runIo ids i)
  | _ =>
    match s.firstTableWait with
    | some i =>
      match ioRange i with
      | some r => if s.lockRoom r.2.2.length then .next ((s.unhold (.tableWait i)).lockIo r.1 r.2.1 r.2.2 i) else .next s
      | none => .next s
    | none => .next s

/-- A waiting data phase of a partition that is below its share of the programs (17 R378: a share is a floor in shared arbitration). -/
def State.belowShare (s : State) (x : Held) : Bool :=
  heldDispatched x && match (hdrOf (heldInstr x)).bind fun h => s.fnPart h.fn with
    | some p => s.wrNow (some p) < 480000 * s.wrShare (some p)
    | none => false

/-- Of the data phases that wait, that of a partition below its share goes first, then the one that has waited longest; it goes on once there is
room. A Memory Copy is tried again. -/
def execWriteDataResume (s : State) : Result :=
  match (s.heldCmds.find? s.belowShare).or (s.heldCmds.find? heldDispatched) with
  | some (.bufferWait ids mute i) =>
    if (ioRange i).isNone then .next (s.runHeld (.bufferWait ids mute i))
    else if s.dataRoom i then .next ((s.unhold (.bufferWait ids mute i)).resumeData ids mute i)
    else .next s
  | _ => .next s

/-! ### Power states (16 Table 16-6, R365; 21 R470, Table 21-1) -/

/-- The state that a controller's table asks for after an idle time: that of its entry for the present state, [7:3] the state and [31:8] the
idle time in milliseconds, once that has passed (log 118). -/
def Fn.idleState (g : Fn) (cur ticks : Nat) : Nat :=
  let e := g.apst.getD cur 0
  if g.feat 0x0C ≠ 0 && bits e 31 8 ≠ 0 && bits e 31 8 * 1000000 ≤ ticks then bits e 7 3 else cur

/-- The lowest state that the controllers of both ports allow; idle time runs from the end of the last command. -/
def State.idleTarget (s : State) : Fin 5 :=
  let cur := s.pow.pstate.val
  let want (p : Port) : Nat := if s.serves (.pf p) then (s.fn (.pf p)).idleState cur (s.time - s.cmdAt).toNat else 4
  if s.serves (.pf .a) || s.serves (.pf .b) then ⟨min (min (want .a) (want .b)) 4, by omega⟩ else s.pow.pstate

/-- The idle time of port p's controller has passed (16 R365). -/
def execApstIdleTimeout (p : Port) (s : State) : Result :=
  .next (if s.heldCmds.isEmpty && s.serves (.pf p) then s.enterState s.idleTarget else s)

/-- With no move left to make, the commands that the power state serves go on: storage commands in PS0 to PS2 (01 R30). -/
def State.afterMove (s : State) : State :=
  if s.pow.move.isSome || s.pow.pstate ≥ 3 then s
  else if s.pow.pstate = 0 then (s.runAll Held.isWake).runAll Held.isCompute
  else s.runAll Held.isWake

/-- The state is entered; a wake that waited begins, and without one the commands that the state serves go on. -/
def execPowerStateEntryComplete (s : State) : Result :=
  match s.pow.move with
  | some (.entering t) =>
    let u := (s.turnOff t).setMove none
    .next (State.nextWake { u with pow := { u.pow with pstate := t } }).afterMove
  | _ => .next s

def wakeTarget : Wake → Fin 5
  | .storage => 2
  | .compute => 0
  | .fabric partition => if partition then 0 else 2
  | .sideband => 2

def isFabric : Wake → Bool
  | .fabric _ => true
  | _ => false

/-- A fabric packet that wakes the module pulses WAKE#. -/
def execPowerStateExit (wk : Wake) (s : State) : Result :=
  let t := wakeTarget wk
  let u := s.wake t
  .next (if isFabric wk && t < s.pow.pstate then u.emit .wakePulse else u)

/-- The exit ends; when no further one follows, the commands that waited go on. -/
def execPowerStateExitComplete (s : State) : Result :=
  match s.pow.move with
  | some (.exiting t) =>
    let u := (s.turnOn t).setMove none
    .next (State.nextWake { u with pow := { u.pow with pstate := t } }).afterMove
  | _ => .next s

/-! ### Clusters that wake (21 R477) and the end of start-up -/

/-- The accesses that waited are performed, in order. -/
def State.doWakeWrites (s : State) (cl : Fin 32) : State :=
  let ws := (s.cluster cl).wakeWrites
  ws.foldl (fun (t : State) w => match w with
    | .write o v => t.writeClusterReg cl true o v
    | .read r o size => t.readNow r o size) (s.updCluster cl fun c => { c with wakeWrites := [] })

/-- From off the cluster is zeroised first. -/
def execClusterWakeComplete (cl : Fin 32) (s : State) : Result :=
  let c := s.cluster cl
  if c.pstate = 3 then
    let t := if c.wakeFrom = 2 then s.zeroiseCluster cl else s
    let u := (t.updCluster cl fun x => { x with pstate := 0, wakeFrom := 0 }).doWakeWrites cl
    .next (u.runAll Held.isWake)
  else .next s

/-- All clusters are in the state of 02 R58, and compute commands that waited go on. -/
def execComputeReady (s : State) : Result :=
  if s.pow.compute == .filled then
    .next (((allClusters.foldl State.zeroiseCluster s).setCompute .ready).runAll Held.isCompute)
  else .next s

end Sys2Proof.Machine
end

