-- ==== Sys2Proof/Machine/Bar0.lean ====
section
/-! DEFINITION. BAR0 of a function (16 R351): controller registers at 0x0000, doorbells at 0x1000, the MSI-X table at 0x2000 and the pending
bits at 0x3000. The places of the controller registers are those of the NVM Express Base Specification 2.1, which R352 implements (log
116). -/

namespace Sys2Proof.Machine

open Sys2Proof

/-! ### Reading -/

/-- CAP: 4,096 entries in a queue, CAP.TO of 15 s in units of 500 ms (21 R479), CAP.DSTRD 0 and NVM Subsystem Reset supported; its other
fields are free (log 116). -/
def capWord : Word := 0x000000101E000FFF ||| (Config.capOther &&& 0xFFFFFFE000FF0000)

/-- CSTS: ready, Controller Fatal Status, and the end of a shutdown. -/
def State.csts (s : State) (f : FnId) : Nat :=
  b2n ((s.fn f).enabled && s.pow.stage == .ready && !s.pow.fatal) + b2n s.pow.fatal * 2 + put (s.fn f).bar0.shst.toNat 2

/-- Pending bits of 32 vectors. -/
def Bar0.pending (b : Bar0) (k : Nat) : Nat := mask 32 fun i => SMap.get (fun _ => false) b.pend (32 * k + i)

/-- Four bytes at an offset. -/
def State.bar0Read (s : State) (f : FnId) (o : Nat) : Nat :=
  let b := (s.fn f).bar0
  let half (w : Word) : Nat := if o % 8 = 0 then bits w 31 0 else bits w 63 32
  if 0x1000 ≤ o && o < 0x2000 then (SMap.get (fun _ => (0 : W32)) b.bells ((o - 0x1000) / 4)).toNat
  else if 0x2000 ≤ o && o < 0x3000 then half (SMap.get msixReset b.msix ((o - 0x2000) / 8))
  else if 0x3000 ≤ o && o < 0x4000 then b.pending ((o - 0x3000) / 4)
  else match o with
    | 0x00 => half capWord
    | 0x04 => half capWord
    | 0x08 => 0x00020100
    | 0x0C => b.intMask.toNat
    | 0x10 => b.intMask.toNat
    | 0x14 => b.cc.toNat
    | 0x1C => s.csts f
    | 0x24 => b.aqa.toNat
    | 0x28 => half b.asq
    | 0x2C => half b.asq
    | 0x30 => half b.acq
    | 0x34 => half b.acq
    | _ => 0

/-! ### Writing -/

/-- CC (16 R359): EN from 1 to 0 resets the controller; a shutdown by a physical function commits the roots (13 R302) and is over at once. -/
def State.writeCc (s : State) (f : FnId) (v : W32) : State :=
  let old := (s.fn f).bar0.cc
  let s1 := if old.getLsbD 0 && !v.getLsbD 0 then s.resetFns false [f] else s
  let down := bits (v.zeroExtend 64) 15 14 ≠ 0
  let s2 := if down && FnId.isPf f && s1.ftlUp then s1.commitRoot else s1
  s2.updFn f fun g => { g with bar0 := { g.bar0 with cc := v, shst := if down then 2 else 0 } }

/-- NSSR, as NVM Subsystem Reset (16 Table 16-5). -/
def State.writeNssr (s : State) (f : FnId) (v : W32) : State :=
  if v = 0x4E564D65 then
    match execNvmSubsystemReset (s.portOf f) s with
    | .next t => t
    | _ => s
  else s

/-- One half of a word. -/
def withHalf (w : Word) (high : Bool) (v : W32) : Word :=
  if high then (w &&& 0xFFFFFFFF) ||| (v.zeroExtend 64 <<< 32) else (w &&& 0xFFFFFFFF00000000) ||| v.zeroExtend 64

/-- An entry's mask bit that is cleared lets its pending message go. -/
def Bar0.setMsix (b : Bar0) (k : Nat) (high : Bool) (v : W32) : Bar0 :=
  let m := SMap.set msixReset b.msix k (withHalf (SMap.get msixReset b.msix k) high v)
  { b with msix := m, pend := if k % 2 = 1 && high && !v.getLsbD 0 then SMap.set (fun _ => false) b.pend (k / 2) false else b.pend }

/-- Registers that only hold what is written. The admin queue's are written while the controller is disabled. -/
def Bar0.write (b : Bar0) (o : Nat) (v : W32) : Bar0 :=
  let off := !b.cc.getLsbD 0
  if 0x1000 ≤ o && o < 0x2000 then { b with bells := SMap.set (fun _ => (0 : W32)) b.bells ((o - 0x1000) / 4) v }
  else if 0x2000 ≤ o && o < 0x3000 then b.setMsix ((o - 0x2000) / 8) (o % 8 = 4) v
  else match o with
    | 0x0C => { b with intMask := b.intMask ||| v }
    | 0x10 => { b with intMask := b.intMask &&& ~~~v }
    | 0x24 => if off then { b with aqa := v } else b
    | 0x28 => if off then { b with asq := withHalf b.asq false v } else b
    | 0x2C => if off then { b with asq := withHalf b.asq true v } else b
    | 0x30 => if off then { b with acq := withHalf b.acq false v } else b
    | 0x34 => if off then { b with acq := withHalf b.acq true v } else b
    | _ => b

/-- Four bytes at an offset. -/
def State.bar0Write (s : State) (f : FnId) (o : Nat) (v : W32) : State :=
  match o with
  | 0x14 => s.writeCc f v
  | 0x20 => s.writeNssr f v
  | _ => s.updFn f fun g => { g with bar0 := g.bar0.write o v }

/-! ### An access -/

/-- Bytes of a function's BAR0. -/
def bar0Size (f : FnId) : Nat := if FnId.isPf f then 0x10000 else 0x4000

/-- An aligned access of 4 or 8 bytes to a function that is present; any other size is an Unsupported Request, as for BAR2 (log 116). -/
def State.bar0Access (s : State) (f : FnId) (o size : Nat) (a : RegAccess) : State :=
  if !s.reachable f || bar0Size f < o + size then s
  else if !(size = 4 || size = 8) || o % size ≠ 0 then s.emit (.unsupportedRequest (s.portOf f))
  else match a with
    | .read => s.emit (.bar0Data f (BitVec.ofNat 64 (s.bar0Read f o + if size = 8 then put (s.bar0Read f (o + 4)) 32 else 0)))
    | .write v =>
      let t := s.bar0Write f o (BitVec.ofNat 32 (bits v 31 0))
      if size = 8 then t.bar0Write f (o + 4) (BitVec.ofNat 32 (bits v 63 32)) else t

end Sys2Proof.Machine
end

