-- ==== Sys2Proof/Machine/RegWrite.lean ====
section
/-! DEFINITION. The module register window as it is written (00 R5, R6; 16 R374, Table 16-13): each field by its access type, and the
conditions that a register's own chapter puts on a write; and an access of REGISTER_WRITE, to it or to BAR0. -/

namespace Sys2Proof.Machine

open Sys2Proof

def isMgmt (w : Requester) : Bool :=
  match w with
  | .mgmt => true
  | _ => false

/-! ### Hosts, tiles, codes (10, 11, 16) -/

/-- A weight of 0 becomes 1 (16 Table 16-16). -/
def qosWord (v : Word) : Word :=
  BitVec.ofNat 64 (put (bits v 63 32) 32 + put (max 1 (bits v 15 8)) 8 + max 1 (bits v 7 0))

def State.writeNvm (s : State) (o : Nat) (v : Word) : State :=
  if o = 0 then { s.qosRoll with qosIso := bit v 0 }
  else if 0x1000 ≤ o && o < 0x5000 && o % 0x10 = 0 then
    { s with vfQos := SMap.set vfQosReset s.vfQos ((o - 0x1000) / 0x10) (qosWord v) }
  else s

/-- HUB_TILE_CTL (10 Table 10-12). -/
def State.writeTile (s : State) (o : Nat) (v : Word) : State :=
  if o = 0 then State.writeShareEn { s with shareRef := s.w1c .shareRefused s.shareRef (bit v 1) } (bit v 0) else s

/-- 11 Table 11-6. -/
def scrubOf (v : Word) : Scrub := { enable := bit v 63, interval := BitVec.ofNat 32 (max 64 (bits v 31 0)) }

def State.writeEcc (s : State) (o : Nat) (v : Word) : State :=
  if o = 0 then { s with scrubD1 := scrubOf v }
  else if o = 8 then { s with scrubD2 := scrubOf v }
  else if o = 0x10 then { s with scrubSr := scrubOf v }
  else if 0x100 ≤ o && o < 0x130 then
    let m : Fin 3 := ⟨(o - 0x100) / 0x10 % 3, Nat.mod_lt _ (by decide)⟩
    if o % 0x10 = 0 then s.updInjectOf m fun j => { j with addr := BitVec.ofNat 48 (bits v 47 0) } else s.writeInjCtl m v
  else if 0x200 ≤ o && o < 0x280 then setD2Mark s ⟨(o - 0x200) / 8 % 16, Nat.mod_lt _ (by decide)⟩ v
  else s

/-! ### Flash and translation (12, 13) -/

def State.writeFlash (s : State) (mgmt : Bool) (o : Nat) (v : Word) : State :=
  if o = 0 then
    if bits v 31 16 < bits v 15 0 then s else { s with suspCtl := v &&& 0xFFFF0000FFFFFFFF }
  else if o = 8 then
    { s with rdCtl := BitVec.ofNat 64 (put (max 1000 (bits v 63 32)) 32 + put (bits v 23 16) 16 + max 1 (bits v 7 0)) }
  else if 0x100 ≤ o && o < 0x500 && o % 0x10 = 8 && mgmt then
    s.updChan ⟨(o - 0x108) / 0x10 % 64, Nat.mod_lt _ (by decide)⟩ fun c => { c with hold := BitVec.ofNat 15 (bits v 14 0) }
  else s

/-- FTL_CLASS_CFG(k): more bands than the unused pool holds are not reserved (13 R310). A change is committed (R302). -/
def State.writeClass (s : State) (k : Class) (v : Word) : State :=
  let others := ((List.range 4).filter (· ≠ classCode k)).foldl (fun n j => n + s.reserveOf j) 0
  if s.unusedPool < others + bits v 31 0 then s
  else
    let t : State := { s with reserve := SMap.set (fun _ => 0) s.reserve (classCode k) (BitVec.ofNat 32 (bits v 31 0)) }
    let u := if s.reserveOf (classCode k) = bits v 31 0 then t else t.commitRoot
    if bit v 32 then u.releaseBands k else u

def classNo (k : Nat) : Class :=
  match k with
  | 0 => .hot
  | 1 => .warm
  | 2 => .cold
  | _ => .frozen

/-- FTL_MEDIA_CTL (13 Table 13-11, R310). -/
def State.writeMedia (s : State) (v : Word) : State :=
  if bits v 15 8 ≤ bits v 7 0 || 100 < bits v 63 56 then s
  else { s with mediaCtl := BitVec.ofNat 64 (put (bits v 63 48) 48 + put (max 10 (bits v 31 16)) 16 + bits v 15 0) }

def State.writeFtl (s : State) (o : Nat) (v : Word) : State :=
  if o = 0 then s.writeMedia v
  else if 0x100 ≤ o && o < 0x140 && o % 0x10 = 0 then s.writeClass (classNo ((o - 0x100) / 0x10)) v
  else s

/-! ### Search and fabric (14, 18) -/

def State.writePrl (s : State) (o : Nat) (v : Word) : State :=
  if o < 0x60 then s.writePrlPart ⟨o / 8 % 12, Nat.mod_lt _ (by decide)⟩ v
  else if o = 0x100 then { s with prlMerge := bit v 0, prlRef := s.w1c .prlRefused s.prlRef (bit v 1) }
  else s

/-- FAB_CTL (18 Table 18-14). -/
def Fabric.setCtl (f : Fabric) (v : Word) : Fabric :=
  { f with
    fmFid := BitVec.ofNat 16 (bits v 63 48), fmValid := bit v 47, reqTo := BitVec.ofNat 15 (max 1 (bits v 46 32))
    putTo := BitVec.ofNat 8 (max 1 (bits v 31 24)), tsync := BitVec.ofNat 8 (bits v 23 16)
    ttl := BitVec.ofNat 6 (max 1 (bits v 13 8)), annEn := bit v 0 }

/-- Two route entries of 4 bytes (18 Table 18-6). -/
def Fabric.setRoutes (f : Fabric) (i : Nat) (v : Word) : Fabric :=
  let put1 (m : SMap W32) (k n : Nat) : SMap W32 := SMap.set (fun _ => (0 : W32)) m k (BitVec.ofNat 32 n &&& 0x83FFFFFF)
  { f with route := put1 (put1 f.route i (bits v 31 0)) (i + 1) (bits v 63 32) }

/-- FAB_INCIDENT word 3: OPEN is cleared by a 1 (18 Table 18-18). -/
def State.closeIncident (s : State) (n : Nat) (v : Word) : State :=
  { s with fab := { s.fab with incidents := SMap.upd (fun _ => ({} : Incident)) s.fab.incidents n fun x =>
    { x with opened := s.w1c (.incident n) x.opened (bit v 0) } } }

def State.setFab (s : State) (f : Fabric) : State := { s with fab := f }

def State.writeFab (s : State) (o : Nat) (v : Word) : State :=
  if o = 0 then s.setFab (s.fab.setCtl v)
  else if 0x40 ≤ o && o < 0xA0 then s.writePartGrp ⟨(o - 0x40) / 8 % 12, Nat.mod_lt _ (by decide)⟩ v
  else if o = 0x100 then s.writeCutCtl v
  else if 0x1000 ≤ o && o < 0x2000 && o % 0x20 = 0x18 then s.closeIncident ((o - 0x1000) / 0x20) v
  else if 0x10000 ≤ o && o < 0x10900 && o % 0x40 = 0 then
    let l : Fin 36 := ⟨(o - 0x10000) / 0x40 % 36, Nat.mod_lt _ (by decide)⟩
    let t := s.writeLinkEnable l (bit v 0)
    if bit v 1 then t.linkDown l else t
  else if 0x40000 ≤ o && o < 0x80000 then s.setFab (s.fab.setRoutes ((o - 0x40000) / 4) v)
  else if 0x80000 ≤ o && o < 0x100000 then
    s.setFab { s.fab with lmns := SMap.set (fun _ => (0 : Word)) s.fab.lmns ((o - 0x80000) / 8) (v &&& 0x8000FFFF0000FFFF) }
  else s

/-! ### Security, counters, power (19, 20, 21) -/

/-- SEC_CFL_CMD and SEC_CFL_BUF of the active processor (19 Tables 19-13, 19-16). -/
def State.writeSec (s : State) (mgmt : Bool) (o : Nat) (v : Word) : State :=
  let p := s.mgmt.active
  if !mgmt then s
  else if o = 0x100 then
    match bits v 1 0 with
    | 1 => s.cflStart p (bits v 63 32) 256 (.program (bits v 63 32))
    | 2 => s.cflStart p (bits v 63 32) 4096 (.erase (bits v 63 32))
    | _ => s
  else if 0x1000 ≤ o && o < 0x1100 then
    let x := s.cflProc p
    s.setCflProc p { x with buf := (List.range 8).foldl (fun m i =>
      SMap.set (fun _ => (0 : Byte)) m (o - 0x1000 + i) (BitVec.ofNat 8 (v.toNat >>> (8 * i)))) x.buf }
  else s

/-- HUB_TRACE_CTL and HUB_MGMT_STAT (20 Table 20-10). -/
def State.writeCnt (s : State) (mgmt : Bool) (o : Nat) (v : Word) : State :=
  if o = 0x10000 then
    if s.traceEn && bits v 63 48 ≠ s.traceBase.toNat then s
    else { s with traceBase := BitVec.ofNat 16 (bits v 63 48), traceMask := BitVec.ofNat 15 (bits v 15 1), traceEn := bit v 0 }
  else if o = 0x10100 && mgmt then
    { s with mgmt := { s.mgmt with
      mirrorInt := BitVec.ofNat 16 (max 10 (bits v 63 48)), beatAt := if bit v 0 then s.time else s.mgmt.beatAt } }
  else s

/-- MOD_CLK_CTL (21 Table 21-8, R485): from capped to fixed, every cluster is back at its step. -/
def State.writeClk (s : State) (v : Word) : State :=
  if bits v 63 48 < 300 || 1500 < bits v 63 48 then s
  else
    let t : State := { s with pow := { s.pow with pcap := BitVec.ofNat 16 (bits v 63 48), capped := bit v 0 } }
    if s.pow.capped && !bit v 0 then t.allAtStep else t

def State.resetBy (s : State) (w : Requester) : State :=
  match w with
  | .bar2 p => if s.ownsem = semOf p && !s.anyJob then s.moduleReset 3 true else s
  | _ => s

def State.writePow (s : State) (w : Requester) (o : Nat) (v : Word) : State :=
  if o = 0 then s.writeClk v
  else if o = 0x10 then (if bit v 0 then s.resetBy w else s)
  else if 0x100 ≤ o && o < 0x200 then s.writePwr ⟨(o - 0x100) / 8 % 32, Nat.mod_lt _ (by decide)⟩ v
  else s

/-- MOD_OWNSEM (16 R366): a write of 0 by the holder releases it. -/
def State.writeMod (s : State) (w : Requester) (o : Nat) (v : Word) : State :=
  match w with
  | .bar2 p => if o = 0x10 && s.ownsem = semOf p && bits v 1 0 = 0 then { s with ownsem := 0 } else s
  | _ => s

/-! ### The window -/

/-- A write of 8 bytes at an offset of the hub's registers. -/
def State.writeHubReg (s : State) (w : Requester) (o : Nat) (v : Word) : State :=
  if o < 0x1000 then s.writeMod w o v
  else if 0x10000 ≤ o && o < 0x20000 then s.writeNvm (o - 0x10000) v
  else if 0x200000 ≤ o && o < 0x201000 then s.writeTile (o - 0x200000) v
  else if 0x210000 ≤ o && o < 0x214000 then s.writeEcc (o - 0x210000) v
  else if 0x220000 ≤ o && o < 0x221000 then s.writeFlash (isMgmt w) (o - 0x220000) v
  else if 0x230000 ≤ o && o < 0x231000 then s.writeFtl (o - 0x230000) v
  else if 0x240000 ≤ o && o < 0x242000 then s.writePrl (o - 0x240000) v
  else if 0x300000 ≤ o && o < 0x400000 then s.writeFab (o - 0x300000) v
  else if 0x400000 ≤ o && o < 0x500000 then s.writeSec (isMgmt w) (o - 0x400000) v
  else if 0x500000 ≤ o && o < 0x600000 then s.writeCnt (isMgmt w) (o - 0x500000) v
  else if 0x600000 ≤ o && o < 0x700000 then s.writePow w (o - 0x600000) v
  else s

/-- A write of 8 bytes at an offset of the window. A core reaches its own cluster's block, as CSRW does. -/
def State.writeWindow (s : State) (w : Requester) (o : Nat) (v : Word) : State :=
  match w, blockOf o with
  | .core c, some (cl, b) => if cl = c.cl then s.csrWrite c b v else s
  | .core _, none => s
  | _, some (cl, b) => if s.mayWrite w cl false then s.whenAwake cl b v fun t => t.writeClusterReg cl (isMgmt w) b v else s
  | _, none => s.writeHubReg w o v

/-- Bits that a 1 clears, of the register at an offset; none stands above bit 31. -/
def clearBits (o : Nat) : Word :=
  match blockOf o with
  | some (_, b) => if b = 0x010 then 0xF else if b = 0x438 then 2 else 0
  | none =>
    if o = 0x200000 || o = 0x240100 then 2
    else if 0x210100 ≤ o && o < 0x210130 && o % 0x10 = 8 then 2
    else if 0x300040 ≤ o && o < 0x3000A0 then 0x10000
    else if o = 0x300100 then 4
    else if 0x301000 ≤ o && o < 0x302000 && o % 0x20 = 0x18 then 1
    else 0

/-- Registers with fields above bit 31 that can be written: bases of rings and of the request area, caps of tenants, scrub controls, error
injection, suspend and read controls, the class and media controls, FAB_CTL, the cut control, routes, logical module numbers, the
configuration flash registers, trace and management controls and the power cap. -/
def highFields (o : Nat) : Bool :=
  match blockOf o with
  | some (_, b) => b = 0x590 || match ringAt b with
    | some (_, i) => i / 8 = 0
    | none => false
  | none =>
    (0x11000 ≤ o && o < 0x15000) || (0x210000 ≤ o && o < 0x210130) || o = 0x220000 || o = 0x220008 ||
      (0x230000 ≤ o && o < 0x230140) || o = 0x300000 || o = 0x300100 || (0x340000 ≤ o && o < 0x400000) ||
      o = 0x400100 || (0x401000 ≤ o && o < 0x401100) || o = 0x510000 || o = 0x510100 || o = 0x600000

/-- A write of 4 bytes leaves the fields of the other half as they are, and acts on none of them; one of a half that holds no field is
ignored (00 R5). -/
def State.widen (s : State) (o : Nat) (v : Word) : Option Word :=
  let b := o / 8 * 8
  let old := BitVec.ofNat 64 (s.moduleReg b) &&& ~~~(clearBits b)
  if o % 8 = 0 then some ((old &&& 0xFFFFFFFF00000000) ||| (v &&& 0xFFFFFFFF))
  else if highFields b then some ((old &&& 0xFFFFFFFF) ||| (v <<< 32)) else none

/-- A write of 4 or 8 bytes, aligned. -/
def State.writeSized (s : State) (w : Requester) (o size : Nat) (v : Word) : State :=
  if size = 8 then s.writeWindow w o v
  else match s.widen o v with
    | some x => s.writeWindow w (o / 8 * 8) x
    | none => s

/-- 16 R374: aligned accesses of 4 and 8 bytes; BAR2 completes any other as Unsupported Request. -/
def State.windowAccess (s : State) (w : Requester) (o size : Nat) (a : RegAccess) : State :=
  if !(size = 4 || size = 8) || o % size ≠ 0 then
    match w with
    | .bar2 p => s.emit (.unsupportedRequest p)
    | _ => s
  else match a with
    | .write v => s.writeSized w o size v
    | .read => s.readWindow w o size

/-- A write of a register that has no row of its own, and a read of any (00 R5). -/
def execRegisterWrite (r : RegSpace) (offset : BitVec 26) (size : Nat) (a : RegAccess) (s : State) : Result :=
  .next (match r with
    | .window w => s.windowAccess w offset.toNat size a
    | .bar0 f => s.bar0Access f offset.toNat size a)

end Sys2Proof.Machine
end

