-- ==== Sys2Proof/Machine/StoreUnit.lean ====
section
/-! DEFINITION. STORE (05 Table 5-12, R506; 06 R163 to R166; 07 R174 to R180; 20 R459 to R461). -/

namespace Sys2Proof.Machine

open Sys2Proof

/-- The fields of a STORE (05 Table 5-12). -/
structure Sto where
  srcL   : Nat
  src    : Nat
  dstL   : Nat
  dst    : Nat
  scale  : Nat
  had    : Nat
  shift  : Nat
  shax   : Bool
  qturn  : Nat
  trans  : Bool
  rev1   : Bool
  rev0   : Bool
  ofmt   : Nat
  tscale : Nat
  bsdst  : Nat
deriving DecidableEq, Repr

/-- 07 Table 7-4. -/
def widened (c : Nat) : Nat :=
  match c with
  | 0 | 1 | 2 | 6 => 3
  | 3 | 4 | 5 => 8
  | _ => 0xA

/-- The fields, with OFMT widened in a re-run (07 R180). -/
def stoOf (ws : List Word) (rerun : Bool) : Sto :=
  let w1 := word ws 1
  let w2 := word ws 2
  let w3 := word ws 3
  let w4 := word ws 4
  let o := bits w3 3 0
  { srcL := bits w1 63 32, src := bits w1 31 0, dstL := bits w2 63 32, dst := bits w2 31 0
    scale := bits w3 63 32, had := bits w3 28 26, shift := bits w3 25 10, shax := bit w3 9, qturn := bits w3 8 7
    trans := bit w3 6, rev1 := bit w3 5, rev0 := bit w3 4, ofmt := if rerun && fmtAssigned o then widened o else o
    tscale := bits w4 63 32, bsdst := bits w4 31 0 }

/-- Rows and columns change places: exactly one of TRANS and an odd QTURN (06 R166). -/
def Sto.swaps (x : Sto) : Bool := x.trans != (x.qturn % 2 = 1)

/-! ### Geometry (06 R163, Table 6-5) -/

/-- The source (row, column) of output (r, c); the source is R by C. -/
def Sto.geo (x : Sto) (R C r c : Nat) : Nat × Nat :=
  let a := if x.trans then (c, r) else (r, c)
  let b := match x.qturn with
    | 0 => a
    | 1 => (R - 1 - a.2, a.1)
    | 2 => (R - 1 - a.1, C - 1 - a.2)
    | _ => (a.2, C - 1 - a.1)
  let d := if x.shax then (b.1, (b.2 + C - x.shift % C) % C) else ((b.1 + R - x.shift % R) % R, b.2)
  (if x.rev0 then R - 1 - d.1 else d.1, if x.rev1 then C - 1 - d.2 else d.2)

/-- Output rows and columns. -/
def Sto.outRows (x : Sto) (src : Layout) : Nat := if x.swaps then (src.dim 0).ext else (src.dim 1).ext
def Sto.outCols (x : Sto) (src : Layout) : Nat := if x.swaps then (src.dim 1).ext else (src.dim 0).ext

/-- 06 R164. -/
def Sto.agree (x : Sto) (src dst : Layout) : Bool :=
  src.w = 32 && dst.w = fmtWidth x.ofmt && src.dims.length = dst.dims.length && (!x.swaps || 2 ≤ src.dims.length) &&
  ((src.dims.drop 2).zip (dst.dims.drop 2)).all (fun e => e.1.ext = e.2.ext) &&
  (dst.dim 0).ext = x.outCols src && (dst.dim 1).ext = x.outRows src &&
  (x.had = 0 || x.outCols src % 2 ^ (x.had + 4) = 0)

/-- Blocks of a row (06 R165), and rows. -/
def Sto.blocks (x : Sto) (dst : Layout) : Nat := ((dst.dim 0).ext + fmtBand x.ofmt - 1) / fmtBand x.ofmt
def rowsOf (dst : Layout) : Nat := (dst.dims.drop 1).foldl (fun n d => n * d.ext) 1

/-- The footprint of the block scales. -/
def Sto.scales (x : Sto) (dst : Layout) : Nat × Nat :=
  if fmtScaled x.ofmt then (x.bsdst, rowsOf dst * x.blocks dst) else (0, 0)

/-! ### Descriptors and checks (05 R145, 06 R149 to R155) -/

/-- ESIZE code of an element width. -/
def esizeCode (w : Nat) : Nat :=
  match w with
  | 4 => 0
  | 6 => 1
  | 8 => 2
  | 16 => 3
  | _ => 4

/-- The descriptor words at a cluster address. -/
def State.descAt (s : State) (cl : Fin 32) (a : Nat) : List Word := toWords 8 (s.peekBytes (clusterAddr cl a) 64)

/-- The destination descriptor as the STORE uses it: in a re-run ESIZE is the widened format's (07 R180). -/
def Sto.dstWords (x : Sto) (ws : List Word) (rerun : Bool) : List Word :=
  if rerun then
    match ws with
    | d :: ds => BitVec.ofNat 64 (d.toNat / 8 * 8 + esizeCode (fmtWidth x.ofmt)) :: ds
    | [] => []
  else ws

def stoEarly (ws : List Word) (x : Sto) : Nat :=
  let t := f32Of x.tscale
  firstStatus
    [ wordCheck ws 5,
      chk (fmtAssigned x.ofmt && bits (word ws 3) 31 29 = 0) 0x03,
      chk (x.had < 6 && (x.ofmt ≠ 6 || (t.isFin && !t.isZero && !t.negative))) 0x08 ]

/-- Memories a STORE may write (05 Table 5-12). -/
def storable (m : ClMem) : Bool :=
  match m with
  | .weight | .act | .psum => true
  | .dmem _ => true
  | .imem _ => false

/-- The source and destination footprints and the scales', where the descriptors are valid. -/
def Sto.feet (x : Sto) (src dst : Layout) : Option ((Nat × Nat) × (Nat × Nat) × (Nat × Nat)) :=
  match src.footprint x.src, dst.footprint x.dst with
  | some a, some b => some (a, b, x.scales dst)
  | _, _ => none

def stoContents (x : Sto) (sw dw : List Word) : Bool :=
  layoutValid sw false false && layoutValid dw true false && x.agree (layoutOf sw) (layoutOf dw)

/-- Steps 5 to 8 of 05 R145 on descriptors that were read well. -/
def stoChecks (x : Sto) (sw dw : List Word) : Nat :=
  if !stoContents x sw dw then 0x04
  else
    let src := layoutOf sw
    let dst := layoutOf dw
    if x.src % 4 ≠ 0 || (dst.w ≥ 8 && x.dst % (dst.w / 8) ≠ 0) then 0x02
    else match x.feet src dst with
      | none => 0x01
      | some (a, b, c) =>
        if !inMem isPsum a || !inMem storable b || !inMem storable c then 0x01
        else if meet a b || meet c a || meet c b then 0x04
        else 0

/-- Steps 4 to 8 of 05 R145. -/
def stoLate (s : State) (cl : Fin 32) (x : Sto) (rerun : Bool) : State × Nat :=
  let st := firstStatus [layoutAddr x.srcL, layoutAddr x.dstL]
  if st ≠ 0 then (s, st)
  else
    let g1 := s.readMem (clusterAddr cl x.srcL) 64
    let g2 := g1.st.readMem (clusterAddr cl x.dstL) 64
    if g1.ues ≠ [] || g2.ues ≠ [] then (g2.st, 0x05)
    else (g2.st, stoChecks x (toWords 8 g1.data) (x.dstWords (toWords 8 g2.data) rerun))

/-- Ranges a STORE reads and writes, as far as its descriptors give them. -/
def Sto.ranges (x : Sto) (sw dw : List Word) : List (Nat × Nat) × List (Nat × Nat) :=
  let ds := [(x.srcL, 64), (x.dstL, 64)]
  if stoContents x sw dw then
    match x.feet (layoutOf sw) (layoutOf dw) with
    | some (a, b, c) => (a :: ds, [b, c])
    | none => (ds, [])
  else (ds, [])

/-- Watches armed for this STORE (20 R460, R461). -/
def State.watching (s : State) (cl : Fin 32) (tag : Half) (step : W32) : List (Fin 4) :=
  match s.partOf cl with
  | none => []
  | some p => (List.finRange 4).filter fun w =>
      match SMap.get (fun _ => none) (s.part p).watches w.val with
      | some v => v.data.symbol = tag && v.data.step = step && !v.full && v.dumps < v.data.maxDumps.toNat
      | none => false

/-- Dispatch of a STORE. -/
def execStore (cl : Fin 32) (s : State) : Result :=
  .next (s.mxDispatch cl true (fun ws => mxOp ws = 3) fun t i =>
    let x := stoOf i.ws i.rerun
    let sw := t.descAt cl x.srcL
    let dw := x.dstWords (t.descAt cl x.dstL) i.rerun
    let rs := x.ranges sw dw
    t.mxCheck cl i (stoEarly i.ws x) rs.1 rs.2 (fun u => stoLate u cl x i.rerun) fun u =>
      .start u { i.exec rs.1 rs.2 with
        ofmt := BitVec.ofNat 4 x.ofmt, srcD := sw, dstD := dw
        watch := u.watching cl (BitVec.ofNat 16 (bits (word i.ws 0) 31 16)) i.step })

/-! ### The computation -/

def chunks {α : Type} (n : Nat) (xs : List α) : List (List α) :=
  (List.range ((xs.length + n - 1) / n)).map fun i => (xs.drop (i * n)).take n

/-- All of a list, none when one is missing. -/
def allSome {α : Type} (xs : List (Option α)) : Option (List α) :=
  if xs.all (·.isSome) then some (xs.filterMap id) else none

/-- Cluster address of the source value of output (r, c) in the outer indices given. -/
def Sto.srcAddr (x : Sto) (src : Layout) (outer : List Nat) (r c : Nat) : Nat :=
  let g := x.geo (src.dim 1).ext (src.dim 0).ext r c
  let idx := if src.dims.length = 1 then [g.2] else g.2 :: g.1 :: outer
  ((8 * (x.src : Int) + src.offset idx) / 8).toNat

/-- The values of output row rho after stages 1 to 6; none where the source met an uncorrectable error. -/
def Sto.rowValues (x : Sto) (s : State) (cl : Fin 32) (ues : List Nat) (src dst : Layout) (rho : Nat) : List (Option Nat) :=
  let idx := indicesOf (dst.dims.drop 1) rho
  let ys := (List.range (dst.dim 0).ext).map fun c =>
    let a := clusterAddr cl (x.srcAddr src idx.tail (idx.headD 0) c)
    if ueIn ues (a, 4) then none else some (fmul (s.peekBits (8 * a) 32) x.scale)
  if x.had = 0 then ys
  else (chunks (2 ^ (x.had + 4)) ys).flatMap fun b =>
    match allSome b with
    | some ys => (hadBlock x.had ys).map some
    | none => b.map fun _ => none

/-- Output row rho converted: its elements with their count mark, and its block scales (07 R176, R177). -/
def Sto.rowOut (x : Sto) (zs : List (Option Nat)) : List (Option (Nat × Bool)) × List (Option Nat) :=
  if fmtScaled x.ofmt then
    let bs := (chunks (fmtBand x.ofmt) zs).map fun b =>
      match allSome b with
      | some ys => let r := convBlock x.ofmt (f32Of x.tscale) (ys.map f32Of)
                   (r.2.map some, some r.1)
      | none => (b.map fun _ => none, none)
    (bs.flatMap (·.1), bs.map (·.2))
  else (zs.map fun z => z.map (convPlain x.ofmt), [])

/-- The whole output: elements in rank order, scales in order. -/
def Sto.output (x : Sto) (s : State) (cl : Fin 32) (ues : List Nat) (src dst : Layout) :
    List (Option (Nat × Bool)) × List (Option Nat) :=
  let rows := (List.range (rowsOf dst)).map fun rho => x.rowOut (x.rowValues s cl ues src dst rho)
  (rows.flatMap (·.1), rows.flatMap (·.2))

/-- Every source element, in module-view ranges. -/
def Sto.srcReads (x : Sto) (cl : Fin 32) (src dst : Layout) : List (Nat × Nat) :=
  (List.range (rowsOf dst)).flatMap fun rho =>
    let idx := indicesOf (dst.dims.drop 1) rho
    (List.range (dst.dim 0).ext).map fun c => (clusterAddr cl (x.srcAddr src idx.tail (idx.headD 0) c), 4)

/-- Elements of the first u units whose bits begin in them (05 R506), and the ranks of every element whose source a unit needs: those of
its rotation and scale blocks too (07 R174, R176). -/
def Sto.begun (dst : Layout) (u : Nat) : Nat := min dst.count ((u * 32768 + dst.w - 1) / dst.w)

def Sto.needed (x : Sto) (dst : Layout) (u r : Nat) : Bool :=
  let cols := (dst.dim 0).ext
  let b := max (if x.had = 0 then 1 else 2 ^ (x.had + 4)) (if fmtScaled x.ofmt then fmtBand x.ofmt else 1)
  r / cols * cols + r % cols / b * b < Sto.begun dst u

/-- 4 KiB units of destination element bits (05 R506, 06 R157). -/
def unitsOf (n w : Nat) : Nat := (n * w + 32767) / 32768

/-- Elements of rank r with (r + 1) * w <= u * 32768 (05 R506). -/
def doneElems (u w : Nat) : Nat := u * 32768 / w

/-- The most units that hold no element without a result. -/
def goodUnits (w : Nat) (es : List (Option (Nat × Bool))) : Nat :=
  match es.findIdx? (·.isNone) with
  | some r => ((r + 1) * w - 1) / 32768
  | none => unitsOf es.length w

/-- Block scales whose block lies wholly among the first n elements. -/
def Sto.scaleDone (x : Sto) (dst : Layout) (n b : Nat) : Bool :=
  let cols := (dst.dim 0).ext
  let per := x.blocks dst
  b / per * cols + min cols ((b % per + 1) * fmtBand x.ofmt) ≤ n

/-- Where the element of rank r is written, and scale b. -/
def Sto.elemAt (x : Sto) (cl : Fin 32) (dst : Layout) (r v : Nat) : BitWrite :=
  ⟨((8 * (clusterAddr cl x.dst : Int)) + dst.place (dst.indices r)).toNat, dst.w, v⟩
def Sto.scaleAt (x : Sto) (cl : Fin 32) (b v : Nat) : BitWrite := ⟨8 * clusterAddr cl (x.bsdst + b), 8, v⟩

/-- The cycle, counted in read groups, in which the source of output (r, c) is read (06 R166): 512 values in row-major order, or one
word column of 32 rows, the rows of a column first (log 103). -/
def Sto.readGroup (x : Sto) (src : Layout) (outer r c : Nat) : Nat :=
  let R := (src.dim 1).ext
  let C := (src.dim 0).ext
  let g := x.geo R C r c
  if x.swaps then (outer * ((C + 15) / 16) + g.2 / 16) * ((R + 31) / 32) + g.1 / 32
  else ((outer * R + g.1) * C + g.2) / 512

/-- The group with which the element of rank r is written: the last that its rotation and scale block needs. -/
def Sto.writeGroup (x : Sto) (src dst : Layout) (r : Nat) : Nat :=
  let cols := (dst.dim 0).ext
  let rho := r / cols
  let b := max (if x.had = 0 then 1 else 2 ^ (x.had + 4)) (if fmtScaled x.ofmt then fmtBand x.ofmt else 1)
  let c0 := r % cols / b * b
  (List.range (min b (cols - c0))).foldl (fun m i =>
    max m (x.readGroup src (rho / (dst.dim 1).ext) (rho % (dst.dim 1).ext) (c0 + i))) 0

/-- What is written (05 R506), each with its write group: the first n elements and the scales of their blocks; of the rest, each
element and scale that has a result holds it or its value from before. -/
def Sto.writes (x : Sto) (cl : Fin 32) (ctr n : Nat) (src dst : Layout) (es : List (Option (Nat × Bool)))
    (ss : List (Option Nat)) : List (Nat × BitWrite) :=
  (es.zipIdx.filterMap fun e =>
    match e.1 with
    | some v => if e.2 < n || Config.freeBits ctr e.2 then
        some (x.writeGroup src dst e.2, x.elemAt cl dst e.2 v.1) else none
    | none => none) ++
  ss.zipIdx.filterMap fun b =>
    match b.1 with
    | some v => if x.scaleDone dst n b.2 || Config.freeBits ctr (es.length + b.2) then
        some (x.writeGroup src dst (b.2 / x.blocks dst * (dst.dim 0).ext + b.2 % x.blocks dst * fmtBand x.ofmt),
          x.scaleAt cl b.2 v) else none
    | none => none

/-- Each group is one write: a word that a group fills only in part is read-modified-written (06 R166, 11 R251). -/
def State.writeGroups (s : State) (ws : List (Nat × BitWrite)) : State :=
  (List.range (ws.foldl (fun m w => max m (w.1 + 1)) 0)).foldl (fun t g =>
    t.writeBits ((ws.filter fun w => w.1 = g).map (·.2))) s

/-- The layer's count grows by a STORE's count and stops at its maximum (07 R178). -/
def Guard.add (g : Guard) (e : MxExec) (n : Nat) : Guard :=
  if e.layer && g.opened then { g with count := BitVec.ofNat 32 (min (g.count.toNat + n) 0xFFFFFFFF) } else g

/-- The watch records a completed STORE calls for (20 R461). -/
def Sto.dumpList (x : Sto) (e : MxExec) (time : Word) (dst : Layout) : List Dump :=
  e.watch.map fun w =>
    { w := w, words := e.words, step := e.step, rerun := e.rerun, time := time, dstD := e.dstD
      foot := (dst.footprint x.dst).getD (0, 0), scales := x.scales dst }

/-- A STORE ends (05 R506, 07 R177, R178): units is where QUIESCE_ABORT or an uncorrectable error stops it. One that is cut short has
read the source of its units up to the cut and meets the errors there only; no element takes a value from an error it did not
meet. -/
def execStoreComplete (cl : Fin 32) (i : Fin 16) (units : Nat) (s : State) : Result :=
  match s.mxRunning cl 3 i with
  | none => .next s
  | some e =>
    let x := stoOf e.words e.rerun
    let src := layoutOf e.srcD
    let dst := layoutOf e.dstD
    let total := unitsOf dst.count dst.w
    let all := x.srcReads cl src dst
    let out := x.output s cl (s.touch all).2 src dst
    let aborted := (s.cluster cl).aborts e && units < total
    let r := s.touch (if aborted then (all.zipIdx.filter fun a => x.needed dst units a.2).map (·.1) else all)
    let u := if !r.2.isEmpty then min units (goodUnits dst.w out.1) else if aborted then units else total
    let n := if u = total then dst.count else doneElems u dst.w
    let st := if !r.2.isEmpty then 0x05 else if aborted then 0x07 else 0
    let counted := ((out.1.take n).filter fun v => v.any (·.2)).length
    let s1 := r.1.drawn.writeGroups (x.writes cl s.freeCtr n src dst out.1 out.2)
    let s2 := s1.updCluster cl fun c => { c with
      grd := c.grd.add e counted
      dumps := if st = 0 then c.dumps ++ x.dumpList e s.time dst else c.dumps }
    .next ((s2.disposeAll r.2).mxDone cl e st u (if counted ≠ 0 then 4 else 0))

/-! ### The end of a re-run (07 R179, R182) -/

/-- Every element and block scale of a STORE's destination as free values. -/
def Sto.spoil (x : Sto) (cl : Fin 32) (ctr : Nat) (dst : Layout) : List BitWrite :=
  let free (i : Nat) : Nat := ofBytes ((List.range 4).map fun b => Config.freeStream ctr (4 * i + b))
  (List.range dst.count).map (fun r => x.elemAt cl dst r (free r)) ++
    (List.range (x.scales dst).2).map fun b => x.scaleAt cl b (free (dst.count + b))

/-- The outputs of a kept command, in its own format or widened, are unspecified: free values (07 R182, log 101). -/
def State.spoilOutput (s : State) (cl : Fin 32) (ws : List Word) (rerun : Bool) : State :=
  let x := stoOf ws rerun
  let sw := s.descAt cl x.srcL
  let dw := x.dstWords (s.descAt cl x.dstL) rerun
  if mxOp ws = 3 && stoEarly ws x = 0 && stoChecks x sw dw = 0 then
    s.drawn.writeBits (x.spoil cl s.freeCtr (layoutOf dw))
  else s

/-- The completion of a closing GUARD whose layer was re-run. After a re-run that stopped on an error the outputs of the layer's
STOREs are unspecified (R182). -/
def execGuardCloseComplete (cl : Fin 32) (s : State) : Result :=
  let c := s.cluster cl
  match c.grd.closing with
  | none => .next s
  | some g =>
    if (g.rest.isEmpty || g.error ≠ 0) && c.mxExec.all (fun e => !e.rerun) && c.pstate = 0 then
      let t := if g.error = 0 then s
        else c.grd.kept.foldl (fun t k => (t.spoilOutput cl k.1 false).spoilOutput cl k.1 true) s
      .next ((t.updCluster cl (·.closeLayer true)).mxEnd cl g.words false g.error.toNat 0 1)
    else .next s

end Sys2Proof.Machine
end

