-- ==== Sys2Proof/Machine/Tap.lean ====
section
/-! DEFINITION. The debug port J3 (19 R447, R449, Table 19-18). Each command is one instruction with one scan of its data register: the
capture goes out, then the update acts. -/

namespace Sys2Proof.Machine

open Sys2Proof

/-- What a scan captured. -/
def State.tapOut (s : State) (n : Nat) : State := s.emit (.tap (BitVec.ofNat 66 n))

/-- The port is powered, and the instruction is shifted in. -/
def State.tap (s : State) (ir : Byte) (f : State → State) : Result :=
  .next (if s.pow.stage == .off then s else f { s with sec := { s.sec with tapIr := ir } })

/-! ### Instructions of every state -/

def idcode : Nat := put (Config.stepping.toNat % 16) 28 + put 0x5A54 12 + put 0x2B7 1 + 1

def execTapIdcode (s : State) : Result := s.tap 0x01 fun t => t.tapOut idcode

def execTapSample (s : State) : Result := s.tap 0x02 fun t => t.tapOut t.pow.contacts.toNat

/-- Test-Logic-Reset selects IDCODE's register, as IEEE 1149.1 has it (log 51). -/
def execTrstAssert (s : State) : Result := s.tap 0x01 fun t => t

/-! ### Debug registers: closed, they capture zeros and update nothing -/

def State.tapDebug (s : State) (ir : Byte) (f : State → State) : Result :=
  s.tap ir fun t => if t.sec.debugSt == .closed then t.tapOut 0 else f t

def execTapDbgAddr (a : BitVec 48) (s : State) : Result :=
  s.tapDebug 0x20 fun t => (t.tapOut t.sec.tapAddr.toNat).setSec { t.sec with tapAddr := a }

/-- The capture of DBG_DATA: the data of the last completed read, and ERR; no access runs across commands, so BUSY is 0. -/
def State.tapCapture (s : State) : State := s.tapOut (put (b2n s.sec.tapErr) 65 + s.sec.tapData.toNat)

/-- The access is over: DBG_ADDR moves on by 8. -/
def State.tapDone (s : State) (err : Bool) (data : Word) : State :=
  s.setSec { s.sec with tapErr := err, tapData := data, tapAddr := s.sec.tapAddr + 8 }

def regWindow : Nat := 0x30000000000
def cflWindow : Nat := 0x30100000000

/-- A word of the trace ring (20 R463). -/
def State.inTrace (s : State) (a : Nat) : Bool :=
  let b := d2Base + s.traceBase.toNat * gib
  b ≤ a && a < b + gib

/-- A cluster that sleeps wakes for an access to its window (21 R477). -/
def State.wakeFor (s : State) (a : Nat) : State :=
  match locate a with
  | .sram cl _ =>
    let c := s.cluster cl
    if c.pstate = 0 then s
    else
      let t := if c.pstate = 2 || (c.pstate = 3 && c.wakeFrom = 2) then s.zeroiseCluster cl else s
      (t.updCluster cl fun x => { x with pstate := 0, wakeFrom := 0 }).doWakeWrites cl
  | _ => s

/-- A memory read: an uncorrectable word is an error (09 R215). -/
def State.tapMem (s : State) (a : Nat) : State :=
  let t := s.wakeFor a
  match locate a with
  | .unpopulated => t.tapDone true t.sec.tapData
  | _ =>
    let g := t.readMem a 8
    if g.ues ≠ [] then g.st.tapDone true g.st.sec.tapData else g.st.tapDone false (BitVec.ofNat 64 (ofBytes g.data))

/-- 8 bytes of the configuration flash, at level 0 only. -/
def State.cflWord (s : State) (a : Nat) : Word :=
  if s.sec.level = 0 then BitVec.ofNat 64 (ofBytes ((List.range 8).map fun i => s.cflByte (a + i))) else 0

/-- A read at DBG_ADDR as the debug state allows. -/
def State.tapRead (s : State) : State :=
  let a := s.sec.tapAddr.toNat
  if a % 8 ≠ 0 then s.tapDone true s.sec.tapData
  else if regWindow ≤ a && a < regWindow + 0x4000000 then
    let r := s.windowReg .mgmt (a - regWindow)
    r.1.tapDone false r.2
  else if s.sec.debugSt == .openNi then
    if s.inTrace a then s.tapMem a else s.tapDone false 0
  else if cflWindow ≤ a && a < cflWindow + cflSize then s.tapDone false (s.cflWord (a - cflWindow))
  else s.tapMem a

def execTapDbgDataRead (s : State) : Result := s.tapDebug 0x21 fun t => t.tapCapture.tapRead

/-- A write at DBG_ADDR: OPEN_INV writes every memory and register; the configuration flash is read only (01 Table 1-5). -/
def State.tapWrite (s : State) (v : Word) : State :=
  let a := s.sec.tapAddr.toNat
  let d := s.sec.tapData
  if a % 8 ≠ 0 then s.tapDone true d
  else if s.sec.debugSt == .openNi then s.tapDone false d
  else if regWindow ≤ a && a < regWindow + 0x4000000 then (s.writeWindow .mgmt (a - regWindow) v).tapDone false d
  else match locate a with
    | .unpopulated => s.tapDone true d
    | _ => ((s.wakeFor a).writeMem a (whole (toBytes v.toNat 8))).tapDone false d

def execTapDbgDataWrite (v : Word) (s : State) : Result := s.tapDebug 0x21 fun t => t.tapCapture.tapWrite v

/-- The capture of DBG_CTL. -/
def State.tapCtl (s : State) : State := s.tapOut (put (b2n s.mgmt.halted) 2 + s.sec.debugSt.code)

def execTapDbgCtlHalt (s : State) : Result :=
  s.tapDebug 0x22 fun t =>
    let u := t.tapCtl
    if u.sec.debugSt == .openInv then { u with mgmt := { u.mgmt with halted := true } } else u

/-- Firmware runs on, with the commands that came meanwhile. -/
def execTapDbgCtlResume (s : State) : Result :=
  s.tapDebug 0x22 fun t =>
    let u := t.tapCtl
    if u.sec.debugSt == .openInv && u.mgmt.halted then
      State.runAll { u with mgmt := { u.mgmt with halted := false, beatAt := u.time } } Held.isWake
    else u

end Sys2Proof.Machine
end

