-- ==== Sys2Proof/Machine/Dispatch.lean ====
section
/-! DEFINITION. One arm per command (spec/opcode_table.json): what it does to everything but the queue. -/

namespace Sys2Proof.Machine

open Sys2Proof

def exec (i : Instr) (s : State) : Host.Outcome State Fault Refusal :=
  match i with
  | .alu c op rd ra rb => Sys2Proof.Machine.execAlu c op rd ra rb s
  | .addi c op rd ra imm => Sys2Proof.Machine.execAddi c op rd ra imm s
  | .shifti c rd ra imm => Sys2Proof.Machine.execShifti c rd ra imm s
  | .mul c op rd ra rb => Sys2Proof.Machine.execMul c op rd ra rb s
  | .div c op rd ra rb => Sys2Proof.Machine.execDiv c op rd ra rb s
  | .li32 c rd imm => Sys2Proof.Machine.execLi32 c rd imm s
  | .addi32 c rd ra imm => Sys2Proof.Machine.execAddi32 c rd ra imm s
  | .lih32 c rd ra imm => Sys2Proof.Machine.execLih32 c rd ra imm s
  | .ld c sz g rt ra imm => Sys2Proof.Machine.execLd c sz g rt ra imm s
  | .st c sz g rt ra imm => Sys2Proof.Machine.execSt c sz g rt ra imm s
  | .vld c g p pg vt ra imm => Sys2Proof.Machine.execVld c g p pg vt ra imm s
  | .vst c g p pg vt ra imm => Sys2Proof.Machine.execVst c g p pg vt ra imm s
  | .amo c op g w rd ra rb => Sys2Proof.Machine.execAmo c op g w rd ra rb s
  | .fenceFull c => Sys2Proof.Machine.execFenceFull c s
  | .fenceStore c => Sys2Proof.Machine.execFenceStore c s
  | .fenceLoad c => Sys2Proof.Machine.execFenceLoad c s
  | .fenceIfetch c => Sys2Proof.Machine.execFenceIfetch c s
  | .branch c op ra rb off => Sys2Proof.Machine.execBranch c op ra rb off s
  | .jal c rd off => Sys2Proof.Machine.execJal c rd off s
  | .jalr c rd ra imm => Sys2Proof.Machine.execJalr c rd ra imm s
  | .csrr c rd idx => Sys2Proof.Machine.execCsrr c rd idx s
  | .csrw c ra idx => Sys2Proof.Machine.execCsrw c ra idx s
  | .brk c => Sys2Proof.Machine.execBrk c s
  | .eret c => Sys2Proof.Machine.execEret c s
  | .illegal c w => Sys2Proof.Machine.execIllegal c w s
  | .vint c op sz vd va vb pr => Sys2Proof.Machine.execVint c op sz vd va vb pr s
  | .vfp c op vd va vb pr => Sys2Proof.Machine.execVfp c op vd va vb pr s
  | .vcvt c op h vd va pr => Sys2Proof.Machine.execVcvt c op h vd va pr s
  | .vcmp c op sz pd va vb pr => Sys2Proof.Machine.execVcmp c op sz pd va vb pr s
  | .vbcast c sz rs vx p pg => Sys2Proof.Machine.execVbcast c sz rs vx p pg s
  | .vextr c sz rs vx => Sys2Proof.Machine.execVextr c sz rs vx s
  | .vred c op sz rs vx p pg => Sys2Proof.Machine.execVred c op sz rs vx p pg s
  | .vperm c vd va vb pr => Sys2Proof.Machine.execVperm c vd va vb pr s
  | .pred c op rd ra rb => Sys2Proof.Machine.execPred c op rd ra rb s
  | .skdist c acc width vd va vb => Sys2Proof.Machine.execSkdist c acc width vd va vb s
  | .pqsum c acc group vd va rs => Sys2Proof.Machine.execPqsum c acc group vd va rs s
  | .ftest c rd ra rb vx => Sys2Proof.Machine.execFtest c rd ra rb vx s
  | .cqins c rd ra => Sys2Proof.Machine.execCqins c rd ra s
  | .cqpop c rd => Sys2Proof.Machine.execCqpop c rd s
  | .cqpeek c rd => Sys2Proof.Machine.execCqpeek c rd s
  | .cqmax c rd => Sys2Proof.Machine.execCqmax c rd s
  | .cqbound c rd => Sys2Proof.Machine.execCqbound c rd s
  | .cqcnt c rd => Sys2Proof.Machine.execCqcnt c rd s
  | .cqclr c => Sys2Proof.Machine.execCqclr c s
  | .cqmerge c rd ra => Sys2Proof.Machine.execCqmerge c rd ra s
  | .cqstore c rd ra => Sys2Proof.Machine.execCqstore c rd ra s
  | .ldf c g v t ra imm => Sys2Proof.Machine.execLdf c g v t ra imm s
  | .ldfe c g v t ra imm => Sys2Proof.Machine.execLdfe c g v t ra imm s
  | .stef c g v t ra imm => Sys2Proof.Machine.execStef c g v t ra imm s
  | .stf c g v t ra imm => Sys2Proof.Machine.execStf c g v t ra imm s
  | .sete c g ra imm => Sys2Proof.Machine.execSete c g ra imm s
  | .setf c g ra imm => Sys2Proof.Machine.execSetf c g ra imm s
  | .test c g t ra imm => Sys2Proof.Machine.execTest c g t ra imm s
  | .feRetry cl slot => Sys2Proof.Machine.execFeRetry cl slot s
  | .dqpush c rd ra => Sys2Proof.Machine.execDqpush c rd ra s
  | .dqpop c rd => Sys2Proof.Machine.execDqpop c rd s
  | .dqsteal c rd ra => Sys2Proof.Machine.execDqsteal c rd ra s
  | .dqcnt c rd => Sys2Proof.Machine.execDqcnt c rd s
  | .dqocc c rd ra => Sys2Proof.Machine.execDqocc c rd ra s
  | .stealHeldServe cl thief => Sys2Proof.Machine.execStealHeldServe cl thief s
  | .dequePushVisible c => Sys2Proof.Machine.execDequePushVisible c s
  | .waitev c rd ra => Sys2Proof.Machine.execWaitev c rd ra s
  | .waitevWake c => Sys2Proof.Machine.execWaitevWake c s
  | .waitevTimeout c => Sys2Proof.Machine.execWaitevTimeout c s
  | .evsig c => Sys2Proof.Machine.execEvsig c s
  | .evclr c => Sys2Proof.Machine.execEvclr c s
  | .tissue c vx n => Sys2Proof.Machine.execTissue c vx n s
  | .loadReturn c j => Sys2Proof.Machine.execLoadReturn c j s
  | .storeTakesEffect c j => Sys2Proof.Machine.execStoreTakesEffect c j s
  | .run w c => Sys2Proof.Machine.execRun w c s
  | .halt w c => Sys2Proof.Machine.execHalt w c s
  | .restart w c => Sys2Proof.Machine.execRestart w c s
  | .coreHaltComplete c => Sys2Proof.Machine.execCoreHaltComplete c s
  | .quiesce w cl => Sys2Proof.Machine.execQuiesce w cl s
  | .quiesceAbort w cl => Sys2Proof.Machine.execQuiesceAbort w cl s
  | .quiesceClear w cl => Sys2Proof.Machine.execQuiesceClear w cl s
  | .mxcResume w cl => Sys2Proof.Machine.execMxcResume w cl s
  | .mxcFlush w cl => Sys2Proof.Machine.execMxcFlush w cl s
  | .mxcNop cl => Sys2Proof.Machine.execMxcNop cl s
  | .matmul cl => Sys2Proof.Machine.execMatmul cl s
  | .matmulComplete cl j steps => Sys2Proof.Machine.execMatmulComplete cl j steps s
  | .form cl => Sys2Proof.Machine.execForm cl s
  | .store cl => Sys2Proof.Machine.execStore cl s
  | .storeComplete cl j units => Sys2Proof.Machine.execStoreComplete cl j units s
  | .sftab cl => Sys2Proof.Machine.execSftab cl s
  | .sfeFunction cl => Sys2Proof.Machine.execSfeFunction cl s
  | .sfeSoftmax cl => Sys2Proof.Machine.execSfeSoftmax cl s
  | .sfeRmsNormalisation cl => Sys2Proof.Machine.execSfeRmsNormalisation cl s
  | .sfeLayerNormalisation cl => Sys2Proof.Machine.execSfeLayerNormalisation cl s
  | .sfeComplete cl j rows => Sys2Proof.Machine.execSfeComplete cl j rows s
  | .guardOpen cl => Sys2Proof.Machine.execGuardOpen cl s
  | .guardClose cl => Sys2Proof.Machine.execGuardClose cl s
  | .guardCloseComplete cl => Sys2Proof.Machine.execGuardCloseComplete cl s
  | .ringTailWrite w cl r v => Sys2Proof.Machine.execRingTailWrite w cl r v s
  | .ringBaseSizeWrite w cl r isSize v => Sys2Proof.Machine.execRingBaseSizeWrite w cl r isSize v s
  | .tmCopy cl q units => Sys2Proof.Machine.execTmCopy cl q units s
  | .tmXform cl q units => Sys2Proof.Machine.execTmXform cl q units s
  | .tmFill cl q units => Sys2Proof.Machine.execTmFill cl q units s
  | .tmNop cl q => Sys2Proof.Machine.execTmNop cl q s
  | .tilePin cl q units => Sys2Proof.Machine.execTilePin cl q units s
  | .tileUnpin cl q => Sys2Proof.Machine.execTileUnpin cl q s
  | .tmDescriptorComplete cl q => Sys2Proof.Machine.execTmDescriptorComplete cl q s
  | .promotionComplete e => Sys2Proof.Machine.execPromotionComplete e s
  | .healComplete e => Sys2Proof.Machine.execHealComplete e s
  | .commitRecord cl => Sys2Proof.Machine.execCommitRecord cl s
  | .commitComplete cl => Sys2Proof.Machine.execCommitComplete cl s
  | .requestAged c kind j => Sys2Proof.Machine.execRequestAged c kind j s
  | .correctedWordWriteback cl addr => Sys2Proof.Machine.execCorrectedWordWriteback cl addr s
  | .zeroise w cl => Sys2Proof.Machine.execZeroise w cl s
  | .zeroiseComplete cl => Sys2Proof.Machine.execZeroiseComplete cl s
  | .patrolScrubRead u => Sys2Proof.Machine.execPatrolScrubRead u s
  | .hubD2MarkWrite w g v => Sys2Proof.Machine.execHubD2MarkWrite w g v s
  | .injectionArm w m v => Sys2Proof.Machine.execInjectionArm w m v s
  | .enrolOwner h sg hash => Sys2Proof.Machine.execEnrolOwner h sg hash s
  | .revokeOwner h sg slot => Sys2Proof.Machine.execRevokeOwner h sg slot s
  | .setLevelRaise h sg => Sys2Proof.Machine.execSetLevelRaise h sg s
  | .setLevel2 h sg => Sys2Proof.Machine.execSetLevel2 h sg s
  | .setLevelLower h sg => Sys2Proof.Machine.execSetLevelLower h sg s
  | .getNonce h => Sys2Proof.Machine.execGetNonce h s
  | .debugOpen h sg invasive => Sys2Proof.Machine.execDebugOpen h sg invasive s
  | .debugClose h => Sys2Proof.Machine.execDebugClose h s
  | .setPolicy h sg fabOwner ownerFw => Sys2Proof.Machine.execSetPolicy h sg fabOwner ownerFw s
  | .otpWrite h sg word v lock => Sys2Proof.Machine.execOtpWrite h sg word v lock s
  | .keyPerIoInject h tag clear => Sys2Proof.Machine.execKeyPerIoInject h tag clear s
  | .tcgOpalCommand h nsid m => Sys2Proof.Machine.execTcgOpalCommand h nsid m s
  | .dieRead pg x => Sys2Proof.Machine.execDieRead pg x s
  | .suspendEntered d => Sys2Proof.Machine.execSuspendEntered d s
  | .dieResume d => Sys2Proof.Machine.execDieResume d s
  | .readSenseComplete d plane => Sys2Proof.Machine.execReadSenseComplete d plane s
  | .ldpcSlot e => Sys2Proof.Machine.execLdpcSlot e s
  | .ldpcPassComplete e bitErrors => Sys2Proof.Machine.execLdpcPassComplete e bitErrors s
  | .readRecovery pg cw ok => Sys2Proof.Machine.execReadRecovery pg cw ok s
  | .crossDieRebuildComplete pg cw => Sys2Proof.Machine.execCrossDieRebuildComplete pg cw s
  | .stripeProgram g k => Sys2Proof.Machine.execStripeProgram g k s
  | .dieProgram d => Sys2Proof.Machine.execDieProgram d s
  | .programComplete d ok => Sys2Proof.Machine.execProgramComplete d ok s
  | .dieErase d planes block => Sys2Proof.Machine.execDieErase d planes block s
  | .eraseComplete d ok => Sys2Proof.Machine.execEraseComplete d ok s
  | .suspLimitReached d => Sys2Proof.Machine.execSuspLimitReached d s
  | .holdWrite w ch v => Sys2Proof.Machine.execHoldWrite w ch v s
  | .blockScan d plane block worst => Sys2Proof.Machine.execBlockScan d plane block worst s
  | .refresh d plane block => Sys2Proof.Machine.execRefresh d plane block s
  | .dieStatusTimeout d => Sys2Proof.Machine.execDieStatusTimeout d s
  | .blockRetireLimit d => Sys2Proof.Machine.execBlockRetireLimit d s
  | .channelTrainingFailed ch => Sys2Proof.Machine.execChannelTrainingFailed ch s
  | .relocation pg => Sys2Proof.Machine.execRelocation pg s
  | .reclaim g => Sys2Proof.Machine.execReclaim g s
  | .writeDataResume => Sys2Proof.Machine.execWriteDataResume s
  | .rootCommit => Sys2Proof.Machine.execRootCommit s
  | .journalBoundReached => Sys2Proof.Machine.execJournalBoundReached s
  | .holdupMeasure tenthsMs => Sys2Proof.Machine.execHoldupMeasure tenthsMs s
  | .hmbSuspend => Sys2Proof.Machine.execHmbSuspend s
  | .mainInputLoss step4Done => Sys2Proof.Machine.execMainInputLoss step4Done s
  | .mainInputReturn => Sys2Proof.Machine.execMainInputReturn s
  | .auxInputLoss => Sys2Proof.Machine.execAuxInputLoss s
  | .sanitizeBlockErase h => Sys2Proof.Machine.execSanitizeBlockErase h s
  | .sanitizeCryptoErase h => Sys2Proof.Machine.execSanitizeCryptoErase h s
  | .sanitizeExitFailureMode h => Sys2Proof.Machine.execSanitizeExitFailureMode h s
  | .sanitizeProgressCommit => Sys2Proof.Machine.execSanitizeProgressCommit s
  | .sanitizeComplete => Sys2Proof.Machine.execSanitizeComplete s
  | .ftlClassRelease w k => Sys2Proof.Machine.execFtlClassRelease w k s
  | .ctxLoad cl => Sys2Proof.Machine.execCtxLoad cl s
  | .pageScan cl => Sys2Proof.Machine.execPageScan cl s
  | .unitRead cl => Sys2Proof.Machine.execUnitRead cl s
  | .ixrNop cl => Sys2Proof.Machine.execIxrNop cl s
  | .indexReadComplete cl j => Sys2Proof.Machine.execIndexReadComplete cl j s
  | .prlPartCtxWrite w p v => Sys2Proof.Machine.execPrlPartCtxWrite w p v s
  | .shareEnWrite w en => Sys2Proof.Machine.execShareEnWrite w en s
  | .ftxPut cl => Sys2Proof.Machine.execFtxPut cl s
  | .ftxRequest cl => Sys2Proof.Machine.execFtxRequest cl s
  | .ftxNop cl => Sys2Proof.Machine.execFtxNop cl s
  | .nvmRead h nsid slba x => Sys2Proof.Machine.execNvmRead h nsid slba x s
  | .nvmWrite h nsid slba ph data => Sys2Proof.Machine.execNvmWrite h nsid slba ph data s
  | .nvmFlush h nsid => Sys2Proof.Machine.execNvmFlush h nsid s
  | .writeZeroes h nsid slba nlb => Sys2Proof.Machine.execWriteZeroes h nsid slba nlb s
  | .datasetManagement h nsid ranges => Sys2Proof.Machine.execDatasetManagement h nsid ranges s
  | .unsupportedCommand h opcode => Sys2Proof.Machine.execUnsupportedCommand h opcode s
  | .identify h cns nsid => Sys2Proof.Machine.execIdentify h cns nsid s
  | .getFeatures h fid nsid cdw11 => Sys2Proof.Machine.execGetFeatures h fid nsid cdw11 s
  | .setFeatures h fid nsid cdw11 x => Sys2Proof.Machine.execSetFeatures h fid nsid cdw11 x s
  | .tensorWatchArm h cdw11 data => Sys2Proof.Machine.execTensorWatchArm h cdw11 data s
  | .getLogPage h lid index => Sys2Proof.Machine.execGetLogPage h lid index s
  | .createIoSq h qid size cqid => Sys2Proof.Machine.execCreateIoSq h qid size cqid s
  | .createIoCq h qid size vector => Sys2Proof.Machine.execCreateIoCq h qid size vector s
  | .deleteIoSq h qid => Sys2Proof.Machine.execDeleteIoSq h qid s
  | .deleteIoCq h qid => Sys2Proof.Machine.execDeleteIoCq h qid s
  | .abort h sq cid => Sys2Proof.Machine.execAbort h sq cid s
  | .asynchronousEventRequest h => Sys2Proof.Machine.execAsynchronousEventRequest h s
  | .keepAlive h => Sys2Proof.Machine.execKeepAlive h s
  | .namespaceManagement h a => Sys2Proof.Machine.execNamespaceManagement h a s
  | .namespaceAttachment h nsid attach target => Sys2Proof.Machine.execNamespaceAttachment h nsid attach target s
  | .formatNvm h nsid ses => Sys2Proof.Machine.execFormatNvm h nsid ses s
  | .firmwareImageDownload h img => Sys2Proof.Machine.execFirmwareImageDownload h img s
  | .firmwareCommit h activate => Sys2Proof.Machine.execFirmwareCommit h activate s
  | .virtualizationManagement h t a => Sys2Proof.Machine.execVirtualizationManagement h t a s
  | .directiveSend h nsid enable => Sys2Proof.Machine.execDirectiveSend h nsid enable s
  | .directiveReceive h nsid => Sys2Proof.Machine.execDirectiveReceive h nsid s
  | .memoryRangeSetManagement h a => Sys2Proof.Machine.execMemoryRangeSetManagement h a s
  | .memoryRead h id offset len => Sys2Proof.Machine.execMemoryRead h id offset len s
  | .memoryWrite h id offset data => Sys2Proof.Machine.execMemoryWrite h id offset data s
  | .memoryCopy h src dst units => Sys2Proof.Machine.execMemoryCopy h src dst units s
  | .loadProgram h p cdw13 sigVerifies image => Sys2Proof.Machine.execLoadProgram h p cdw13 sigVerifies image s
  | .programActivate h p => Sys2Proof.Machine.execProgramActivate h p s
  | .programDeactivate h p => Sys2Proof.Machine.execProgramDeactivate h p s
  | .executeProgram h p request => Sys2Proof.Machine.execExecuteProgram h p request s
  | .requestSlotAssign p => Sys2Proof.Machine.execRequestSlotAssign p s
  | .cluReqDone c v => Sys2Proof.Machine.execCluReqDone c v s
  | .requestAreaWrite c isCtl v => Sys2Proof.Machine.execRequestAreaWrite c isCtl v s
  | .partitionConfigureSet h p r => Sys2Proof.Machine.execPartitionConfigureSet h p r s
  | .partitionConfigureClear h p => Sys2Proof.Machine.execPartitionConfigureClear h p s
  | .partitionArbitrationSet h r => Sys2Proof.Machine.execPartitionArbitrationSet h r s
  | .bindingSet h p slot b => Sys2Proof.Machine.execBindingSet h p slot b s
  | .jobControlVacate h p nsid lba => Sys2Proof.Machine.execJobControlVacate h p nsid lba s
  | .jobControlRestore h p nsid lba => Sys2Proof.Machine.execJobControlRestore h p nsid lba s
  | .jobControlKill h p => Sys2Proof.Machine.execJobControlKill h p s
  | .fabricIdentity h fid lmn epoch => Sys2Proof.Machine.execFabricIdentity h fid lmn epoch s
  | .jobEnd p cause => Sys2Proof.Machine.execJobEnd p cause s
  | .jobEndDrained p => Sys2Proof.Machine.execJobEndDrained p s
  | .partitionFault p => Sys2Proof.Machine.execPartitionFault p s
  | .moduleFault f => Sys2Proof.Machine.execModuleFault f s
  | .interferenceWindowEnd p => Sys2Proof.Machine.execInterferenceWindowEnd p s
  | .qosWindowEnd => Sys2Proof.Machine.execQosWindowEnd s
  | .rangeLockGrant => Sys2Proof.Machine.execRangeLockGrant s
  | .controllerReset f => Sys2Proof.Machine.execControllerReset f s
  | .vfFunctionLevelReset t => Sys2Proof.Machine.execVfFunctionLevelReset t s
  | .pfFunctionLevelReset p => Sys2Proof.Machine.execPfFunctionLevelReset p s
  | .portReset p linkDown => Sys2Proof.Machine.execPortReset p linkDown s
  | .perstRelease p x16Sel => Sys2Proof.Machine.execPerstRelease p x16Sel s
  | .nvmSubsystemReset p => Sys2Proof.Machine.execNvmSubsystemReset p s
  | .ownsemRead p => Sys2Proof.Machine.execOwnsemRead p s
  | .ownsemRelease p v => Sys2Proof.Machine.execOwnsemRelease p v s
  | .ownsemLinkDownRelease => Sys2Proof.Machine.execOwnsemLinkDownRelease s
  | .doorbellPush cl kind payload => Sys2Proof.Machine.execDoorbellPush cl kind payload s
  | .spillPop c rd => Sys2Proof.Machine.execSpillPop c rd s
  | .spillRefill cl => Sys2Proof.Machine.execSpillRefill cl s
  | .apstIdleTimeout p => Sys2Proof.Machine.execApstIdleTimeout p s
  | .powerStateEntryComplete => Sys2Proof.Machine.execPowerStateEntryComplete s
  | .powerStateExit wk => Sys2Proof.Machine.execPowerStateExit wk s
  | .powerStateExitComplete => Sys2Proof.Machine.execPowerStateExitComplete s
  | .linkTrainingStart l => Sys2Proof.Machine.execLinkTrainingStart l s
  | .linkTrained l => Sys2Proof.Machine.execLinkTrained l s
  | .linkTrainingTimeout l => Sys2Proof.Machine.execLinkTrainingTimeout l s
  | .initFlitReceived l fl => Sys2Proof.Machine.execInitFlitReceived l fl s
  | .linkKeysSet l => Sys2Proof.Machine.execLinkKeysSet l s
  | .linkLossOfLock l => Sys2Proof.Machine.execLinkLossOfLock l s
  | .linkFailed l => Sys2Proof.Machine.execLinkFailed l s
  | .linkRetrain w l => Sys2Proof.Machine.execLinkRetrain w l s
  | .linkEnableWrite w l en => Sys2Proof.Machine.execLinkEnableWrite w l en s
  | .flitReceive l fl => Sys2Proof.Machine.execFlitReceive l fl s
  | .nakReplay l ack => Sys2Proof.Machine.execNakReplay l ack s
  | .replayLimit l => Sys2Proof.Machine.execReplayLimit l s
  | .packetRoute l => Sys2Proof.Machine.execPacketRoute l s
  | .probeSend l => Sys2Proof.Machine.execProbeSend l s
  | .probeReceive l pk => Sys2Proof.Machine.execProbeReceive l pk s
  | .announceReceive l pk => Sys2Proof.Machine.execAnnounceReceive l pk s
  | .putPacketReceive pk => Sys2Proof.Machine.execPutPacketReceive pk s
  | .putAckReceive pk => Sys2Proof.Machine.execPutAckReceive pk s
  | .putResend id k => Sys2Proof.Machine.execPutResend id k s
  | .putTimeout id => Sys2Proof.Machine.execPutTimeout id s
  | .trackerEntryExpire src id => Sys2Proof.Machine.execTrackerEntryExpire src id s
  | .requestPacketReceive pk => Sys2Proof.Machine.execRequestPacketReceive pk s
  | .responsePacketReceive pk => Sys2Proof.Machine.execResponsePacketReceive pk s
  | .requestTimeout id => Sys2Proof.Machine.execRequestTimeout id s
  | .fabPartGrpWrite w p v => Sys2Proof.Machine.execFabPartGrpWrite w p v s
  | .cutGo w v => Sys2Proof.Machine.execCutGo w v s
  | .cutResumeWrite w v => Sys2Proof.Machine.execCutResumeWrite w v s
  | .cutReceive l pk => Sys2Proof.Machine.execCutReceive l pk s
  | .cutAckReceive l pk => Sys2Proof.Machine.execCutAckReceive l pk s
  | .cutDoneReceive l pk => Sys2Proof.Machine.execCutDoneReceive l pk s
  | .cutLocallyDone slot => Sys2Proof.Machine.execCutLocallyDone slot s
  | .cutResumeReceive l pk => Sys2Proof.Machine.execCutResumeReceive l pk s
  | .faultReportReceive l pk => Sys2Proof.Machine.execFaultReportReceive l pk s
  | .faultWindowEnd => Sys2Proof.Machine.execFaultWindowEnd s
  | .timesyncSend l => Sys2Proof.Machine.execTimesyncSend l s
  | .timesyncReceive l pk => Sys2Proof.Machine.execTimesyncReceive l pk s
  | .keyUpdate l => Sys2Proof.Machine.execKeyUpdate l s
  | .spdmSessionRetry l accepted => Sys2Proof.Machine.execSpdmSessionRetry l accepted s
  | .getVersion v => Sys2Proof.Machine.execGetVersion v s
  | .getCapabilities v => Sys2Proof.Machine.execGetCapabilities v s
  | .negotiateAlgorithms v => Sys2Proof.Machine.execNegotiateAlgorithms v s
  | .getDigests v => Sys2Proof.Machine.execGetDigests v s
  | .getCertificate v slot offset len => Sys2Proof.Machine.execGetCertificate v slot offset len s
  | .challenge v slot nonce => Sys2Proof.Machine.execChallenge v slot nonce s
  | .getMeasurements v index => Sys2Proof.Machine.execGetMeasurements v index s
  | .keyExchange v reqSession => Sys2Proof.Machine.execKeyExchange v reqSession s
  | .finish v verifies => Sys2Proof.Machine.execFinish v verifies s
  | .spdmKeyUpdate v => Sys2Proof.Machine.execSpdmKeyUpdate v s
  | .heartbeat v => Sys2Proof.Machine.execHeartbeat v s
  | .endSession v => Sys2Proof.Machine.execEndSession v s
  | .loweringEraseComplete => Sys2Proof.Machine.execLoweringEraseComplete s
  | .nonceExpiry nonce => Sys2Proof.Machine.execNonceExpiry nonce s
  | .cflProgram proc addr => Sys2Proof.Machine.execCflProgram proc addr s
  | .cflErase proc addr => Sys2Proof.Machine.execCflErase proc addr s
  | .cflOperationComplete bank verified => Sys2Proof.Machine.execCflOperationComplete bank verified s
  | .tapIdcode => Sys2Proof.Machine.execTapIdcode s
  | .tapSample => Sys2Proof.Machine.execTapSample s
  | .tapDbgAddr a => Sys2Proof.Machine.execTapDbgAddr a s
  | .tapDbgDataRead => Sys2Proof.Machine.execTapDbgDataRead s
  | .tapDbgDataWrite v => Sys2Proof.Machine.execTapDbgDataWrite v s
  | .tapDbgCtlHalt => Sys2Proof.Machine.execTapDbgCtlHalt s
  | .tapDbgCtlResume => Sys2Proof.Machine.execTapDbgCtlResume s
  | .trstAssert => Sys2Proof.Machine.execTrstAssert s
  | .counterSnapshotWindow => Sys2Proof.Machine.execCounterSnapshotWindow s
  | .cluStepWrite c v => Sys2Proof.Machine.execCluStepWrite c v s
  | .tensorWatchDump cl w => Sys2Proof.Machine.execTensorWatchDump cl w s
  | .cluTraceWrite c v => Sys2Proof.Machine.execCluTraceWrite c v s
  | .mgmtHeartbeat proc => Sys2Proof.Machine.execMgmtHeartbeat proc s
  | .mgmtTakeover memError => Sys2Proof.Machine.execMgmtTakeover memError s
  | .standbyFailure => Sys2Proof.Machine.execStandbyFailure s
  | .mirrorWrite => Sys2Proof.Machine.execMirrorWrite s
  | .powerOn => Sys2Proof.Machine.execPowerOn s
  | .firmwareVerify => Sys2Proof.Machine.execFirmwareVerify s
  | .recoveryImage img => Sys2Proof.Machine.execRecoveryImage img s
  | .storageDomainPowerUp => Sys2Proof.Machine.execStorageDomainPowerUp s
  | .d2TrainingDone => Sys2Proof.Machine.execD2TrainingDone s
  | .d2FillDone => Sys2Proof.Machine.execD2FillDone s
  | .ftlRootsLoaded => Sys2Proof.Machine.execFtlRootsLoaded s
  | .d1TrainingDone => Sys2Proof.Machine.execD1TrainingDone s
  | .d1FillDone => Sys2Proof.Machine.execD1FillDone s
  | .nvmeReady => Sys2Proof.Machine.execNvmeReady s
  | .computeReady => Sys2Proof.Machine.execComputeReady s
  | .resetPin nanoseconds => Sys2Proof.Machine.execResetPin nanoseconds s
  | .moduleResetWrite w => Sys2Proof.Machine.execModuleResetWrite w s
  | .clusterGate cl => Sys2Proof.Machine.execClusterGate cl s
  | .clusterPowerOff cl => Sys2Proof.Machine.execClusterPowerOff cl s
  | .clusterWake cl => Sys2Proof.Machine.execClusterWake cl s
  | .clusterWakeComplete cl => Sys2Proof.Machine.execClusterWakeComplete cl s
  | .clusterStepWrite w cl v => Sys2Proof.Machine.execClusterStepWrite w cl v s
  | .powerCapWindowEnd watts => Sys2Proof.Machine.execPowerCapWindowEnd watts s
  | .thermalThrottle celsius => Sys2Proof.Machine.execThermalThrottle celsius s
  | .thermalRecover celsius => Sys2Proof.Machine.execThermalRecover celsius s
  | .thermalTrip celsius => Sys2Proof.Machine.execThermalTrip celsius s
  | .receptacleModuleInsert r tenthsWatt => Sys2Proof.Machine.execReceptacleModuleInsert r tenthsWatt s
  | .nvmeMiMessage led => Sys2Proof.Machine.execNvmeMiMessage led s
  | .registerWrite r offset size a => Sys2Proof.Machine.execRegisterWrite r offset size a s
  | .dieTimeTurn d => Sys2Proof.Machine.execDieTimeTurn d s
  | .pcieLinkUp p => Sys2Proof.Machine.execPcieLinkUp p s

end Sys2Proof.Machine
end

