-- ==== Sys2Proof/Machine/Tick.lean ====
section
/-! DEFINITION. One tick of time with no command waiting (00 R7; log 4). -/

namespace Sys2Proof.Machine

open Sys2Proof

/-- A core's share of a cycle: CLU_CYCLE counts in RUNNING and WAITING (03 Table 3-10). -/
def Core.tick (k : Core) : Core :=
  if k.mode = .running ∨ k.mode = .waiting then { k with cycles := k.cycles + 1 } else k

/-- Some core of the cluster is RUNNING. -/
def State.clusterRuns (s : State) (cl : Fin 32) : Bool := s.cores.any fun e => e.1 / 128 == cl.val && e.2.mode == .running

/-- HUB_PCNT(p, 0) counts the cluster cycles with at least one core RUNNING (20 R457, Table 20-2). -/
def State.countCycles (s : State) : State :=
  (List.finRange 32).foldl (fun (t : State) cl => if s.clusterRuns cl then t.count (s.partOf cl) 0 1 else t) s

/-- Module time moves on by one tick and every clock by one cycle; nothing else happens without a command (log 4). -/
def tick (s : State) : State :=
  { s.countCycles with
    time := s.time + 1
    cycle := s.cycle + 1
    cores := s.cores.map fun e => (e.1, Core.tick e.2) }

end Sys2Proof.Machine
end

