-- ==== Sys2Proof/Certificates/Slice0/Obligations.lean ====
section
/-! DEFINITION. The statements for the provers. What a statement says of an instruction of a sliver core holds once the core issues
it (Claims.ready); the state after its fetch is Claims.fetched, which differs from the state before only by what reading the
instruction word does to the error counters. -/

namespace Sys2Proof.Claims

open Sys2Proof Sys2Proof.Machine

/-! ### Sliver instructions -/

/-- The state once the n bytes of the instruction at the core's PC are read. -/
def fetched (s : State) (c : CoreId) (n : Nat) : State := (s.readMem (clusterAddr c.cl (s.core c).pc.toNat) n).st

/-- Core c issues an instruction of n bytes at its PC now: it runs, its PC lies in its instruction memory, the word reads without
an uncorrectable error (02 R33, R34), and no register named awaits a load. -/
def ready (s : State) (c : CoreId) (n : Nat) (regs : List Reg) : Bool :=
  s.issues c && fetchable c (s.core c).pc && (n == 4 || fetchable c ((s.core c).pc + 4)) &&
    (s.readMem (clusterAddr c.cl (s.core c).pc.toNat) n).ues.isEmpty && regs.all fun r => !(s.core c).awaits r

/-- t is s but for core c, which is k. -/
def onlyCore (s t : State) (c : CoreId) (k : Core) : Prop :=
  t.core c = k ∧ (∀ d, d ≠ c → t.core d = s.core d) ∧ { t with cores := s.cores } = s

/-- An instruction of n bytes completed and did nothing but change its core to k, which then moved on. -/
def completed (s t : State) (c : CoreId) (n : Nat) (k : Core) : Prop :=
  onlyCore s t c { k with pc := k.pc + BitVec.ofNat 32 n, retired := k.retired + 1 }

/-- Table 3-4, major 0x01, on mathematical integers: v is the result of op on a and b. -/
def aluMeans (op : AluOp) (a b v : Word) : Prop :=
  let n := b.toNat % 64
  match op with
  | .add => v.toNat = (a.toNat + b.toNat) % 2 ^ 64
  | .sub => v.toNat = (a.toNat + (2 ^ 64 - b.toNat)) % 2 ^ 64
  | .and => ∀ i, v.getLsbD i = (a.getLsbD i && b.getLsbD i)
  | .or => ∀ i, v.getLsbD i = (a.getLsbD i || b.getLsbD i)
  | .xor => ∀ i, v.getLsbD i = (a.getLsbD i != b.getLsbD i)
  | .sll => v.toNat = a.toNat * 2 ^ n % 2 ^ 64
  | .srl => v.toNat = a.toNat / 2 ^ n
  | .sra => v.toInt = a.toInt / 2 ^ n
  | .ror => ∀ i, i < 64 → v.getLsbD i = a.getLsbD ((i + n) % 64)
  | .slt => v = if a.toInt < b.toInt then 1 else 0
  | .sltu => v = if a.toNat < b.toNat then 1 else 0
  | .min => v.toInt = min a.toInt b.toInt
  | .max => v.toInt = max a.toInt b.toInt
  | .minu => v.toNat = min a.toNat b.toNat
  | .maxu => v.toNat = max a.toNat b.toNat
  | .clz => v.toNat ≤ 64 ∧ (∀ i, 64 - v.toNat ≤ i → a.getLsbD i = false) ∧ (v.toNat < 64 → a.getLsbD (63 - v.toNat) = true)
  | .ctz => v.toNat ≤ 64 ∧ (∀ i, i < v.toNat → a.getLsbD i = false) ∧ (v.toNat < 64 → a.getLsbD v.toNat = true)
  | .popc => v.toNat = ((List.range 64).filter fun i => a.getLsbD i).length

/-- Table 3-5, majors 0x02 to 0x07, on mathematical integers. -/
def immMeans (op : ImmOp) (a : Word) (imm : BitVec 16) (v : Word) : Prop :=
  match op with
  | .addi => v.toNat = ((a.toNat : Int) + imm.toInt + 2 ^ 64).toNat % 2 ^ 64
  | .andi => ∀ i, i < 64 → v.getLsbD i = (a.getLsbD i && imm.getLsbD (min i 15))
  | .ori => ∀ i, i < 64 → v.getLsbD i = (a.getLsbD i || imm.getLsbD i)
  | .xori => ∀ i, i < 64 → v.getLsbD i = (a.getLsbD i != imm.getLsbD i)
  | .slti => v = if a.toInt < imm.toInt then 1 else 0
  | .sltiu => v = if a.toNat < (imm.toInt % 2 ^ 64).toNat then 1 else 0

/-- SHIFTI by the fields of imm16 (Table 3-5). -/
def shiftMeans (a : Word) (imm : BitVec 16) (v : Word) : Prop :=
  let n := imm.toNat % 64
  match imm.toNat / 64 % 4 with
  | 0 => v.toNat = a.toNat * 2 ^ n % 2 ^ 64
  | 1 => v.toNat = a.toNat / 2 ^ n
  | 2 => v.toInt = a.toInt / 2 ^ n
  | _ => ∀ i, i < 64 → v.getLsbD i = a.getLsbD ((i + n) % 64)

/-- Table 3-4, major 0x09, FUNC 0 to 2: the low half, or the high half of the signed or unsigned product. -/
def mulMeans (op : MulOp) (a b v : Word) : Prop :=
  match op with
  | .mul => v.toNat = a.toNat * b.toNat % 2 ^ 64
  | .mulh => v.toInt = a.toInt * b.toInt / 2 ^ 64
  | .mulhu => v.toNat = a.toNat * b.toNat / 2 ^ 64

/-- Table 3-4 and R75: quotient q and remainder r with a = q * b + r, truncated toward zero; the corners as R75 names them. -/
def divMeans (op : DivOp) (a b v : Word) : Prop :=
  match op with
  | .div =>
    if b = 0 then v.toNat = 0xFFFFFFFFFFFFFFFF
    else if a.toInt = -2 ^ 63 ∧ b.toInt = -1 then v.toInt = -2 ^ 63
    else v.toInt = a.toInt.tdiv b.toInt
  | .rem =>
    if b = 0 then v = a
    else if a.toInt = -2 ^ 63 ∧ b.toInt = -1 then v = 0
    else v.toInt = a.toInt - a.toInt.tdiv b.toInt * b.toInt
  | .divu => if b = 0 then v.toNat = 0xFFFFFFFFFFFFFFFF else v.toNat = a.toNat / b.toNat
  | .remu => if b = 0 then v = a else v.toNat = a.toNat % b.toNat

/-- What stays of an exception that core c of s is delivered now, so that a halt request of this cycle finds it pending (02 R65): how the
core stood, which bits of ev CLU_EVENT did not yet hold, and what was reported. -/
def deliveredNow (s : State) (c : CoreId) (ev : BitVec 4) : Delivered :=
  { cycle := s.cycle, mode := (s.core c).mode, pc := (s.core c).pc, inHandler := (s.core c).inHandler
    event := ev &&& ~~~(s.cluster c.cl).event, report := ev }

/-- R61, R62, R65: exception cause, at the core's PC, is recorded; a core that is halting keeps it pending, a core with a handler
that it is not in continues there, and any other is FAULTED with CLU_EVENT.CORE_FAULT set and reported. -/
def tookException (s t : State) (c : CoreId) (cause : Byte) (addr : Option Nat) : Prop :=
  let k := s.core c
  let r : Core := { k with
    cause := cause, excPc := k.pc, nested := k.inHandler
    excAddr := match addr with
      | some a => BitVec.ofNat 48 a
      | none => k.excAddr }
  if k.haltReq then onlyCore s t c { r with excPending := true }
  else if !k.inHandler && k.handler ≠ 0 then
    onlyCore s t c { r with
      excPending := false, pc := k.handler, mode := .running, inHandler := true, delivered := some (deliveredNow s c 0) }
  else
    t.core c = { r with
      excPending := false, mode := .faulted, haltReq := false, wait := none, delivered := some (deliveredNow s c 2) } ∧
    (∀ d, d ≠ c → t.core d = s.core d) ∧
    t.cluster c.cl = { s.cluster c.cl with event := (s.cluster c.cl).event ||| 2 } ∧
    (∀ d, d ≠ c.cl → t.cluster d = s.cluster d) ∧
    t.outbox = s.outbox ++ [.eventToMgmt c.cl 2] ∧
    t.setAt = SMap.set (fun _ => 0) s.setAt (W1c.event c.cl 1).key (s.cycle + 1) ∧
    { t with cores := s.cores, clusters := s.clusters, outbox := s.outbox, setAt := s.setAt } = s

/-- A W1C bit was set in this cycle, so that a write of 1 in it leaves the bit (00 R6). -/
def nowSet (s : State) (b : W1c) : State := { s with setAt := SMap.set (fun _ => 0) s.setAt b.key (s.cycle + 1) }

/-- The core continues at an address with its other fields as in k, or takes exception 0x02 there when it cannot be fetched
(R87). -/
def continued (s t : State) (c : CoreId) (k : Core) (target : W32) : Prop :=
  (fetchable c target = true → onlyCore s t c { k with pc := target, retired := k.retired + 1 }) ∧
  (fetchable c target = false → tookException (s.setCore c { k with pc := target, retired := k.retired + 1 }) t c 2 none)

/-- R85: the comparison of each branch. -/
def branchMeans (op : BrOp) (a b : Word) : Prop :=
  match op with
  | .beq => a = b
  | .bne => a ≠ b
  | .blt => a.toInt < b.toInt
  | .bge => b.toInt ≤ a.toInt
  | .bltu => a.toNat < b.toNat
  | .bgeu => b.toNat ≤ a.toNat

/-- Little-endian value of bytes (00 R3). -/
def leValue : List Byte → Nat
  | [] => 0
  | b :: d => b.toNat + 256 * leValue d

/-- Table 3-6: what a scalar load of n bytes writes for the value v of those bytes. -/
def loadMeans (sz : LdSize) (v : Nat) (w : Word) : Prop :=
  match sz with
  | .lb => w.toInt = if v < 2 ^ 7 then (v : Int) else (v : Int) - 2 ^ 8
  | .lh => w.toInt = if v < 2 ^ 15 then (v : Int) else (v : Int) - 2 ^ 16
  | .lw => w.toInt = if v < 2 ^ 31 then (v : Int) else (v : Int) - 2 ^ 32
  | .lbu | .lhu | .lwu | .ld => w.toNat = v

def loadBytes : LdSize → Nat
  | .lb | .lbu => 1
  | .lh | .lhu => 2
  | .lw | .lwu => 4
  | .ld => 8

def storeBytes : StSize → Nat
  | .sb => 1
  | .sh => 2
  | .sw => 4
  | .sd => 8

/-- One more load of core c is outstanding, and the core moved past its instruction (02 R36). -/
def loadIssued (s t : State) (c : CoreId) (kind : LoadKind) (m v : Nat) : Prop :=
  let k := s.core c
  onlyCore s t c { k with
    loads := k.loads ++ [{ kind := kind, addr := m, vaddr := v, seq := k.memSeq, issued := s.cycle, aged := false, pc := k.pc }]
    memSeq := k.memSeq + 1, pc := k.pc + 4 }

/-- One more store of core c is buffered, and its instruction completed (02 R36). -/
def storeBuffered (s t : State) (c : CoreId) (m : Nat) (d : Slot) (mask : Word) : Prop :=
  let k := s.core c
  onlyCore s t c { k with
    stores := k.stores ++ [{ addr := m, data := d, mask := mask, seq := k.memSeq, after := k.storeFence, issued := s.cycle,
                             aged := false }]
    memSeq := k.memSeq + 1, pc := k.pc + 4, retired := k.retired + 1 }

/-- A machine check of core c in u has none but its own effects: the core is not in RESET, no halt request of this cycle stands, and no
job of its partition is being started (02 R63, R65, 17 R393). -/
def plainCheck (u : State) (c : CoreId) : Prop :=
  (u.core c).mode ≠ .reset ∧ (u.core c).haltedNow u.cycle = false ∧
    ∀ p, u.partOf c.cl = some p → (u.part p).job.state ≠ .restoring ∧ (u.part p).job.state ≠ .loading

/-- Core c took a machine check at pc (02 R63, 03 R80, 17 Table 17-7): it is FAULTED with cause 0x0F and both events set, and a job that
was loaded in its partition ends with a partition fault. -/
def machineChecked (u t : State) (c : CoreId) (pc : W32) (addr : Option Nat) : Prop :=
  (t.core c).mode = .faulted ∧ (t.core c).cause = 0x0F ∧ (t.core c).excPc = pc ∧
    (∀ a, addr = some a → (t.core c).excAddr = BitVec.ofNat 48 a) ∧ (t.cluster c.cl).event &&& 6 = 6 ∧
    ∀ p, u.partOf c.cl = some p → (u.part p).job.state = .loaded ∨ (u.part p).job.state = .running →
      (t.part p).job.state = .ending ∧ (t.part p).job.ending = some .partitionFault

/-- Room for one more load, and no fence that holds it back (02 R36, 03 R84). -/
def loadRoom (k : Core) : Bool := k.loads.length < 8 && !k.loadFenced

def storeRoom (k : Core) : Bool := k.stores.length < 16 && !k.fullFenced

/-- The instruction only changed its core: it issues when the registers it names are free and then completes as k says. -/
def runs (i : Instr) (s : State) (c : CoreId) (regs : List Reg) (k : Core → Core) : Prop :=
  ready s c 4 regs = true → ∃ t, exec i s = .next t ∧ completed (fetched s c 4) t c 4 (k ((fetched s c 4).core c))

/-- Two's complement value of an n-bit number. -/
def sval (n v : Nat) : Int := if v < 2 ^ (n - 1) then (v : Int) else (v : Int) - 2 ^ n

/-- Table 3-11 and R509 on elements of n bits: r is the result of op on a and b. -/
def vintMeans (op : VIntOp) (n a b r : Nat) : Prop :=
  match op with
  | .vadd => r = (a + b) % 2 ^ n
  | .vsub => (r + b) % 2 ^ n = a
  | .vmul => r = a * b % 2 ^ n
  | .vand => ∀ i, r.testBit i = (a.testBit i && b.testBit i)
  | .vor => ∀ i, r.testBit i = (a.testBit i || b.testBit i)
  | .vxor => ∀ i, r.testBit i = (a.testBit i != b.testBit i)
  | .vsll => r = a * 2 ^ (b % n) % 2 ^ n
  | .vsrl => r = a / 2 ^ (b % n)
  | .vsra => sval n r = sval n a / 2 ^ (b % n)
  | .vmin => sval n r = min (sval n a) (sval n b)
  | .vmax => sval n r = max (sval n a) (sval n b)
  | .vminu => r = min a b
  | .vmaxu => r = max a b
  | .vaddsat => sval n r = max (-2 ^ (n - 1)) (min (2 ^ (n - 1) - 1) (sval n a + sval n b))
  | .vsubsat => sval n r = max (-2 ^ (n - 1)) (min (2 ^ (n - 1) - 1) (sval n a - sval n b))
  | .vpopc => r = ((List.range n).filter fun i => a.testBit i).length

/-- A vector result under R70 and R71: active elements of w bytes meet the operation's relation, inactive ones are zeroed or kept. -/
def predicated (k : Core) (pr : Pred) (w : Nat) (old new : Slot) (f : Nat → Nat → Prop) : Prop :=
  ∀ e, e < 64 / w →
    if !pr.p || (k.preg pr.pg).getLsbD (e * w) then f e (elem new w e)
    else elem new w e = if pr.z then 0 else elem old w e

/-- R93 on elements of n bits; the last four on FP32 patterns. -/
def cmpMeans (op : CmpOp) (n a b : Nat) : Bool :=
  match op with
  | .eq => a == b
  | .ne => a != b
  | .lt => sval n a < sval n b
  | .le => sval n a ≤ sval n b
  | .ltu => a < b
  | .leu => a ≤ b
  | .feq => !(f32Of a).isNan && !(f32Of b).isNan && !(f32Of a).lt (f32Of b) && !(f32Of b).lt (f32Of a)
  | .flt => (f32Of a).lt (f32Of b)
  | .fle => !(f32Of a).isNan && !(f32Of b).isNan && !(f32Of b).lt (f32Of a)
  | .funord => (f32Of a).isNan || (f32Of b).isNan

/-- A candidate queue as R107 keeps it: ascending, of at most 64 entries with different node numbers, none of them all ones. -/
def queueOrdered (q : List Word) : Prop :=
  q.Pairwise (fun x y => x.toNat < y.toNat ∧ bits x 39 0 ≠ bits y 39 0) ∧ q.length ≤ 64 ∧ cqNone ∉ q

/-- R108 as its steps are written: the status, and the queue after it by its members. -/
def insertMeans (q : List Word) (e : Word) (r : List Word × Nat) : Prop :=
  if e = BitVec.allOnes 64 then r = (q, 2)
  else match q.find? fun x => bits x 39 0 = bits e 39 0 with
    | some x => r.2 = 3 ∧ (∀ y, y ∈ r.1 ↔ (y ∈ q ∧ y ≠ x) ∨ y = if e.toNat < x.toNat then e else x)
    | none =>
      if q.length < 64 then r.2 = 0 ∧ ∀ y, y ∈ r.1 ↔ y ∈ q ∨ y = e
      else match q.getLast? with
        | some m =>
          if e.toNat < m.toNat then r.2 = 1 ∧ ∀ y, y ∈ r.1 ↔ (y ∈ q ∧ y ≠ m) ∨ y = e
          else r = (q, 2)
        | none => r = (q, 2)

/-- The candidate queue of core k as it stood before the cycle's first operation on it (04 R109). -/
def queueBefore (k : Core) (cycle : Nat) : List Word :=
  match k.cqWas with
  | some (n, q) => if n = cycle then q else k.cq
  | none => k.cq

/-- Core k with a new candidate queue, the one from before the cycle kept. -/
def withQueue (k : Core) (cycle : Nat) (q : List Word) : Core := { k with cq := q, cqWas := some (cycle, queueBefore k cycle) }

/-- R109 as its steps are written: the entries es are inserted into q in order until one is refused; r is the queue after that, and n
with one more for each entry that was inserted anew. -/
def mergeMeans : List Word → List Word → Nat → List Word × Nat → Prop
  | q, [], n, r => r = (q, n)
  | q, e :: es, n, r => ∃ x : List Word × Nat, insertMeans q e x ∧ queueOrdered x.1 ∧
      if x.2 = 2 then r = (x.1, n) else mergeMeans x.1 es (if x.2 = 3 then n else n + 1) r

/-- No steal was served from core k's deque in this cycle (02 R55). -/
def noSteal (k : Core) (cycle : Nat) : Prop := ∀ u, k.stole = some u → u.cycle ≠ cycle

/-- A steal from core k's deque at a cycle (02 R52, 04 Table 4-10): its top entry, the oldest visible one, or 0. -/
def stolen (k : Core) (cycle : Nat) (thief : Fin 128) (seq : Nat) : Core × Word :=
  if k.deque ≠ [] ∧ 0 < k.visible then
    ({ k with deque := k.deque.tail, dqVisible := k.visible - 1, stole := some ⟨cycle, k.deque.headD 0, thief, seq⟩ }, k.deque.headD 0)
  else ({ k with stole := some ⟨cycle, 0, thief, seq⟩ }, 0)

/-- Core c's full/empty access to the slot at module-view address m, sent to its bank in cycle at, has its turn there now (09 R209 to
R211). -/
def feTurn (f : State) (c : CoreId) (m : Nat) : Prop :=
  f.bankServes c m ((f.core c).feArrival m f.cycle).1 ((f.core c).feArrival m f.cycle).2 = true

/-- The state once the bank serves that access: the core waits there no longer, the bank's pointer stands behind it, and tag copies that
differed are rewritten (09 R210, R213). -/
def feTaken (f : State) (c : CoreId) (m : Nat) : State := f.feServed c m ((f.core c).feArrival m f.cycle).2

/-- A full/empty access performed in u on the slot that holds module-view address m (04 Table 4-7): the kinds that read. -/
def slotLoaded (u t : State) (c : CoreId) (v : Bool) (r : BitVec 5) (m : Nat) (empties : Bool) : Prop :=
  let g := u.readMem m (if v then 64 else 8)
  let w := if empties then g.st.setTag m false else g.st
  ∃ x : Slot, x.toNat = leValue g.data ∧
    completed w t c 4 (if v then (w.core c).setV (r.truncate 4) x else (w.core c).setS r (x.truncate 64)) ∧
    w.tagFull m = !empties

/-- The core waits in WAITING for the tag of a slot (04 R116): its access is the last of those held in its cluster. -/
def slotAwaited (u t : State) (c : CoreId) (e : HeldFe) : Prop :=
  t.core c = { u.core c with mode := .waiting, wait := some .fullEmpty } ∧ (∀ d, d ≠ c → t.core d = u.core d) ∧
    t.cluster c.cl = { u.cluster c.cl with held := (u.cluster c.cl).held ++ [e] } ∧ (∀ d, d ≠ c.cl → t.cluster d = u.cluster d) ∧
    { t with cores := u.cores, clusters := u.clusters } = u

/-- The bytes a full/empty store writes: the register t. -/
def slotData (k : Core) (v : Bool) (t : BitVec 5) : List (Option Byte) :=
  (List.range (if v then 64 else 8)).map fun i => some (BitVec.ofNat 8
    ((if v then (k.vreg (t.truncate 4)).toNat else (k.sreg t).toNat) / 2 ^ (8 * i)))

/-! ### Parts of the state -/

/-- Command i completes on s: exec answers a next state, of which P holds. -/
def gives (i : Instr) (s : State) (P : State → Prop) : Prop := ∃ t, exec i s = .next t ∧ P t

/-- t is s but for cluster cl, which is g. -/
def onlyCluster (s t : State) (cl : Fin 32) (g : Cluster) : Prop :=
  t.cluster cl = g ∧ (∀ d, d ≠ cl → t.cluster d = s.cluster d) ∧ { t with clusters := s.clusters } = s

/-- A cluster whose registers are written at once: it runs, it is not being zeroised, and the writer may write them (02 R57): a core
those of its own cluster, and BAR2 no cluster with a job loaded while debug is not OPEN_INV (16 R374). -/
def writable (s : State) (w : Requester) (cl : Fin 32) : Bool :=
  (s.cluster cl).pstate == 0 && !(s.cluster cl).zeroising &&
    match w with
    | .mgmt => true
    | .bar2 _ => !s.jobOn cl || s.sec.debugSt == .openInv
    | .core c => c.cl == cl

def fromCore (w : Requester) : Bool :=
  match w with
  | .core _ => true
  | _ => false

/-- A tensor command stands at the head of a cluster's queue and is dispatched by itself: nothing executes, no layer is open, no fault
stands, and its completion address names a slot (02 R41, R43, 05 R141). -/
def mxAlone (s : State) (cl : Fin 32) (ws : List Word) (rest : List (List Word)) : Prop :=
  let g := s.cluster cl
  g.mxq = ws :: rest ∧ g.pstate = 0 ∧ g.zeroising = false ∧ g.mxcFault = false ∧ g.quiesce = false ∧ g.mxExec = [] ∧ g.dumps = [] ∧
    g.grd.closing = none ∧ g.grd.opened = false ∧ slotAddr (bits (ws.getD 0 0) 63 32) = true ∧
    (∀ k : Fin 128, (s.core ⟨cl, k⟩).wait = none)

/-- A tensor command's completion word stands in its slot (02 R42): status, TAG, progress and flags, its tag full, over the state u. -/
def mxCompleted (u : State) (cl : Fin 32) (ws : List Word) (status progress flags : Nat) : State :=
  ((u.repairTag (clusterAddr cl (bits (ws.getD 0 0) 63 32))).writeMem (clusterAddr cl (bits (ws.getD 0 0) 63 32)) ((toBytes
    (progress * 2 ^ 32 + bits (ws.getD 0 0) 31 16 * 2 ^ 16 + status * 2 ^ 8 + flags) 8 ++ List.replicate 56 0).map some)).setTag
    (clusterAddr cl (bits (ws.getD 0 0) 63 32)) true

/-- A tensor command with words ws was dispatched alone and runs: nothing else changed but its queue (02 R41). -/
def mxStarted (s t : State) (cl : Fin 32) (ws : List Word) (rest : List (List Word)) : Prop :=
  ∃ e : MxExec, e.words = ws ∧ e.rerun = false ∧ e.step = (s.cluster cl).step ∧
    onlyCluster s t cl { s.cluster cl with mxq := rest, mxExec := [e] }

/-- A tensor command alone in its queue ended at its checks with an error status: its word is written and the queue stops (02 R43, 05
R145). -/
def mxRefused (s t : State) (cl : Fin 32) (ws : List Word) (rest : List (List Word)) (status : Nat) : Prop :=
  ∃ u, onlyCluster s u cl { s.cluster cl with mxq := rest } ∧ t.mem = (mxCompleted u cl ws status 0 0).mem ∧
    (t.cluster cl).mxcFault = true ∧ (t.cluster cl).mxq = rest ∧ (t.cluster cl).mxExec = []

/-- Command e executes at place i of a running cluster, under no abort, with no stored error anywhere, and its completion slot is
valid. -/
def mxRuns (s : State) (cl : Fin 32) (i : Fin 16) (e : MxExec) (op : Nat) : Prop :=
  let g := s.cluster cl
  g.pstate = 0 ∧ g.zeroising = false ∧ g.mxExec[i.val]? = some e ∧ bits (e.words.getD 0 0) 7 0 = op ∧ g.quiesceAbort = false ∧
    s.flips = [] ∧ s.inject = [] ∧ slotAddr (bits (e.words.getD 0 0) 63 32) = true

/-- Bytes n on from a of cluster cl's address space, as a number. -/
def clusterValue (s : State) (cl : Fin 32) (a n : Nat) : Nat := leValue (Memory.bytes s.mem (clusterAddr cl a) n)

/-- R127 on a MATMUL of FP16 or BF16 elements with neither row shift nor scales: element (m, n) after every step, in bands of 32 rows;
each band's products are summed exactly and rounded once into the FP32 sum. -/
def mmValue (s : State) (cl : Fin 32) (x : Mm) (m n : Nat) : Nat :=
  let w (j k : Nat) := elemValue x.wfmt (clusterValue s cl (x.wsrc + j * x.wstep + k * x.wpitch * 64 + 2 * n) 2)
  let a (j k : Nat) := elemValue x.afmt (clusterValue s cl (x.feedBit j m k / 8) 2)
  let band (j b : Nat) := (List.range (min 32 (x.k - b * 32))).foldl
    (fun (v : Fpv) r => v.add ((w j (b * 32 + r)).mul (a j (b * 32 + r)))) (.zero false)
  (List.range x.steps).foldl (fun v j => (List.range ((x.k + 31) / 32)).foldl
    (fun v b => f32Bits ((f32Of v).add (plusZero (band j b)))) v) (if x.acc then clusterValue s cl (x.psumAt m n) 4 else 0)

/-- The cluster's ring r has an entry of words ws at its head, which reads well: the ring is not empty, the cluster runs, no error is
stored anywhere and none is to be injected, and COMPL_ADDR is 0 or names a slot (02 R45, R50). -/
def ringHas (s : State) (cl : Fin 32) (r : RingId) (ws : List Word) : Prop :=
  let x := (s.cluster cl).ring r
  x.size ≠ 0 ∧ x.head ≠ x.tail ∧ (s.cluster cl).pstate = 0 ∧ (s.cluster cl).zeroising = false ∧ s.flips = [] ∧ s.inject = [] ∧ ws.length = 8 ∧
    (∀ i w, ws[i]? = some w → w.toNat = clusterValue s cl (x.base.toNat + 64 * x.head.toNat + 8 * i) 8) ∧
    (bits (ws.getD 0 0) 63 32 = 0 ∨ slotAddr (bits (ws.getD 0 0) 63 32) = true)

/-- Every word in a cluster's spill FIFO, oldest first: the head stage, the middle in the D1 hub reserve, the tail, and the pushes that
the hub holds (16 R369 to R371). -/
def spillWords (s : State) (cl : Fin 32) : List Word :=
  let x := (s.cluster cl).spill
  x.head.map (·.1) ++ (List.range x.midLen).map (fun i => BitVec.ofNat 64 (leValue (Memory.bytes s.mem
    (d1Reserve + cl.val * 0x800000 + (x.midAt + i) % 0x100000 * 8) 8))) ++ x.tail ++ x.held

/-- Every byte outside n bytes from a on reads as before. -/
def elsewhereSame (s t : State) (a n : Nat) : Prop := ∀ b, b < a ∨ a + n ≤ b → Memory.byte t.mem b = Memory.byte s.mem b

/-- HEAD of ring r moved on by one, as read in t (02 R45). -/
def headMoved (s t : State) (cl : Fin 32) (r : RingId) : Prop :=
  let x := (s.cluster cl).ring r
  (t.cluster cl).ring r = { x with head := BitVec.ofNat 32 ((x.head.toNat + 1) % x.size.toNat) }

/-- The completion of a ring entry over u: none at address 0, else count, TAG and status, the slot's rest 0 and its tag full (02
R48). -/
def ringDone (u : State) (cl : Fin 32) (w0 : Word) (count status : Nat) : State :=
  let a := clusterAddr cl (bits w0 63 32)
  if bits w0 63 32 = 0 then u
  else ((u.repairTag a).writeMem a ((toBytes (count % 2 ^ 32 * 2 ^ 32 + bits w0 31 16 * 2 ^ 16 + status % 256 * 2 ^ 8) 8 ++
    List.replicate 56 0).map some)).setTag a true

/-- A tile mover descriptor ws of OP op stands at the head of queue q, with its RSVD fields 0 and FENCE 0, and may start: the
round-robin reaches its queue (02 R46), and no core's request comes first as aged (09 R211). -/
def tmReady (s : State) (cl : Fin 32) (q : Fin 16) (ws : List Word) (op : Nat) : Prop :=
  let g := s.cluster cl
  ringHas s cl (.tm q) ws ∧ bits (ws.getD 0 0) 15 0 = op ∧ bits (ws.getD 1 0) 63 48 = 0 ∧ bits (ws.getD 2 0) 63 48 = 0 ∧
    bits (ws.getD 3 0) 63 32 = 0 ∧ bits (ws.getD 6 0) 63 40 = 0 ∧ ws.getD 7 0 = 0 ∧ (∀ e ∈ g.tmExec, e.q ≠ q) ∧
    g.tmExec.length < 4 ∧ g.quiesce = false ∧ s.tmChosen cl q = true ∧
    ∀ e ∈ s.cores, (∀ l ∈ e.2.loads, l.aged = false) ∧ ∀ x ∈ e.2.stores, x.aged = false

/-- The descriptor of queue q executes in t after those of s, with nothing left to do, its status and its units done. -/
def tmOver (s t : State) (cl : Fin 32) (q : Fin 16) (ws : List Word) (status units : Nat) : Prop :=
  ∃ e : TmExec, (t.cluster cl).tmExec = (s.cluster cl).tmExec ++ [e] ∧ e.q = q ∧ e.words = ws ∧ e.status.toNat = status ∧
    e.done = true ∧ e.units = units ∧ t.cores = s.cores

/-- An index-read record is taken: HEAD moved on, and it executes as x (14 R321). -/
def ixTaken (s t : State) (cl : Fin 32) (x : IxExec) : Prop :=
  headMoved s t cl .ixr ∧ (t.cluster cl).ixExec = (s.cluster cl).ixExec ++ [x] ∧ t.mem = s.mem ∧ t.cores = s.cores

/-- The next record of a cluster's ring as it executes with nothing left but its completion. -/
def ixOver (s : State) (cl : Fin 32) (ws : List Word) (nsid status : Nat) (out : List Byte) (count : Nat) : IxExec :=
  { id := (s.cluster cl).ixNext, words := ws, nsid := nsid, status := BitVec.ofNat 8 status, out := out, count := count }

/-- The records of a cluster's ring that execute are numbered in the order they were taken. -/
def ixNumbered (s : State) (cl : Fin 32) : Prop := ∀ y ∈ (s.cluster cl).ixExec, y.id < (s.cluster cl).ixNext

/-- An index-read record of words ws may be taken (14 R321, R333). -/
def ixReady (s : State) (cl : Fin 32) (ws : List Word) (op : Nat) : Prop :=
  let g := s.cluster cl
  ringHas s cl .ixr ws ∧ bits (ws.getD 0 0) 3 0 = op ∧ g.ixFree ws = true ∧ g.quiesce = false ∧ s.ringsOpen cl = true ∧ ixNumbered s cl

/-- A read of codeword k of the media, which serves the index-read record x of partition p, is at its die (12 R262, 14 R325, R329). -/
def mediaAsked (t : State) (k : Nat) (p : Option (Fin 12)) (x : Fin 32 × Nat) : Prop :=
  ∃ r : FlashRead, r.page = k / 4 ∧ r.cw.val = k % 4 ∧ r.part = p ∧ x ∈ r.ix ∧
    (r ∈ (t.die (pageDie r.page)).reads ∨ (pagePlane r.page, r) ∈ (t.die (pageDie r.page)).senses)

/-- t is s but for link l, which is k. -/
def onlyLink (s t : State) (l : Fin 36) (k : Link) : Prop :=
  t.link l = k ∧ (∀ m, m ≠ l → t.link m = s.link m) ∧ { t with links := s.links } = s

/-- t is s but for partition p, which is q. -/
def onlyPart (s t : State) (p : Fin 12) (q : Partition) : Prop :=
  t.part p = q ∧ (∀ d, d ≠ p → t.part d = s.part d) ∧ { t with parts := s.parts } = s

/-- A packet of a TYPE is for this module and its engine has not taken it. -/
def arrived (s : State) (pk : Packet) (typ : BitVec 8) : Prop := pk ∈ s.fab.inbox ∧ pk.typ = typ

/-- A packet of a TYPE waits in a link's receive buffer. -/
def waits (s : State) (l : Fin 36) (pk : Packet) (typ : BitVec 8) : Prop := pk ∈ (s.link l).rx ∧ pk.typ = typ

/-- A packet waits to leave on a link, or for an Indigo window of it, or its last segment has left on it (18 R399, R411). -/
def leaves (t : State) (l : Fin 36) (pk : Packet) : Prop :=
  pk ∈ (t.link l).tx ∨ pk ∈ (t.link l).indHeld ∨ ∃ q a nak v n pks, pk ∈ pks ∧ Out.flit l q a nak v n pks ∈ t.outbox

/-- Link l went to DOWN, or to FAILED at the fourth time in a window of 10 s (18 R398), its session gone; no other link's state or keys
changed, and no core. -/
def linkGone (s t : State) (l : Fin 36) : Prop :=
  let k := s.link l
  let n := if k.downsWin = s.time.toNat / 10000000000 then k.downs.toNat + 1 else 1
  (t.link l).st = (if 4 ≤ n then .failed else .down) ∧ (t.link l).downs.toNat = min n 255 ∧ (t.link l).seqTx = 0 ∧
    (t.link l).seqRx = 0 ∧ (t.link l).keysel = false ∧
    (∀ m, m ≠ l → (t.link m).st = (s.link m).st ∧ (t.link m).keysel = (s.link m).keysel ∧ (t.link m).seqRx = (s.link m).seqRx) ∧
    t.cores = s.cores

/-- A fabric send record ws of OP op stands at the head of a cluster's ring and may be taken (18 R413). -/
def fxReady (s : State) (cl : Fin 32) (ws : List Word) (op : Nat) : Prop :=
  ringHas s cl .ftx ws ∧ bits (ws.getD 0 0) 3 0 = op ∧ s.fxHeld cl = false ∧ s.fxOpen cl < 64

/-- The packets of a send of n bytes at module address m to this module's own FID, appended to what arrived. -/
def sentHere (s t : State) (ws : List Word) (m n : Nat) (typ : BitVec 8) : Prop :=
  ∃ l : List Packet, t.fab.inbox = s.fab.inbox ++ l ∧ l.length = (n + 4095) / 4096 ∧ ∀ k pk, l[k]? = some pk →
    pk.typ = typ ∧ pk.dstFid = s.fab.fid ∧ pk.srcFid = s.fab.fid ∧ pk.id = BitVec.ofNat 40 s.fab.nextId ∧
    pk.dstPart.toNat = bits (ws.getD 3 0) 47 44 ∧ bits pk.w3 63 56 = k % 256 ∧ bits pk.w3 55 48 = (n + 4095) / 4096 - 1 ∧
    pk.payload = Memory.bytes s.mem (m + 4096 * k) (min 4096 (n - 4096 * k))

/-- A host command is taken at once: its controller serves, the processors run, no power state is being entered or left, and a compute
command finds the compute domain up (16 R365, 19 R449). -/
def serving (s : State) (h : Hdr) (compute : Bool) : Prop :=
  s.serves h.fn = true ∧ s.mgmt.halted = false ∧ s.pow.move = none ∧ s.pow.pstate.val < 3 ∧
    (compute = true → s.pow.compute = .ready ∧ s.pow.pstate = 0)

/-- A completion to a command was posted on its function: its masked vector has its pending bit set (16 R351), and the time is that of the
last command's end (16 R365). -/
def fnsPosted (s t : State) (h : Hdr) : Prop :=
  t.cmdAt = s.time ∧ ∀ e, t.fn e = if e = h.fn then Fn.interrupt h.sq (s.fn e) else s.fn e

/-- t is u with the command's completion posted, entered in the error log unless it is a success (16 Table 16-4). -/
def answered (u t : State) (h : Hdr) (sct sc : Byte) (dw0 : W32) : Prop :=
  t.outbox = u.outbox ++ [.completion h sct sc dw0] ∧
    t.errLog = (if sct = 0 ∧ sc = 0 then u.errLog else ((h, sct, sc) :: u.errLog).take 256) ∧ fnsPosted u t h ∧
    { t with outbox := u.outbox, errLog := u.errLog, fns := u.fns, cmdAt := u.cmdAt } = u

/-- An owner's command under the semaphore meets nothing that stops it before its signature (16 R366, 19 R443). -/
def ownerServed (s : State) (h : Hdr) : Prop :=
  serving s h false ∧ (∃ p, h.fn = .pf p) ∧ s.ownsem = semOf (s.portOf h.fn) ∧ s.san.active = none ∧ ∀ x ∈ s.heldCmds, x.isSem = false

/-- The security state without a nonce. -/
def withoutNonce (x : Sec) (n : BitVec 256) : Sec := { x with nonces := x.nonces.filter fun e => e.1 ≠ n }

/-- The command succeeded and left the security state x; nothing else changed but the count of free values drawn. -/
def secDone (s t : State) (h : Hdr) (x : Sec) : Prop :=
  t.sec = x ∧ t.outbox = s.outbox ++ [.completion h 0 0 0] ∧ fnsPosted s t h ∧
    { t with sec := s.sec, outbox := s.outbox, freeCtr := s.freeCtr, fns := s.fns, cmdAt := s.cmdAt } = s

/-- The command failed with a vendor-specific status, its nonce spent. -/
def secFailed (s t : State) (h : Hdr) (g : Signed) (sc : Byte) : Prop :=
  answered { s with sec := withoutNonce s.sec g.nonce } t h 7 sc 0

/-- t is s but for the dies, and among them only die d changed, to x. -/
def onlyDie (s t : State) (d : DieId) (x : Die) : Prop :=
  t.die d = x ∧ (∀ e, e ≠ d → t.die e = s.die e) ∧ { t with dies := s.dies } = s

/-- Nothing changed but what the media's engines, channels, dies and block counters hold. -/
def mediaOnly (s t : State) : Prop :=
  { t with dies := s.dies, chans := s.chans, ldpc := s.ldpc, blocks := s.blocks } = s

/-- No operation of SEC_CFL_CMD runs in a bank of the configuration flash, so that a commit is not refused (13 R300). -/
def banksIdle (s : State) : Prop := s.rootBusy true = false ∧ s.rootBusy false = false

/-- A die that is present and works. -/
def dieWorks (s : State) (d : DieId) : Prop := s.dieThere d = true ∧ s.dieFailed d = false

/-- The hub can move codeword c as a unit of a block namespace: it is valid and can be read (13 R294). -/
def movable (s : State) (c : Nat) : Prop :=
  (∃ n u, s.validUnit c = some (.unit, n, u) ∧ s.nsIsTile n = false) ∧ s.cwData c ≠ none

/-- Die d is declared failed in t, with everything it did abandoned, and the report made (12 R279). -/
def dieLost (s t : State) (d : DieId) : Prop :=
  (t.die d).failed = true ∧ (t.die d).op = none ∧ (t.die d).reads = [] ∧ (t.die d).senses = [] ∧ (t.die d).programs = [] ∧
    LogKind.dieFailed (d.ch.val * 2 ^ 34 + d.die.val * 2 ^ 30) ∈ t.modLog ∧ (banksIdle s → t.journal = 0) ∧ t.cores = s.cores ∧ t.mem = s.mem ∧
    ∀ e, e ≠ d → (t.die e).failed = (s.die e).failed ∧ (t.die e).op = (s.die e).op

/-- Everything that loses its contents with the storage and compute domains is as it is after power-up: memory, tags, clusters, cores,
partitions, residency, the write buffer, functions, locks, waiting commands, the fabric (21 Tables 21-5, 21-6). -/
def domainsFresh (t : State) : Prop :=
  t.mem = [] ∧ t.tags = [] ∧ t.flips = [] ∧ t.cores = [] ∧ t.clusters = [] ∧ t.parts = [] ∧ t.nougat = [] ∧ t.buffer = [] ∧
    t.stripes = [] ∧ t.fns = [] ∧ t.locks = [] ∧ t.heldCmds = [] ∧ t.ctx = [] ∧ t.fab = {} ∧ t.pow.compute = .off ∧ t.pow.move = none ∧
    t.pow.wakeTo = none ∧ t.pow.pstate = 0 ∧ t.pow.throttled = false ∧ t.mapCache = [] ∧ t.journalTail = []

/-- What outlasts every reset: OTP, the namespaces, and the configuration flash where no commit and no operation of its own changes it (19
R430, 21 Table 21-5). -/
def lasting (s t : State) : Prop :=
  t.sec.otp = s.sec.otp ∧ t.sec.otpLock = s.sec.otpLock ∧ t.nss = s.nss ∧ t.pending = s.pending ∧
    (s.ftlUp = false → s.sec.banks = [] → t.cfl = s.cfl)

/-- t is the module after a module reset of s (21 R482): both domains fresh, the inputs and the counters and logs since power-up kept,
start-up from the root of trust, and the debug state by the level (19 R447); a module fault lasts unless an NVM Subsystem Reset is the
cause (17 R392). -/
def afterReset (s t : State) (cause : BitVec 3) : Prop :=
  domainsFresh t ∧ lasting s t ∧ t.pow.stage = .alwaysOn ∧ t.pow.lastReset = cause ∧
    t.pow.moduleFault = (cause != 4 && s.pow.moduleFault) ∧ t.pow.mainIn = s.pow.mainIn ∧
    t.pow.auxIn = s.pow.auxIn ∧ t.time = s.time ∧ (banksIdle s → t.modLog = s.modLog) ∧ t.errLog = s.errLog ∧ t.eccLog = s.eccLog ∧
    t.eccCe = s.eccCe ∧ t.eccUe = s.eccUe ∧ t.prlCnt = s.prlCnt ∧ t.tileHeals = s.tileHeals ∧ t.traceHead = s.traceHead ∧
    t.sec.island = .held ∧ t.sec.debugSt = (if s.sec.level = 0 then .openInv else .closed)

/-- Only the power-up steps changed. -/
def stageOnly (s t : State) (p : Power) : Prop := t.pow = p ∧ { t with pow := s.pow } = s

/-- n bytes from a on read 0. -/
def zeroed (t : State) (a n : Nat) : Prop := ∀ b, a ≤ b → b < a + n → Memory.byte t.mem b = 0

/-- A cluster's memories read 0 and all its tags are empty, and its cores are reset. -/
def clusterZeroed (t : State) (cl : Fin 32) : Prop :=
  (∀ a, a < winSize → Memory.byte t.mem (clusterAddr cl a) = 0 ∧ t.tagFull (clusterAddr cl a) = false) ∧
    ∀ k : Fin 128, t.core ⟨cl, k⟩ = Core.reset (cl.val * 128 + k.val)

/-- A command of the debug port: its instruction, and what was captured. -/
def tapOut (s t : State) (ir : Byte) (out : Nat) : Prop := t.outbox = s.outbox ++ [.tap (BitVec.ofNat 66 out)] ∧ t.sec.tapIr = ir

/-- The access of the debug port is over, with its ERR bit and data, and DBG_ADDR moves on; nothing else of the module changed. -/
def tapAccess (s t : State) (err : Bool) (data : Word) : Prop :=
  tapOut s t 0x21 ((if s.sec.tapErr then 2 ^ 65 else 0) + s.sec.tapData.toNat) ∧ t.sec.tapErr = err ∧ t.sec.tapData = data ∧
    t.sec.tapAddr = s.sec.tapAddr + 8

/-- A module fault (17 R392, R393). -/
def moduleFaulted (s t : State) : Prop :=
  t.pow.moduleFault = true ∧ t.pow.compute = .off ∧ t.critWarn.getLsbD 2 = true ∧ LogKind.moduleFault ∈ t.modLog ∧ t.cores = [] ∧
    zeroed t 0 d1Top ∧ (∀ p, (t.part p).job.state = .none) ∧ (∀ l, (t.link l).st = .down ∨ (t.link l).st = .failed) ∧
    t.sec.otp = s.sec.otp

/-- A command that moves n bytes is admitted in the present window of 1 ms: it is served, it stays within its tenant's caps and share, or within
what is kept for a physical function, and is counted (16 R357, R358); u is the state it goes on from. -/
def admitted (s u : State) (h : Hdr) (n : Nat) (compute : Bool) : Prop :=
  serving s h compute ∧ s.qosRoll.withinQos h.fn n = true ∧ u = s.qosRoll.enterQos h.fn n

/-- Locks are numbered in the order they were entered. -/
def locksNumbered (s : State) : Prop := ∀ l ∈ s.locks, l.id < s.nextLock

/-- A command that reads or writes n blocks of namespace nsid from block a on goes on to the media at once: no status stops it, the lock
table has room, and no earlier lock conflicts (16 R361, R362). -/
def ioOpen (s : State) (h : Hdr) (nsid : BitVec 32) (a n : Nat) (write : Bool) : Prop :=
  s.ioStatus h.fn nsid a n write = none ∧ s.tableFull = false ∧ s.locks.length < 4096 ∧ locksNumbered s ∧
    s.lockBusy nsid.toNat a n (!write) = false ∧ a + n ≤ 2 ^ 38

/-- A write in a class may enter the buffer: no tile it backs is pinned, and there is room within its shares (01 R26, R28, 13 R297). -/
def writeFits (s : State) (h : Hdr) (nsid : BitVec 32) (a n : Nat) (k : Class) : Prop :=
  s.pinnedRange nsid.toNat a n = false ∧ s.hostRoom (s.fnPart h.fn) k (s.writeCost nsid.toNat a n) = true ∧ bufferLeast ≤ s.bufCap

/-- Blocks from a on read as the data, and every other block as before. -/
def blocksWritten (s t : State) (nsid a : Nat) (data : List Unit4K) : Prop :=
  (∀ i d, data[i]? = some d → t.readUnit nsid (a + i) = some d) ∧
    ∀ m x, x < 2 ^ 38 → (m ≠ nsid ∨ x < a ∨ a + data.length ≤ x) → t.readUnit m x = s.readUnit m x

/-- The command succeeded with Dword 0 after the outputs o, and no error was logged. -/
def succeeded (s t : State) (h : Hdr) (o : List Out) (dw0 : W32) : Prop :=
  t.outbox = s.outbox ++ o ++ [.completion h 0 0 dw0] ∧ t.errLog = s.errLog

/-- The command succeeded after the outputs o; where the host memory buffer is in use, records for its slots may have left before (13 R291). -/
def succeededVia (s t : State) (h : Hdr) (o : List Out) : Prop :=
  (∃ hm : List Out, (∀ x ∈ hm, ∃ j d, x = .hmbWrite j d) ∧ t.outbox = s.outbox ++ hm ++ o ++ [.completion h 0 0 0]) ∧ t.errLog = s.errLog

/-- Units were read: every unit reads as before, and no job, core, memory, copy or waiting command changed. -/
def onlyRead (s t : State) : Prop :=
  (∀ m x, t.readUnit m x = s.readUnit m x) ∧ t.nsMap = s.nsMap ∧ t.mem = s.mem ∧ t.cores = s.cores ∧ t.clusters = s.clusters ∧
    t.nougat = s.nougat ∧ t.heldCmds = s.heldCmds ∧ t.parts = s.parts

/-- The command succeeded and did nothing else. -/
def onlySucceeded (s t : State) (h : Hdr) (o : List Out) (dw0 : W32) : Prop :=
  succeeded s t h o dw0 ∧ fnsPosted s t h ∧ { t with outbox := s.outbox, fns := s.fns, cmdAt := s.cmdAt } = s

/-- The command succeeded and changed function f to g only. -/
def fnChanged (s t : State) (h : Hdr) (f : FnId) (g : Fn) (dw0 : W32) : Prop :=
  t.outbox = s.outbox ++ [.completion h 0 0 dw0] ∧ fnsPosted { s with fns := SMap.set Fn.reset s.fns (FnId.key f) g } t h ∧
    { t with fns := s.fns, outbox := s.outbox, cmdAt := s.cmdAt } = s

/-- Words, as a command returns them. -/
def wordsOut (h : Hdr) (ws : List Nat) : List Out := [.words h (ws.map (BitVec.ofNat 64))]

/-- A request entered slot i of partition p's area, at its address, and its doorbell is pushed (16 R355). -/
def requestPlaced (s t : State) (p : Fin 12) (cl : Fin 32) (a i : Nat) (src : ReqSource) (d : List Byte) : Prop :=
  (t.part p).slots = (s.part p).slots ++ [(i, src, s.time)] ∧ (∀ q, q ≠ p → t.part q = s.part q) ∧ Memory.bytes t.mem a (reqLen d) = d.take (reqLen d) ∧
    elsewhereSame s t a (reqLen d) ∧
    (t.cluster cl).spill.head = (s.cluster cl).spill.head ++ [(BitVec.ofNat 64 (2 ^ 63 + 2 ^ 56 + i), s.cycle + 3)] ∧ t.cores = s.cores

/-- A doorbell for cluster cl goes straight to the head stage of its spill FIFO (16 R369, R371). -/
def spillEmpty (s : State) (cl : Fin 32) : Prop :=
  let x := (s.cluster cl).spill
  x.tail = [] ∧ x.midLen = 0 ∧ x.held = [] ∧ x.head.length + (x.popped.filter fun c => s.cycle < c + 3).length < 16

/-- An owner's command on a physical function is taken at once. -/
def ownerTaken (s : State) (h : Hdr) : Prop := serving s h false ∧ ∃ p, h.fn = .pf p

/-- t is s with namespace n as v, its change noted for functions fs, and the command succeeded; the data of no namespace changed. -/
def nsChanged (s t : State) (h : Hdr) (n : Nat) (v : Option Namespace) (fs : List FnId) (dw0 : W32) : Prop :=
  t.ns n = v ∧ (∀ m, m ≠ n → t.ns m = s.ns m) ∧ (∀ f ∈ fs, n ∈ (t.fn f).changed) ∧ t.outbox = s.outbox ++ [.completion h 0 0 dw0] ∧
    t.nsMap = s.nsMap ∧ (∀ m x, m ≠ n → t.readUnit m x = s.readUnit m x) ∧ t.mem = s.mem ∧ t.cores = s.cores

/-- A partition an owner's or a host's command names: q, which the function reaches (16 R350, 17 R382). -/
def names (s : State) (h : Hdr) (p : BitVec 4) (q : Fin 12) : Prop := p.toNat = q.val ∧ s.reaches h.fn q = true

/-- Every cluster of a list runs. -/
def awake (s : State) (cs : List (Fin 32)) : Prop := ∀ cl ∈ cs, (s.cluster cl).pstate = 0

/-- The end of partition p's job began: QUIESCE on its clusters, no request waits, and the job ends by cause (17 R383). -/
def endBegun (s t : State) (p : Fin 12) (cause : EndCause) (waiter : Option Hdr) : Prop :=
  (t.part p).job = { (s.part p).job with
    state := if cause = .vacate then .vacating else .ending, ending := some cause, endCycle := s.cycle, ran := s.ranCores p
    waiter := waiter, target := (t.part p).job.target, endTime := (t.part p).job.endTime } ∧
    (t.part p).requests = [] ∧ (t.part p).cfg = (s.part p).cfg ∧
    (∀ cl ∈ s.clustersOf p, (t.cluster cl).quiesce = true ∧
      (t.cluster cl).quiesceAbort = (cause != .deactivation) ∧ (t.cluster cl).tmExec = (s.cluster cl).tmExec.map fun e =>
        if cause = .deactivation ∨ bits (e.words.getD 0 0) 3 0 = 4 ∨ e.done = true then e
        else { e with status := 0x07, done := true, pinned := none }) ∧
    (∀ q, q ≠ p → (t.part q).job = (s.part q).job ∧ (t.part q).cfg = (s.part q).cfg) ∧ t.mem = s.mem ∧ (cause = .deactivation → t.nougat = s.nougat)

/-- The job of partition p is over: its end recorded, its clusters zeroised, its pins and contexts gone (17 R383 steps 3 to 5). -/
def jobOver (s t : State) (p : Fin 12) (cause : EndCause) : Prop :=
  (t.part p).job = { state := .none, endCause := some cause, kof := (t.part p).job.kof, endTime := s.time } ∧
    (t.part p).cfg = (s.part p).cfg ∧ (∀ cl ∈ s.clustersOf p, clusterZeroed t cl) ∧ (t.part p).slots = [] ∧
    (t.part p).watches = [] ∧ (t.part p).ledger = []

/-- The functions fs were reset: their queues, features and events are gone and their waiting commands discarded, but for an operation
accepted under the semaphore and a command in its data phase, which goes on without its completion; no job, configuration or pin changed
(16 R359, R360, R368). A controller reset, whole = false, keeps the admin queue registers and the MSI-X table (log 117). -/
def functionsReset (s t : State) (whole : Bool) (fs : List FnId) : Prop :=
  (∀ f ∈ fs, t.fn f = { s.fn f with
    sqs := [], cqs := [], feats := [], aers := [], events := [], changed := [], apst := []
    bar0 := if whole then {} else
      { aqa := (s.fn f).bar0.aqa, asq := (s.fn f).bar0.asq, acq := (s.fn f).bar0.acq, msix := (s.fn f).bar0.msix } }) ∧
    (∀ f, f ∉ fs → t.fn f = s.fn f) ∧ (∀ x ∈ t.heldCmds, heldOf fs x = true → heldDispatched x = true ∨ x.isSem = true) ∧
    (∀ x ∈ s.heldCmds, heldOf fs x = false ∨ x.isSem = true → x ∈ t.heldCmds) ∧
    (∀ p : Fin 12, ((s.part p).job.state ≠ .restoring → (s.part p).job.state ≠ .loading → (t.part p).job.state = (s.part p).job.state) ∧
      (t.part p).cfg = (s.part p).cfg ∧ (t.part p).ledger = (s.part p).ledger) ∧
    t.mem = s.mem ∧ t.cores = s.cores ∧ t.nougat = s.nougat ∧ t.buffer = s.buffer

/-- A root record r was written at offset a: with the next SEQ, to the region that does not hold the newest one, its bytes in the
configuration flash, its map in force (13 R299 to R302). -/
def rootAtIs (s t : State) (a : Nat) (r : RootRec) : Prop :=
  t.rootAt = some a ∧ SMap.get (fun _ => (none : Option RootRec)) t.rootRecs a = some r ∧ t.rootSeq = r.seq ∧ r.seq = s.rootSeq + 1 ∧
    (∀ b, s.rootAt = some b → regionOf a = !regionOf b) ∧ r.time = s.time ∧ t.journal = 0 ∧
    ∀ i, i < r.size → t.cflByte (a + i) = (recordBytes r).getD i 0

/-- A root commit at s: the record that was written holds the sanitize state and the arbitration now in force. -/
def rootCommitted (s t : State) : Prop :=
  banksIdle s → ∃ a r, rootAtIs s t a r ∧ r.san = t.san ∧ r.arb = t.arb

/-- t but for what a root commit of s changes. -/
def beforeRoots (s t : State) : State :=
  { t with
    cfl := s.cfl, rootRecs := s.rootRecs, rootAt := s.rootAt, rootSeq := s.rootSeq, rootTime := s.rootTime, journal := s.journal
    modLog := s.modLog, buffer := s.buffer }

/-- A sanitize started: its action, and at once no buffered data, no map, no residency (13 R306). -/
def sanitizeStarted (s t : State) (h : Hdr) (a : SanAction) : Prop :=
  t.san = { active := some a, failed := false, succeeded := false } ∧ (∀ b ∈ t.buffer, b.kind ≠ .unit) ∧ t.stripes = [] ∧ t.nougat = [] ∧
    (∀ n x, x < 2 ^ 38 → (∃ v, s.ns n = some v) → t.mapAt n x = 0) ∧ zeroed t 0 d1Reserve ∧ zeroed t d2Base (d2Reserve - d2Base) ∧
    .completion h 0 0 0 ∈ t.outbox ∧ rootCommitted s t

/-- The invariant of the module: its memory and its configuration flash keep their canonical form, MOD_OWNSEM names a port or none (16
R366), locks and the index reads of a cluster are numbered in their order, and every candidate queue, and one kept from before a cycle's operations, is one of 04 R107. -/
def inv (s : State) : Prop :=
  Memory.wf s.mem = true ∧ SMap.wf (fun _ => (0xFF : Byte)) s.cfl = true ∧ s.ownsem ≠ 3 ∧ locksNumbered s ∧ (∀ cl, ixNumbered s cl) ∧
    ∀ c, queueOrdered (s.core c).cq ∧ ∀ n q, (s.core c).cqWas = some (n, q) → queueOrdered q

end Sys2Proof.Claims

open Sys2Proof Sys2Proof.Machine Sys2Proof.Claims

/-- A step takes the command at the front of the queue and runs it with the rest; with no command waiting a tick passes, which the
model does (log 4). -/
def Obligations.StepRunsTheFrontCommand : Prop :=
  ∀ (s : State) (c : Instr) (rest : List Instr),
    step { s with pending := c :: rest } = exec c { s with pending := rest }

/-- Table 3-4, major 0x01: result and completion of every operation with its must-be-zero field 0, and nothing else changed. -/
def Obligations.ScalarAluResult : Prop :=
  ∀ (s : State) (c : CoreId) (op : AluOp) (rd ra rb : BitVec 5),
    ready s c 4 [.s ra, .s rb, .s rd] = true → (op.unary = true → rb = 0) →
    ∃ t v, exec (.alu c op rd ra rb) s = .next t ∧
      aluMeans op (((fetched s c 4).core c).sreg ra) (((fetched s c 4).core c).sreg rb) v ∧
      completed (fetched s c 4) t c 4 (((fetched s c 4).core c).setS rd v)

/-- Table 3-5: the immediate operations and the two-word constants. -/
def Obligations.ScalarImmediateResult : Prop :=
  ∀ (s : State) (c : CoreId) (rd ra : BitVec 5),
    (ready s c 4 [.s ra, .s rd] = true →
      (∀ (op : ImmOp) (imm : BitVec 16), ∃ t v, exec (.addi c op rd ra imm) s = .next t ∧
        immMeans op (((fetched s c 4).core c).sreg ra) imm v ∧
        completed (fetched s c 4) t c 4 (((fetched s c 4).core c).setS rd v)) ∧
      (∀ imm : BitVec 16, imm.toNat < 256 → ∃ t v, exec (.shifti c rd ra imm) s = .next t ∧
        shiftMeans (((fetched s c 4).core c).sreg ra) imm v ∧
        completed (fetched s c 4) t c 4 (((fetched s c 4).core c).setS rd v))) ∧
    (ready s c 8 [.s ra, .s rd] = true → ∀ imm : BitVec 32,
      (∃ t v, exec (.addi32 c rd ra imm) s = .next t ∧
        v.toNat = (((((fetched s c 8).core c).sreg ra).toNat : Int) + imm.toInt + 2 ^ 64).toNat % 2 ^ 64 ∧
        completed (fetched s c 8) t c 8 (((fetched s c 8).core c).setS rd v)) ∧
      (∃ t v, exec (.lih32 c rd ra imm) s = .next t ∧
        v.toNat = imm.toNat * 2 ^ 32 + (((fetched s c 8).core c).sreg ra).toNat % 2 ^ 32 ∧
        completed (fetched s c 8) t c 8 (((fetched s c 8).core c).setS rd v))) ∧
    (ready s c 8 [.s rd] = true → ∀ imm : BitVec 32, ∃ t v, exec (.li32 c rd imm) s = .next t ∧
        v.toInt = imm.toInt ∧ completed (fetched s c 8) t c 8 (((fetched s c 8).core c).setS rd v))

/-- Table 3-4, major 0x09, and R75. -/
def Obligations.MultiplyDivideResult : Prop :=
  ∀ (s : State) (c : CoreId) (rd ra rb : BitVec 5), ready s c 4 [.s ra, .s rb, .s rd] = true →
    (∀ op : MulOp, ∃ t v, exec (.mul c op rd ra rb) s = .next t ∧
      mulMeans op (((fetched s c 4).core c).sreg ra) (((fetched s c 4).core c).sreg rb) v ∧
      completed (fetched s c 4) t c 4 (((fetched s c 4).core c).setS rd v)) ∧
    (∀ op : DivOp, ∃ t v, exec (.div c op rd ra rb) s = .next t ∧
      divMeans op (((fetched s c 4).core c).sreg ra) (((fetched s c 4).core c).sreg rb) v ∧
      completed (fetched s c 4) t c 4 (((fetched s c 4).core c).setS rd v))

/-- R69. -/
def Obligations.ScalarRegisterZero : Prop :=
  ∀ (k : Core) (v : Word),
    k.sreg 0 = 0 ∧ k.setS 0 v = k ∧ k.awaits (.s 0) = false ∧
    ∀ (n m : BitVec 5), n ≠ 0 → (k.setS n v).sreg m = if m = n then v else k.sreg m

/-- R85 to R87. -/
def Obligations.BranchesAndJumps : Prop :=
  ∀ (s : State) (c : CoreId),
    (∀ (op : BrOp) (ra rb : BitVec 5) (off : BitVec 16), ready s c 4 [.s ra, .s rb] = true →
      let k := (fetched s c 4).core c
      ∃ t, exec (.branch c op ra rb off) s = .next t ∧
        (branchMeans op (k.sreg ra) (k.sreg rb) →
          continued (fetched s c 4) t c k (BitVec.ofInt 32 ((k.pc.toNat : Int) + off.toInt * 4))) ∧
        (¬ branchMeans op (k.sreg ra) (k.sreg rb) → completed (fetched s c 4) t c 4 k)) ∧
    (∀ (rd : BitVec 5) (off : BitVec 21), ready s c 4 [.s rd] = true →
      let k := (fetched s c 4).core c
      ∃ t v, exec (.jal c rd off) s = .next t ∧ v.toNat = (k.pc.toNat + 4) % 2 ^ 32 ∧
        continued (fetched s c 4) t c (k.setS rd v) (BitVec.ofInt 32 ((k.pc.toNat : Int) + off.toInt * 4))) ∧
    (∀ (rd ra : BitVec 5) (imm : BitVec 16), ready s c 4 [.s ra, .s rd] = true →
      let k := (fetched s c 4).core c
      let a := k.sreg ra + imm.signExtend 64
      ∃ t v, exec (.jalr c rd ra imm) s = .next t ∧ v.toNat = (k.pc.toNat + 4) % 2 ^ 32 ∧
        (a.toNat < 2 ^ 32 → continued (fetched s c 4) t c (k.setS rd v) (a.truncate 32)) ∧
        (2 ^ 32 ≤ a.toNat → tookException ((fetched s c 4).setCore c
          { k.setS rd v with pc := a.truncate 32, retired := k.retired + 1 }) t c 2 none))

/-- R90, R73, R61: BREAK and an undefined encoding take their exceptions, ERET returns from a handler and outside one is ILLEGAL. -/
def Obligations.ExceptionEntryAndReturn : Prop :=
  ∀ (s : State) (c : CoreId), ready s c 4 [] = true →
    (∃ t, exec (.brk c) s = .next t ∧ tookException (fetched s c 4) t c 0x0E none) ∧
    (∀ w : W32, ∃ t, exec (.illegal c w) s = .next t ∧ tookException (fetched s c 4) t c 0x01 none) ∧
    (((fetched s c 4).core c).inHandler = true →
      let k := (fetched s c 4).core c
      ∃ t, exec (.eret c) s = .next t ∧
        continued (fetched s c 4) t c { k with cause := 0, inHandler := false } k.excPc) ∧
    (((fetched s c 4).core c).inHandler = false →
      ∃ t, exec (.eret c) s = .next t ∧ tookException (fetched s c 4) t c 0x01 none)

/-- R77, 02 R36: a load, vector load or atomic whose address is in order becomes outstanding; one that is not takes the exception
R77 names, with the faulting address of R78. A vector load under a predicate of all zeros writes zeros and makes no access (R79). -/
def Obligations.LoadsBecomeOutstanding : Prop :=
  ∀ (s : State) (c : CoreId) (g : Bool) (ra : BitVec 5),
    let f := fetched s c 4
    let k := f.core c
    (∀ (sz : LdSize) (rt : BitVec 5) (imm : BitVec 12), ready s c 4 [.s ra, .s rt] = true →
      let ea : Word := k.sreg ra + BitVec.ofInt 64 (imm.toInt * loadBytes sz)
      (∀ loc m, f.checkAccess c g ea (loadBytes sz) false = .at loc m → loadRoom k = true →
        ∃ t, exec (.ld c sz g rt ra imm) s = .next t ∧ loadIssued f t c (.scalar sz rt) m (f.excView c g ea)) ∧
      (∀ cause a, f.checkAccess c g ea (loadBytes sz) false = .exc cause a →
        ∃ t, exec (.ld c sz g rt ra imm) s = .next t ∧ tookException f t c cause (some a))) ∧
    (∀ (p : Bool) (pg : BitVec 3) (vt : BitVec 4) (imm : BitVec 12), ready s c 4 [.s ra, .p pg, .v vt] = true →
      let ea : Word := k.sreg ra + BitVec.ofInt 64 (imm.toInt * 64)
      let mask : Word := if p then k.preg pg else BitVec.allOnes 64
      (mask = 0 → ∃ t, exec (.vld c g p pg vt ra imm) s = .next t ∧ completed f t c 4 (k.setV vt 0)) ∧
      (∀ loc m, mask ≠ 0 → f.checkAccess c g ea 64 false = .at loc m → loadRoom k = true →
        ∃ t, exec (.vld c g p pg vt ra imm) s = .next t ∧ loadIssued f t c (.vector vt mask) m (f.excView c g ea)) ∧
      (∀ cause a, mask ≠ 0 → f.checkAccess c g ea 64 false = .exc cause a →
        ∃ t, exec (.vld c g p pg vt ra imm) s = .next t ∧ tookException f t c cause (some a))) ∧
    (∀ (op : AmoOp) (w : Bool) (rd rb : BitVec 5), ready s c 4 [.s ra, .s rb, .s rd] = true →
      let size := if w then 4 else 8
      (∀ loc m, f.checkAccess c g (k.sreg ra) size true = .at loc m → loadRoom k = true →
        ∃ t, exec (.amo c op g w rd ra rb) s = .next t ∧
          loadIssued f t c (.atomic op w rd (k.sreg rb) (k.sreg rd)) m (f.excView c g (k.sreg ra))) ∧
      (∀ cause a, f.checkAccess c g (k.sreg ra) size true = .exc cause a →
        ∃ t, exec (.amo c op g w rd ra rb) s = .next t ∧ tookException f t c cause (some a)))

/-- R77, R79, 02 R36, 03 R84: stores are buffered, and the fences take their place in the core's order. -/
def Obligations.StoresAndFencesIssue : Prop :=
  ∀ (s : State) (c : CoreId),
    let f := fetched s c 4
    let k := f.core c
    (∀ (sz : StSize) (g : Bool) (rt ra : BitVec 5) (imm : BitVec 12), ready s c 4 [.s ra, .s rt] = true →
      let ea : Word := k.sreg ra + BitVec.ofInt 64 (imm.toInt * storeBytes sz)
      (∀ loc m, f.checkAccess c g ea (storeBytes sz) true = .at loc m → storeRoom k = true →
        ∃ t d mask, exec (.st c sz g rt ra imm) s = .next t ∧ storeBuffered f t c m d mask ∧
          d.toNat = (k.sreg rt).toNat ∧ mask.toNat = 2 ^ storeBytes sz - 1) ∧
      (∀ cause a, f.checkAccess c g ea (storeBytes sz) true = .exc cause a →
        ∃ t, exec (.st c sz g rt ra imm) s = .next t ∧ tookException f t c cause (some a))) ∧
    (∀ (g p : Bool) (pg : BitVec 3) (vt : BitVec 4) (ra : BitVec 5) (imm : BitVec 12),
      ready s c 4 [.s ra, .p pg, .v vt] = true →
      let ea : Word := k.sreg ra + BitVec.ofInt 64 (imm.toInt * 64)
      let mask : Word := if p then k.preg pg else BitVec.allOnes 64
      (mask = 0 → ∃ t, exec (.vst c g p pg vt ra imm) s = .next t ∧ completed f t c 4 k) ∧
      (∀ loc m, mask ≠ 0 → f.checkAccess c g ea 64 true = .at loc m → storeRoom k = true →
        ∃ t, exec (.vst c g p pg vt ra imm) s = .next t ∧ storeBuffered f t c m (k.vreg vt) mask) ∧
      (∀ cause a, mask ≠ 0 → f.checkAccess c g ea 64 true = .exc cause a →
        ∃ t, exec (.vst c g p pg vt ra imm) s = .next t ∧ tookException f t c cause (some a))) ∧
    (ready s c 4 [] = true →
      (∃ t, exec (.fenceFull c) s = .next t ∧ completed f t c 4 { k with fullFence := k.memSeq }) ∧
      (∃ t, exec (.fenceStore c) s = .next t ∧ completed f t c 4 { k with storeFence := k.memSeq }) ∧
      (∃ t, exec (.fenceLoad c) s = .next t ∧ completed f t c 4 { k with loadFence := k.memSeq }) ∧
      (∃ t, exec (.fenceIfetch c) s = .next t ∧ completed f t c 4 k))

/-- 02 R36, R37, 03 Tables 3-6 and 3-7, R80: a load that its slot's order and its bank let through reads the memory, writes its
register and counts as retired; an uncorrectable error is a machine check at its PC instead. A steal returns what it was served (R55). -/
def Obligations.LoadReturnWritesItsRegister : Prop :=
  ∀ (s : State) (c : CoreId) (i : Fin 8) (l : OutLoad),
    (s.core c).loads[i.val]? = some l → l.dead = false → (s.core c).firstAt l.addr l.seq = true →
    s.bankServes c l.addr l.issued l.aged = true →
    let b := s.served c l.addr l.aged
    let done (u t : State) (k : Core) : Prop :=
      onlyCore u t c { k with loads := (u.core c).loads.erase l, retired := (u.core c).retired + 1 }
    let failed (u : State) : Prop := plainCheck u c →
      ∃ t, exec (.loadReturn c i) s = .next t ∧ machineChecked u t c l.pc (some l.vaddr)
    (∀ sz rt, l.kind = .scalar sz rt →
      let g := b.readMem l.addr (loadBytes sz)
      (g.ues = [] → ∃ t w, exec (.loadReturn c i) s = .next t ∧ loadMeans sz (leValue g.data) w ∧
        done g.st t ((g.st.core c).setS rt w)) ∧ (g.ues ≠ [] → failed g.st)) ∧
    (∀ vt mask, l.kind = .vector vt mask →
      let g := b.readMem l.addr 64
      (ueTouches g.ues l.addr mask = false → ∃ t w, exec (.loadReturn c i) s = .next t ∧
        (∀ j, j < 64 → elem w 1 j = if mask.getLsbD j then (g.data.getD j 0).toNat else 0) ∧
        done g.st t ((g.st.core c).setV vt w)) ∧ (ueTouches g.ues l.addr mask = true → failed g.st)) ∧
    (∀ op w rd rb old, l.kind = .atomic op w rd rb old →
      let n := if w then 4 else 8
      let g := b.readMem l.addr n
      let new := amoResult op (8 * n) (leValue g.data) (rb.toNat % 2 ^ (8 * n)) (old.toNat % 2 ^ (8 * n))
      let u := g.st.writeMem l.addr ((toBytes new n).map some)
      (g.ues = [] → ∃ t v, exec (.loadReturn c i) s = .next t ∧ v.toNat = leValue g.data ∧
        done u t ((u.core c).setS rd v)) ∧ (g.ues ≠ [] → failed g.st)) ∧
    (∀ rd,
      (∀ w n, l.kind = .steal rd (some (w, n)) →
        ∃ t, exec (.loadReturn c i) s = .next t ∧ done s t ((s.core c).setS rd w)) ∧
      (l.kind = .steal rd none → exec (.loadReturn c i) s = .next s)) ∧
    (∀ rt, l.kind = .test rt →
      let u := b.repairTag l.addr
      ∃ t, exec (.loadReturn c i) s = .next t ∧
        done u t ((u.core c).setS rt (if u.tagFull l.addr then 1 else 0)))

/-- 02 R36: a buffered store that its order lets through writes exactly the bytes of its slot that its mask names, where no stored
error stands in memory. -/
def Obligations.StoreWritesExactlyItsBytes : Prop :=
  ∀ (s : State) (c : CoreId) (i : Fin 16) (x : BufStore), s.flips = [] → s.inject = [] →
    (s.core c).stores[i.val]? = some x →
    (s.core c).firstAt x.addr x.seq = true → (∀ u ∈ (s.core c).stores, x.after ≤ u.seq) →
    s.bankServes c x.addr x.issued x.aged = true →
    ∃ t, exec (.storeTakesEffect c i) s = .next t ∧
      (∀ j, j < 64 - x.addr % 64 → x.mask.getLsbD j = true →
        (Memory.byte t.mem (x.addr + j)).toNat = x.data.toNat / 2 ^ (8 * j) % 256) ∧
      (∀ a, (a < x.addr ∨ x.addr / 64 ≠ a / 64 ∨ x.mask.getLsbD (a - x.addr) = false) →
        Memory.byte t.mem a = Memory.byte s.mem a) ∧
      t.core c = { s.core c with stores := (s.core c).stores.erase x } ∧ (∀ d, d ≠ c → t.core d = s.core d) ∧
      { t with mem := s.mem, cores := s.cores, clusters := s.clusters } = s

/-- 02 R33, R59: a core that issues at a PC it cannot fetch takes exception 0x02 there, whatever the instruction; R73: a word that breaks a
must-be-zero field takes 0x01; 09 R215, 02 R63: a word that reads with an uncorrectable error is a machine check, in which the core is FAULTED
at its PC, unless what the error brings about has left the core in RESET. -/
def Obligations.IssueExceptions : Prop :=
  ∀ (s : State) (c : CoreId) (n : Nat) (legal : Bool) (srcs dsts : List Reg) (f : State → Core → Act), s.issues c = true →
    (fetchable c (s.core c).pc = false → ∃ t, s.issue c n legal srcs dsts f = .next t ∧ tookException s t c 2 none) ∧
    (fetchable c (s.core c).pc = true → n ≠ 4 → fetchable c ((s.core c).pc + 4) = false →
      ∃ t, s.issue c n legal srcs dsts f = .next t ∧ tookException s t c 2 none) ∧
    (legal = false → ready s c n [] = true →
      ∃ t, s.issue c n legal srcs dsts f = .next t ∧ tookException (fetched s c n) t c 1 none) ∧
    (fetchable c (s.core c).pc = true → (n = 4 ∨ fetchable c ((s.core c).pc + 4) = true) →
      (s.readMem (clusterAddr c.cl (s.core c).pc.toNat) n).ues ≠ [] → plainCheck (fetched s c n) c →
      ∃ t, s.issue c n legal srcs dsts f = .next t ∧ machineChecked (fetched s c n) t c ((fetched s c n).core c).pc none)

/-- Tables 3-11 and 3-12, R70, R71, R509, R96: the element operations under predication. -/
def Obligations.VectorElementResult : Prop :=
  ∀ (s : State) (c : CoreId) (vd va vb : BitVec 4) (pr : Pred), ready s c 4 [.v va, .v vb, .v vd, .p pr.pg] = true →
    let f := fetched s c 4
    let k := f.core c
    (∀ (op : VIntOp) (sz : ESz), (op = .vpopc → vb = 0) → ∃ t r, exec (.vint c op sz vd va vb pr) s = .next t ∧
      completed f t c 4 (k.setV vd r) ∧ predicated k pr (esz sz) (k.vreg vd) r fun e x =>
        vintMeans op (8 * esz sz) (elem (k.vreg va) (esz sz) e) (elem (k.vreg vb) (esz sz) e) x) ∧
    (∀ op : VFpOp, (op = .vfabs ∨ op = .vfneg → vb = 0) → ∃ t r, exec (.vfp c op vd va vb pr) s = .next t ∧
      completed f t c 4 (k.setV vd r) ∧ predicated k pr 4 (k.vreg vd) r fun e x =>
        x = vfpElem op (elem (k.vreg va) 4 e) (elem (k.vreg vb) 4 e) (elem (k.vreg vd) 4 e) % 2 ^ 32) ∧
    (∃ t r, exec (.vperm c vd va vb pr) s = .next t ∧
      completed f t c 4 (k.setV vd r) ∧ predicated k pr 1 (k.vreg vd) r fun e x =>
        x = if elem (k.vreg vb) 1 e / 128 % 2 = 1 then 0 else elem (k.vreg va) 1 (elem (k.vreg vb) 1 e % 64))

/-- R91: NaN in, infinity minus infinity and zero times infinity give 0x7FC00000, an exact zero sum is +0.0 unless both addends
are -0.0, and products carry the exclusive-or of the signs. -/
def Obligations.FloatSpecialCases : Prop :=
  ∀ a b d : Nat, a < 2 ^ 32 → b < 2 ^ 32 → d < 2 ^ 32 →
    ((f32Of a).isNan = true ∨ (f32Of b).isNan = true →
      fadd a b = 0x7FC00000 ∧ fsub a b = 0x7FC00000 ∧ fmul a b = 0x7FC00000 ∧ ffma a b d = 0x7FC00000 ∧
      fmin a b = 0x7FC00000 ∧ fmax a b = 0x7FC00000) ∧
    ((f32Of d).isNan = true → ffma a b d = 0x7FC00000) ∧
    (∀ n, f32Of a = .inf n → f32Of b = .inf n → fadd a b = a ∧ fsub a b = 0x7FC00000) ∧
    (∀ n m, f32Of a = .inf n → f32Of b = .inf m → fmul a b = if n = m then 0x7F800000 else 0xFF800000) ∧
    (∀ n, f32Of a = .inf n → b % 2 ^ 31 = 0 → fmul a b = 0x7FC00000 ∧ fmul b a = 0x7FC00000) ∧
    ((f32Of a).isFin = true → fsub a a = 0) ∧
    (a % 2 ^ 31 = 0 → b % 2 ^ 31 = 0 → fadd a b = (if a = 2 ^ 31 ∧ b = 2 ^ 31 then 2 ^ 31 else 0) ∧
      fmul a b = if a = b then 0 else 2 ^ 31)

/-- R92 to R95, R97: conversions, comparisons, moves, reductions and predicate operations. -/
def Obligations.VectorConvertCompareReduce : Prop :=
  ∀ (s : State) (c : CoreId),
    let f := fetched s c 4
    let k := f.core c
    (∀ (op : CvtOp) (h : Bool) (vd va : BitVec 4) (pr : Pred), (op.halfZero = true → h = false) →
      ready s c 4 [.v va, .v vd, .p pr.pg] = true →
      ∃ t r, exec (.vcvt c op h vd va pr) s = .next t ∧ completed f t c 4 (k.setV vd r) ∧
        match op with
        | .f32bf16 | .f32f16 => ∀ e, e < 32 → elem r 2 e =
            if e / 16 = (if h then 1 else 0) then
              if !pr.p || (k.preg pr.pg).getLsbD (e * 2) then
                if op = .f32bf16 then encodeIeee 8 7 (f32Of (elem (k.vreg va) 4 (e % 16))) % 2 ^ 16
                else encodeIeee 5 10 (f32Of (elem (k.vreg va) 4 (e % 16))) % 2 ^ 16
              else if pr.z then 0 else elem (k.vreg vd) 2 e
            else elem (k.vreg vd) 2 e
        | _ => predicated k pr 4 (k.vreg vd) r fun e x =>
            match op with
            | .bf16f32 => x = elem (k.vreg va) 2 ((if h then 16 else 0) + e) * 2 ^ 16
            | .f16f32 => x = widenF16 (elem (k.vreg va) 2 ((if h then 16 else 0) + e)) % 2 ^ 32
            | .f32i32 => sval 32 x = (f32Of (elem (k.vreg va) 4 e)).toInt 32
            | _ => x = f32Bits (.ofInt (sval 32 (elem (k.vreg va) 4 e))) % 2 ^ 32) ∧
    (∀ (op : CmpOp) (sz : ESz) (pd : BitVec 3) (va vb : BitVec 4) (pr : Pred), (op.float = true → sz = .b4) →
      ready s c 4 [.v va, .v vb, .p pd, .p pr.pg] = true →
      ∃ t r, exec (.vcmp c op sz pd va vb pr) s = .next t ∧ completed f t c 4 (k.setP pd r) ∧
        ∀ i, i < 64 → r.getLsbD i = ((!pr.p || (k.preg pr.pg).getLsbD (i / esz sz * esz sz)) &&
          cmpMeans op (8 * esz sz) (elem (k.vreg va) (esz sz) (i / esz sz)) (elem (k.vreg vb) (esz sz) (i / esz sz)))) ∧
    (∀ (sz : ESz) (rs : BitVec 5) (vx : BitVec 4) (p : Bool) (pg : BitVec 3),
      ready s c 4 [.s rs, .v vx, .p pg] = true →
      (∃ t r, exec (.vbcast c sz rs vx p pg) s = .next t ∧ completed f t c 4 (k.setV vx r) ∧
        predicated k ⟨p, pg, false⟩ (esz sz) (k.vreg vx) r fun _ x => x = (k.sreg rs).toNat % 2 ^ (8 * esz sz)) ∧
      (∃ t r, exec (.vextr c sz rs vx) s = .next t ∧ completed f t c 4 (k.setS rs r) ∧
        r.toNat = elem (k.vreg vx) (esz sz) ((k.sreg rs).toNat % (64 / esz sz))) ∧
      (let live := (List.range (64 / esz sz)).filter fun e => !p || (k.preg pg).getLsbD (e * esz sz)
       let xs := live.map fun e => elem (k.vreg vx) (esz sz) e
       ∀ op : RedOp, (op.float = true → sz = .b4) →
        ∃ t r, exec (.vred c op sz rs vx p pg) s = .next t ∧ completed f t c 4 (k.setS rs r) ∧
          match op with
          | .sum => r = BitVec.ofInt 64 (xs.map (sval (8 * esz sz))).sum
          | .maxu => (∀ x ∈ xs, x ≤ r.toNat) ∧ (r.toNat = 0 ∨ r.toNat ∈ xs)
          | .minu => (∀ x ∈ xs, r.toNat ≤ x) ∧ (r.toNat = 2 ^ (8 * esz sz) - 1 ∨ r.toNat ∈ xs)
          | .max => (∀ x ∈ xs, sval (8 * esz sz) x ≤ r.toInt) ∧
              (r.toInt = -2 ^ (8 * esz sz - 1) ∨ ∃ x ∈ xs, r.toInt = sval (8 * esz sz) x)
          | .min => (∀ x ∈ xs, r.toInt ≤ sval (8 * esz sz) x) ∧
              (r.toInt = 2 ^ (8 * esz sz - 1) - 1 ∨ ∃ x ∈ xs, r.toInt = sval (8 * esz sz) x)
          | .fsum =>
              let x (e : Nat) := if !p || (k.preg pg).getLsbD (e * 4) then elem (k.vreg vx) 4 e else 0
              let p2 (e : Nat) := fadd (x (2 * e)) (x (2 * e + 1))
              let p4 (e : Nat) := fadd (p2 (2 * e)) (p2 (2 * e + 1))
              r.toNat = fadd (fadd (p4 0) (p4 1)) (fadd (p4 2) (p4 3)) % 2 ^ 64
          | .fmax => r.toNat = xs.foldl fmax 0xFF800000 % 2 ^ 64)) ∧
    (∀ (rd ra rb : BitVec 3),
      runs (.pred c .pand (rd.zeroExtend 5) (ra.zeroExtend 5) (rb.zeroExtend 5)) s c [.p ra, .p rb, .p rd]
        (fun k => k.setP rd (k.preg ra &&& k.preg rb)) ∧
      runs (.pred c .por (rd.zeroExtend 5) (ra.zeroExtend 5) (rb.zeroExtend 5)) s c [.p ra, .p rb, .p rd]
        (fun k => k.setP rd (k.preg ra ||| k.preg rb)) ∧
      runs (.pred c .pxor (rd.zeroExtend 5) (ra.zeroExtend 5) (rb.zeroExtend 5)) s c [.p ra, .p rb, .p rd]
        (fun k => k.setP rd (k.preg ra ^^^ k.preg rb)) ∧
      runs (.pred c .pandn (rd.zeroExtend 5) (ra.zeroExtend 5) (rb.zeroExtend 5)) s c [.p ra, .p rb, .p rd]
        (fun k => k.setP rd (k.preg ra &&& ~~~ k.preg rb)) ∧
      runs (.pred c .pnot (rd.zeroExtend 5) (ra.zeroExtend 5) 0) s c [.p ra, .p rd] (fun k => k.setP rd (~~~ k.preg ra))) ∧
    (∀ (pd : BitVec 3) (r : BitVec 5),
      runs (.pred c .pfroms (pd.zeroExtend 5) r 0) s c [.s r, .p pd] (fun k => k.setP pd (k.sreg r)) ∧
      runs (.pred c .stop r (pd.zeroExtend 5) 0) s c [.p pd, .s r] (fun k => k.setS r (k.preg pd)) ∧
      runs (.pred c .pcnt r (pd.zeroExtend 5) 0) s c [.p pd, .s r]
        (fun k => k.setS r (BitVec.ofNat 64 ((List.range 64).filter fun i => (k.preg pd).getLsbD i).length)) ∧
      runs (.pred c .pfirst r (pd.zeroExtend 5) 0) s c [.p pd, .s r]
        (fun k => k.setS r (BitVec.ofNat 64 (((List.range 64).find? fun i => (k.preg pd).getLsbD i).getD 64))))

/-- 04 R103, R104, R106: sketch distances, product-code sums and filters. The last clause of each is what an inactive result element
holds. -/
def Obligations.SearchUnitResult : Prop :=
  ∀ (s : State) (c : CoreId),
    let f := fetched s c 4
    let k := f.core c
    (∀ (acc : Bool) (width : BitVec 2) (vd va vb : BitVec 4), ready s c 4 [.v va, .v vb, .v vd] = true →
      let w := if width.toNat = 0 then 16 else 64 * 2 ^ width.toNat
      ∃ t r, exec (.skdist c acc width vd va vb) s = .next t ∧ completed f t c 4 (k.setV vd r) ∧
        ∀ e, e < 32 →
          let d := ((List.range w).filter fun i =>
            (k.vreg va).getLsbD i != (k.vreg vb).getLsbD (e * w + i)).length
          let old := if acc then elem (k.vreg vd) 2 e else 0
          elem r 2 e = if e < 512 / w then min (old + d) 0xFFFF else old) ∧
    (∀ (rd ra rb : BitVec 5) (vx : BitVec 4), ready s c 4 [.s ra, .s rb, .v vx, .s rd] = true →
      let ctl := (k.sreg rb).toNat
      let x (i : Nat) := (k.sreg ra).toNat &&& elem (k.vreg vx) 8 (2 * i)
      let v (i : Nat) := elem (k.vreg vx) 8 (2 * i + 1)
      let code (i : Nat) := ctl / 16 ^ i % 16
      let holds (i : Nat) : Bool := match code i with
        | 1 => x i == v i
        | 2 => x i != v i
        | 3 => x i < v i
        | 4 => x i ≤ v i
        | 5 => v i < x i
        | 6 => v i ≤ x i
        | _ => false
      let present := (List.range 4).filter fun i => code i != 0
      ∃ t, exec (.ftest c rd ra rb vx) s = .next t ∧ completed f t c 4 (k.setS rd
        (if present = [] then 1
         else if ctl / 2 ^ 16 % 2 = 1 then (if present.any holds then 1 else 0)
         else if present.all holds then 1 else 0))) ∧
    (∀ (acc : Bool) (group : BitVec 2) (vd va : BitVec 4) (rs : BitVec 5), ready s c 4 [.v va, .s rs, .v vd] = true →
      let g := 8 * 2 ^ group.toNat
      let base := (k.sreg rs).toNat % 2 ^ 32
      let m0 := (k.sreg rs).toNat / 2 ^ 32 % 128
      let lo := clusterAddr c.cl base
      (base % 256 ≠ 0 → ∃ t, exec (.pqsum c acc group vd va rs) s = .next t ∧
        tookException f t c 4 (some (f.ownView c.cl base))) ∧
      (base % 256 = 0 → inOwnData c.k base ((m0 + g) * 256) = false →
        ∃ t, exec (.pqsum c acc group vd va rs) s = .next t ∧ tookException f t c 3 (some (f.ownView c.cl base))) ∧
      (base % 256 = 0 → inOwnData c.k base ((m0 + g) * 256) = true → k.stores = [] → f.flips = [] →
        ∃ t r, exec (.pqsum c acc group vd va rs) s = .next t ∧ completed f t c 4 (k.setV vd r) ∧
          ∀ j, j < 32 →
            let old := if acc then elem (k.vreg vd) 2 j else 0
            elem r 2 j = if j < 64 / g then
                min (old + ((List.range g).map fun i =>
                  (Memory.byte f.mem (lo + (m0 + i) * 256 + elem (k.vreg va) 1 (j * g + i))).toNat).sum) 0xFFFF
              else old))

/-- 04 R107 to R110: the candidate queue: insertion, the operations that read or clear it, a merge that inserts the entries another queue
held before this cycle's operations in order until one is refused, and a store of eight slots, which waits for room. How many entries of
the store buffer CQSTORE takes is the model's (log 93). -/
def Obligations.CandidateQueues : Prop :=
  ∀ (s : State) (c : CoreId) (rd ra : BitVec 5),
    let f := fetched s c 4
    let k := f.core c
    (ready s c 4 [.s ra, .s rd] = true → queueOrdered k.cq → ∃ t r, exec (.cqins c rd ra) s = .next t ∧
      insertMeans k.cq (k.sreg ra) r ∧ queueOrdered r.1 ∧
      completed f t c 4 ((withQueue k f.cycle r.1).setS rd (BitVec.ofNat 64 r.2))) ∧
    (ready s c 4 [.s rd] = true →
      (∃ t, exec (.cqpop c rd) s = .next t ∧
        completed f t c 4 ((withQueue k f.cycle k.cq.tail).setS rd (k.cq.headD (BitVec.allOnes 64)))) ∧
      (∃ t, exec (.cqpeek c rd) s = .next t ∧ completed f t c 4 (k.setS rd (k.cq.headD (BitVec.allOnes 64)))) ∧
      (∃ t, exec (.cqmax c rd) s = .next t ∧ completed f t c 4 (k.setS rd (k.cq.getLastD (BitVec.allOnes 64)))) ∧
      (∃ t, exec (.cqbound c rd) s = .next t ∧ completed f t c 4
        (k.setS rd (if k.cq.length = 64 then k.cq.getLastD (BitVec.allOnes 64) else BitVec.allOnes 64))) ∧
      (∃ t, exec (.cqcnt c rd) s = .next t ∧ completed f t c 4 (k.setS rd (BitVec.ofNat 64 k.cq.length)))) ∧
    (ready s c 4 [] = true → ∃ t, exec (.cqclr c) s = .next t ∧ completed f t c 4 (withQueue k f.cycle [])) ∧
    (ready s c 4 [.s ra, .s rd] = true → ∀ n : Fin 128, n.val = (k.sreg ra).toNat % 128 →
      (n = c.k → ∃ t, exec (.cqmerge c rd ra) s = .next t ∧ completed f t c 4 (k.setS rd 0)) ∧
      (n ≠ c.k → queueOrdered k.cq → queueOrdered (queueBefore (f.core ⟨c.cl, n⟩) f.cycle) →
        ∃ t r, exec (.cqmerge c rd ra) s = .next t ∧ mergeMeans k.cq (queueBefore (f.core ⟨c.cl, n⟩) f.cycle) 0 r ∧
          queueOrdered r.1 ∧ completed f t c 4 ((withQueue k f.cycle r.1).setS rd (BitVec.ofNat 64 r.2)))) ∧
    (ready s c 4 [.s ra, .s rd] = true →
      let a := (k.sreg ra).toNat
      a < 2 ^ 32 → (rangeMem a 512).isSome = true → a % 64 = 0 → touchesImem a 512 = false →
      (k.stores.length ≤ 8 → k.fullFenced = false →
        ∃ t xs, exec (.cqstore c rd ra) s = .next t ∧ xs.length = 8 ∧
          onlyCore f t c { k.setS rd (BitVec.ofNat 64 k.cq.length) with
            stores := k.stores ++ xs, memSeq := k.memSeq + 8, pc := k.pc + 4, retired := k.retired + 1 } ∧
          ∀ i x, xs[i]? = some x → x.addr = clusterAddr c.cl (a + 64 * i) ∧ x.seq = k.memSeq + i ∧
            x.mask = BitVec.allOnes 64 ∧ ∀ e, e < 8 → elem x.data 8 e = (k.cq.getD (8 * i + e) (BitVec.allOnes 64)).toNat) ∧
      (8 < k.stores.length ∨ k.fullFenced = true → exec (.cqstore c rd ra) s = .next f))

/-- 04 Table 4-7, R114 to R116, 09 R209 to R213: a full/empty access whose bank serves it is performed when the tag permits it; one that
the tag does not permit holds its core in WAITING, or HALTED where a halt request stands; one that is not served waits at its bank. SETE
and SETF set the tag and TEST becomes an outstanding read of it. -/
def Obligations.FullEmptyAccess : Prop :=
  ∀ (s : State) (c : CoreId) (g v : Bool) (r ra : BitVec 5) (imm : BitVec 10),
    ready s c 4 [.s ra, .s r, .v (r.truncate 4)] = true → ((fetched s c 4).core c).drained = true →
    let f := fetched s c 4
    let k := f.core c
    let n : Nat := if v then 64 else 8
    let ea : Word := k.sreg ra + BitVec.ofInt 64 (imm.toInt * n)
    (v = true → r.toNat < 16) →
    (∀ loc m, f.checkSlot c g ea n false = .at loc m → feTurn f c m →
      let u := feTaken f c m
      let held (kind : FeKind) : HeldFe :=
        { core := c.k, kind := kind, v := v, t := r, addr := BitVec.ofNat 32 ((m - winBase) % winSize), data := 0 }
      (u.tagFull m = true → (u.readMem m n).ues = [] →
        (∃ t, exec (.ldf c g v r ra imm) s = .next t ∧ slotLoaded u t c v r m false) ∧
        (∃ t, exec (.ldfe c g v r ra imm) s = .next t ∧ slotLoaded u t c v r m true)) ∧
      (u.tagFull m = false → k.haltReq = false →
        (∃ t, exec (.ldf c g v r ra imm) s = .next t ∧ slotAwaited u t c (held .ldf)) ∧
        (∃ t, exec (.ldfe c g v r ra imm) s = .next t ∧ slotAwaited u t c (held .ldfe))) ∧
      (u.tagFull m = false → k.haltReq = true → ∀ i, i = Instr.ldf c g v r ra imm ∨ i = .ldfe c g v r ra imm →
        gives i s fun t => (t.core c).mode = .halted ∧ (t.core c).pc = k.pc ∧ t.mem = u.mem ∧ t.tags = u.tags)) ∧
    (∀ loc m, f.checkSlot c g ea n true = .at loc m → feTurn f c m →
      let u := feTaken f c m
      let w := (u.writeMem m (slotData k v r)).setTag m true
      (u.tagFull m = false → ∃ t, exec (.stef c g v r ra imm) s = .next t ∧ completed w t c 4 (w.core c) ∧ w.tagFull m = true) ∧
      (u.tagFull m = true → k.haltReq = false → ∃ t, exec (.stef c g v r ra imm) s = .next t ∧ slotAwaited u t c
        { core := c.k, kind := .stef, v := v, t := r, addr := BitVec.ofNat 32 ((m - winBase) % winSize)
          data := if v then k.vreg (r.truncate 4) else (k.sreg r).zeroExtend 512 }) ∧
      (∃ t, exec (.stf c g v r ra imm) s = .next t ∧ completed w t c 4 (w.core c) ∧ w.tagFull m = true)) ∧
    (∀ loc m, f.checkSlot c g (k.sreg ra + BitVec.ofInt 64 (imm.toInt * 8)) 8 true = .at loc m → feTurn f c m →
      let u := feTaken f c m
      (∃ t, exec (.sete c g ra imm) s = .next t ∧ completed (u.setTag m false) t c 4 (u.core c) ∧
        (u.setTag m false).tagFull m = false) ∧
      (∃ t, exec (.setf c g ra imm) s = .next t ∧ completed (u.setTag m true) t c 4 (u.core c) ∧
        (u.setTag m true).tagFull m = true)) ∧
    (∀ loc m w, f.checkSlot c g ea n w = .at loc m → ¬ feTurn f c m →
      let i : Instr := if w then .stef c g v r ra imm else .ldf c g v r ra imm
      gives i s fun t => onlyCore f t c { k with feAt := some (m, k.feArrival m f.cycle) }) ∧
    (∀ loc m, f.checkSlot c g (k.sreg ra + BitVec.ofInt 64 (imm.toInt * 8)) 8 false = .at loc m → loadRoom k = true →
      ∃ t, exec (.test c g r ra imm) s = .next t ∧
        loadIssued f t c (.test r) m (f.excView c g (k.sreg ra + BitVec.ofInt 64 (imm.toInt * 8))))

/-- R116: of the accesses held at a slot, the first in order of arrival that its tag permits is performed when the bank serves it; its
core runs on and the access is no longer held. With none permitted, or none served, nothing changes. -/
def Obligations.HeldAccessRetry : Prop :=
  ∀ (s : State) (cl : Fin 32) (slot : BitVec 26),
    let m := clusterAddr cl (slot.toNat * 64)
    let may (e : HeldFe) : Bool :=
      e.addr.toNat / 64 = slot.toNat && s.tagFull m == (match e.kind with | .stef => false | _ => true)
    (∀ e, (s.cluster cl).held.find? may = some e →
      let c : CoreId := ⟨cl, e.core⟩
      let a := clusterAddr cl e.addr.toNat
      let n : Nat := if e.v then 64 else 8
      let u := s.feServed c m false
      let g := u.readMem a n
      let resumed (w t : State) (k : Core) : Prop :=
        t.core c = { k with mode := .running, wait := none, pc := k.pc + 4, retired := k.retired + 1 } ∧
        (∀ d, d ≠ c → t.core d = w.core d) ∧
        t.cluster cl = { w.cluster cl with held := (w.cluster cl).held.erase e } ∧ (∀ d, d ≠ cl → t.cluster d = w.cluster d) ∧
        { t with cores := w.cores, clusters := w.clusters } = w
      let loaded (k : Core) : Core :=
        if e.v then k.setV (e.t.truncate 4) (BitVec.ofNat 512 (leValue g.data)) else k.setS e.t (BitVec.ofNat 64 (leValue g.data))
      (s.bankServes c m s.cycle false = true →
        (e.kind = .stef → ∃ t, exec (.feRetry cl slot) s = .next t ∧
          let w := (u.writeMem a ((List.range n).map fun i => some (BitVec.ofNat 8 (e.data.toNat / 2 ^ (8 * i))))).setTag a true
          resumed w t (w.core c)) ∧
        (e.kind = .ldf → g.ues = [] → ∃ t, exec (.feRetry cl slot) s = .next t ∧ resumed g.st t (loaded (g.st.core c))) ∧
        (e.kind = .ldfe → g.ues = [] → ∃ t, exec (.feRetry cl slot) s = .next t ∧
          resumed (g.st.setTag a false) t (loaded (g.st.core c))) ∧
        (e.kind ≠ .stef → g.ues ≠ [] → plainCheck g.st c → ∃ t, exec (.feRetry cl slot) s = .next t ∧
          machineChecked g.st t c (g.st.core c).pc (some (g.st.ownView cl e.addr.toNat)))) ∧
      (s.bankServes c m s.cycle false = false → exec (.feRetry cl slot) s = .next s)) ∧
    ((s.cluster cl).held.find? may = none → exec (.feRetry cl slot) s = .next s)

/-- R119, R120, 02 R52 to R56, Table 2-7: the owner pushes and pops at the bottom, a steal takes the oldest visible entry, the only one
of a deque goes to an owner that pops in the same cycle, and the counts and the occupancy map read as they stand. -/
def Obligations.DequeOperations : Prop :=
  ∀ (s : State) (c : CoreId) (rd ra : BitVec 5),
    let f := fetched s c 4
    let k := f.core c
    let taken (u : Stolen) : Prop := k.stole = some u ∧ u.cycle = f.cycle ∧ u.word ≠ 0
    let lost (u : Stolen) : Prop := taken u ∧ k.deque = [] ∧
      ∃ l ∈ (f.core ⟨c.cl, u.thief⟩).loads, l.kind.isSteal = true ∧ l.seq = u.seq
    (ready s c 4 [.s ra, .s rd] = true →
      (k.sreg ra = 0 → ∃ t, exec (.dqpush c rd ra) s = .next t ∧ completed f t c 4 (k.setS rd 2)) ∧
      (k.sreg ra ≠ 0 → 64 ≤ k.deque.length ∨ (63 ≤ k.deque.length ∧ ∃ u, taken u) →
        ∃ t, exec (.dqpush c rd ra) s = .next t ∧ completed f t c 4 (k.setS rd 1)) ∧
      (k.sreg ra ≠ 0 → k.deque.length < 64 → (k.deque.length < 63 ∨ ∀ u, ¬ taken u) →
        ∃ t, exec (.dqpush c rd ra) s = .next t ∧ completed f t c 4 ({ k with deque := k.deque ++ [k.sreg ra] }.setS rd 0))) ∧
    (ready s c 4 [.s rd] = true →
      ((∀ u, ¬ lost u) → ∃ t, exec (.dqpop c rd) s = .next t ∧ completed f t c 4
        ({ k with deque := k.deque.dropLast, dqVisible := min k.dqVisible (k.deque.length - 1) }.setS rd (k.deque.getLastD 0))) ∧
      (∀ u, lost u → ∃ t, exec (.dqpop c rd) s = .next t ∧
        let d : CoreId := ⟨c.cl, u.thief⟩
        let w := f.setCore d { f.core d with loads := (f.core d).loads.map fun l => match l.kind with
          | .steal r _ => if l.seq = u.seq then { l with kind := .steal r (some (0, f.cycle)) } else l
          | _ => l }
        completed w t c 4 ({ w.core c with stole := some { u with word := 0 } }.setS rd u.word)) ∧
      (∃ t, exec (.dqcnt c rd) s = .next t ∧ completed f t c 4 (k.setS rd (BitVec.ofNat 64 k.deque.length)))) ∧
    (ready s c 4 [.s ra, .s rd] = true → ∃ t v, exec (.dqocc c rd ra) s = .next t ∧ completed f t c 4 (k.setS rd v) ∧
      ∀ i : Fin 64, v.getLsbD i.val = decide (0 < (f.core ⟨c.cl, ⟨(if (k.sreg ra).getLsbD 0 then 64 else 0) + i.val,
        by split <;> omega⟩⟩).visible)) ∧
    (∀ n : Fin 128, ready s c 4 [.s ra, .s rd] = true → k.loads.length < 8 →
      ((k.sreg ra).getLsbD 7 = false ∧ n.val = (k.sreg ra).toNat % 128) ∨
        ((k.sreg ra).getLsbD 7 = true ∧ n ≠ c.k ∧ 0 < (f.core ⟨c.cl, n⟩).visible ∧
          ∀ m : Fin 128, m ≠ c.k → (m.val + 127 - c.k.val) % 128 < (n.val + 127 - c.k.val) % 128 → (f.core ⟨c.cl, m⟩).visible = 0) →
      let r := stolen (f.core ⟨c.cl, n⟩) f.cycle c.k k.memSeq
      (noSteal (f.core ⟨c.cl, n⟩) f.cycle → (f.core ⟨c.cl, n⟩).nextThief (c.k :: f.thievesOf c.cl n) = some c.k →
        ∃ t, exec (.dqsteal c rd ra) s = .next t ∧
          loadIssued (f.setCore ⟨c.cl, n⟩ r.1) t c (.steal rd (some (r.2, f.cycle))) 0 0) ∧
      (¬ noSteal (f.core ⟨c.cl, n⟩) f.cycle ∨ (f.core ⟨c.cl, n⟩).nextThief (c.k :: f.thievesOf c.cl n) ≠ some c.k →
        ∃ t u, exec (.dqsteal c rd ra) s = .next t ∧ loadIssued f u c (.steal rd none) 0 0 ∧
          onlyCluster u t c.cl { u.cluster c.cl with heldSteals := (u.cluster c.cl).heldSteals ++
            [{ thief := c.k, rd := rd, victim := if (k.sreg ra).getLsbD 7 then none else some n }] })) ∧
    (ready s c 4 [.s ra, .s rd] = true → k.loads.length < 8 → (k.sreg ra).getLsbD 7 = true →
      (∀ n : Fin 128, n ≠ c.k → (f.core ⟨c.cl, n⟩).visible = 0) →
      ∃ t, exec (.dqsteal c rd ra) s = .next t ∧ loadIssued f t c (.steal rd (some (0, f.cycle))) 0 0)

/-- 02 R55, R56, 04 R121: a held steal whose turn it is at its deque is served against the deque as it then stands, one whose turn it is
not stays held, and completed pushes become visible and set every core's latch. -/
def Obligations.HeldStealsAndVisiblePushes : Prop :=
  ∀ s : State,
    (∀ (cl : Fin 32) (thief n : Fin 128) (h : HeldSteal),
      ((s.cluster cl).heldSteals.find? fun x => x.thief == thief) = some h → h.victim = some n →
      (∀ l, noSteal (s.core ⟨cl, n⟩) s.cycle → (s.core ⟨cl, n⟩).nextThief (thief :: s.thievesOf cl n) = some thief →
        ((s.core ⟨cl, thief⟩).loads.find? fun l => l.kind == .steal h.rd none) = some l →
        let r := stolen (s.core ⟨cl, n⟩) s.cycle thief l.seq
        ∃ t u, exec (.stealHeldServe cl thief) s = .next t ∧
          onlyCluster s u cl { s.cluster cl with heldSteals := (s.cluster cl).heldSteals.erase h } ∧
          let w := u.setCore ⟨cl, n⟩ r.1
          onlyCore w t ⟨cl, thief⟩ { w.core ⟨cl, thief⟩ with loads := (w.core ⟨cl, thief⟩).loads.map fun x => match x.kind with
            | .steal rd _ => if x.seq = l.seq then { x with kind := .steal rd (some (r.2, s.cycle)) } else x
            | _ => x }) ∧
      (¬ noSteal (s.core ⟨cl, n⟩) s.cycle ∨ (s.core ⟨cl, n⟩).nextThief (thief :: s.thievesOf cl n) ≠ some thief →
        exec (.stealHeldServe cl thief) s = .next s)) ∧
    (∀ (cl : Fin 32) (thief : Fin 128), ((s.cluster cl).heldSteals.find? fun x => x.thief == thief) = none →
      exec (.stealHeldServe cl thief) s = .next s) ∧
    (∀ c : CoreId,
      ((s.core c).visible < (s.core c).deque.length →
        ∃ t, exec (.dequePushVisible c) s = .next t ∧ (t.core c).visible = (s.core c).deque.length ∧
          (∀ m : Fin 128, (t.core ⟨c.cl, m⟩).latch = true ∧ (t.core ⟨c.cl, m⟩).deque = (s.core ⟨c.cl, m⟩).deque) ∧
          (∀ d : CoreId, d.cl ≠ c.cl → t.core d = s.core d) ∧ { t with cores := s.cores } = s) ∧
      ((s.core c).deque.length ≤ (s.core c).visible → exec (.dequePushVisible c) s = .next s))

/-- 04 R121: the work event's latch: waiting, waking, timing out, signalling and clearing. -/
def Obligations.WorkEvent : Prop :=
  ∀ (s : State) (c : CoreId) (rd ra : BitVec 5),
    let f := fetched s c 4
    let k := f.core c
    (ready s c 4 [.s ra, .s rd] = true →
      (k.latch = true → ∃ t, exec (.waitev c rd ra) s = .next t ∧ completed f t c 4 ({ k with latch := false }.setS rd 1)) ∧
      (k.latch = false → k.haltReq = false → ∃ t, exec (.waitev c rd ra) s = .next t ∧ onlyCore f t c { k with
        mode := .waiting
        wait := some (.event rd (if k.sreg ra = 0 then none else some (f.time, k.sreg ra))) }) ∧
      (k.latch = false → k.haltReq = true → ∃ t, exec (.waitev c rd ra) s = .next t ∧ (t.core c).mode = .halted ∧
        (t.core c).pc = k.pc ∧ (t.core c).wait = none)) ∧
    (ready s c 4 [] = true →
      (∃ t, exec (.evsig c) s = .next t ∧ (∀ m, (t.core ⟨c.cl, m⟩).latch = true) ∧
        (t.core c).pc = k.pc + 4 ∧ (∀ d : CoreId, d.cl ≠ c.cl → t.core d = f.core d) ∧ { t with cores := f.cores } = f) ∧
      (∃ t, exec (.evclr c) s = .next t ∧ completed f t c 4 { k with latch := false })) ∧
    (∀ d, (s.core c).mode = .waiting → (s.core c).wait = some (.event rd d) →
      let woken (v : Word) : Core := { { s.core c with mode := .running, wait := none, latch := false }.setS rd v with
        pc := (s.core c).pc + 4, retired := (s.core c).retired + 1 }
      ((s.core c).latch = true → ∃ t, exec (.waitevWake c) s = .next t ∧ onlyCore s t c (woken 1)) ∧
      ((s.core c).latch = false → exec (.waitevWake c) s = .next s) ∧
      (∀ a n, d = some (a, n) →
        (n.toNat ≤ (s.time - a).toNat → ∃ t, exec (.waitevTimeout c) s = .next t ∧
          onlyCore s t c (woken (if (s.core c).latch then 1 else 0))) ∧
        ((s.time - a).toNat < n.toNat → exec (.waitevTimeout c) s = .next s)))

/-- 02 R59, R64 to R66 and Table 2-19: RUN, HALT and RESTART by the state of the core, and the end of a halt. RUN does nothing while
QUIESCE is 1; a HALT of the cycle in which an exception was delivered finds it pending; a write from another cluster's core changes
nothing (02 R57). -/
def Obligations.RunHaltRestart : Prop :=
  ∀ (s : State) (w : Requester) (c : CoreId),
    let k := s.core c
    let g := s.cluster c.cl
    let started : Core := { k with
      mode := .running, cycles := 0, retired := 0, sregs := [], vregs := [], pregs := [], cause := 0, nested := false, excPc := 0
      excAddr := 0, inHandler := false, excPending := false, haltReq := false, delivered := none, pc := k.startPc }
    (writable s w c.cl = true →
      (g.quiesce = false → s.pow.compute = .ready →
        (k.mode = .reset → gives (.run w c) s fun t =>
          if fetchable c k.startPc then onlyCore s t c started else tookException (s.setCore c started) t c 2 none) ∧
        (k.mode = .halted → k.excPending = false → gives (.run w c) s fun t => onlyCore s t c { k with mode := .running }) ∧
        (k.mode = .halted → k.excPending = true → k.cause ≠ 0x0F → k.inHandler = false → k.handler ≠ 0 →
          gives (.run w c) s fun t => onlyCore s t c { k with
            mode := .running, excPending := false, pc := k.handler, inHandler := true
            delivered := some { deliveredNow s c 0 with mode := .running } }) ∧
        (k.mode = .halted → k.excPending = true → k.cause = 0x0F ∨ k.inHandler = true ∨ k.handler = 0 →
          gives (.run w c) s fun t => (t.core c).mode = .faulted ∧ (t.core c).excPending = false ∧ (t.core c).pc = k.pc ∧
            (t.cluster c.cl).event.getLsbD 1 = true ∧ ∀ d, d ≠ c → t.core d = s.core d)) ∧
      (g.quiesce = true ∨ k.mode = .running ∨ k.mode = .waiting ∨ k.mode = .faulted → exec (.run w c) s = .next s) ∧
      ((∀ u, k.delivered = some u → u.cycle ≠ s.cycle) →
        (k.mode = .running → k.haltReq = false →
          gives (.halt w c) s fun t => onlyCore s t c { k with haltReq := true, haltCycle := s.cycle }) ∧
        (k.mode = .running → k.haltReq = true → gives (.halt w c) s fun t => onlyCore s t c k) ∧
        (k.mode = .waiting → gives (.halt w c) s fun t =>
          t.core c = { k with mode := .halted, wait := none, haltReq := false, haltCycle := s.cycle } ∧
          (∀ d, d ≠ c → t.core d = s.core d) ∧
          t.cluster c.cl = { g with held := g.held.filter fun e => e.core != c.k } ∧
          (∀ d, d ≠ c.cl → t.cluster d = s.cluster d) ∧ { t with cores := s.cores, clusters := s.clusters } = s) ∧
        (k.mode = .reset ∨ k.mode = .halted ∨ k.mode = .faulted → gives (.halt w c) s fun t => onlyCore s t c k)) ∧
      (∀ u, k.delivered = some u → u.cycle = s.cycle → u.mode = .running → k.mode = .running ∨ k.mode = .faulted → k.haltReq = false →
        gives (.halt w c) s fun t =>
          t.core c = { k with
            mode := .running, pc := u.pc, inHandler := u.inHandler, excPending := true, delivered := none, haltReq := true
            haltCycle := s.cycle } ∧ (∀ d, d ≠ c → t.core d = s.core d) ∧
          t.cluster c.cl = { g with event := g.event &&& ~~~u.event } ∧ (∀ d, d ≠ c.cl → t.cluster d = s.cluster d) ∧
          { t with cores := s.cores, clusters := s.clusters, outbox := s.outbox } = s) ∧
      (k.mode = .halted ∨ k.mode = .faulted → gives (.restart w c) s fun t => onlyCore s t c { k with
        sregs := [], vregs := [], pregs := [], pc := 0, mode := .reset, excPending := false, haltReq := false, cause := 0
        nested := false, excPc := 0, excAddr := 0, inHandler := false, cq := [], cqWas := none, latch := false, wait := none
        delivered := none, feAt := none, loads := k.loads.map fun l => { l with dead := true } }) ∧
      (k.mode = .reset ∨ k.mode = .running ∨ k.mode = .waiting → exec (.restart w c) s = .next s)) ∧
    (∀ d, w = .core d → d.cl ≠ c.cl →
      exec (.run w c) s = .next s ∧ exec (.halt w c) s = .next s ∧ exec (.restart w c) s = .next s) ∧
    (k.mode = .running → k.haltReq = true → k.loads = [] → k.stores = [] →
      gives (.coreHaltComplete c) s fun t => onlyCore s t c { k with mode := .halted, haltReq := false, feAt := none }) ∧
    (k.mode ≠ .running ∨ k.haltReq = false ∨ k.loads ≠ [] ∨ k.stores ≠ [] → exec (.coreHaltComplete c) s = .next s)

/-- 02 R67: QUIESCE halts every core of its cluster, QUIESCE_ABORT also ends its running descriptors but TILE_UNPIN with status 0x07,
and clearing it starts nothing. Cores in which an exception was delivered in this very cycle are Obligations.RunHaltRestart's. -/
def Obligations.QuiesceHaltsTheCluster : Prop :=
  ∀ (s : State) (w : Requester) (cl : Fin 32), writable s w cl = true → fromCore w = false →
    let g := s.cluster cl
    let halts (t : State) : Prop :=
      (∀ k : Fin 128, let a := s.core ⟨cl, k⟩
        let b := t.core ⟨cl, k⟩
        b.mode = (if a.mode = .waiting then .halted else a.mode) ∧ (a.mode = .running → b.haltReq = true) ∧ b.pc = a.pc ∧
          b.sregs = a.sregs ∧ b.vregs = a.vregs ∧ b.pregs = a.pregs ∧ b.loads = a.loads ∧ b.stores = a.stores) ∧
      (∀ d : CoreId, d.cl ≠ cl → t.core d = s.core d) ∧ (∀ d, d ≠ cl → t.cluster d = s.cluster d)
    ((∀ (k : Fin 128) u, (s.core ⟨cl, k⟩).delivered = some u → u.cycle ≠ s.cycle) →
      (gives (.quiesce w cl) s fun t => halts t ∧ (t.cluster cl).quiesce = true ∧
        (t.cluster cl).quiesceAbort = g.quiesceAbort ∧ (g.quiesceAbort = false →
          { t with cores := s.cores, clusters := s.clusters } = s ∧ (t.cluster cl).tmExec = g.tmExec)) ∧
      (gives (.quiesceAbort w cl) s fun t => halts t ∧ (t.cluster cl).quiesce = true ∧ (t.cluster cl).quiesceAbort = true ∧
        t.mem = s.mem ∧ (t.cluster cl).tmExec = g.tmExec.map fun e =>
          if bits (e.words.getD 0 0) 3 0 = 4 ∨ e.done = true then e
          else { e with status := 0x07, done := true, pinned := none })) ∧
    (gives (.quiesceClear w cl) s fun t => onlyCluster s t cl { g with quiesce := false, quiesceAbort := false })

/-- 02 R39, R41 to R43, 04 R123: TISSUE appends its words or waits for an entry; NOP and FORM run and complete with status 0; a reserved
opcode ends with 0x03 and stops the queue; RESUME lets it go on; FLUSH discards it with status 0x3F. -/
def Obligations.TensorQueue : Prop :=
  ∀ (s : State) (cl : Fin 32),
    let g := s.cluster cl
    (∀ (k : Fin 128) (vx : BitVec 4) (n : BitVec 3),
      let c : CoreId := ⟨cl, k⟩
      let f := fetched s c 4
      let q := f.core c
      ready s c 4 [.v vx] = true → q.stores = [] → q.fullFenced = false →
      ∃ ws : List Word, ws.length = n.toNat + 1 ∧ (∀ e x, ws[e]? = some x → x.toNat = elem (q.vreg vx) 8 e) ∧
        ((f.cluster cl).mxq.length < 64 → gives (.tissue c vx n) s fun t => ∃ u,
          onlyCluster f u cl { f.cluster cl with mxq := (f.cluster cl).mxq ++ [ws], mxTurn := BitVec.ofNat 7 (k.val + 1) } ∧
          completed u t c 4 q) ∧
        (64 ≤ (f.cluster cl).mxq.length → q.haltReq = false → gives (.tissue c vx n) s fun t =>
          onlyCore f t c { q with mode := .waiting, wait := some (.queueSpace ws) }) ∧
        (64 ≤ (f.cluster cl).mxq.length → q.haltReq = true → gives (.tissue c vx n) s fun t =>
          (t.core c).mode = .halted ∧ (t.core c).pc = q.pc ∧ (t.cluster cl).mxq = (f.cluster cl).mxq)) ∧
    (∀ w0 rest, mxAlone s cl [w0] rest → bits w0 10 0 = 0 → bits w0 15 11 = 0 → gives (.mxcNop cl) s fun t =>
      ∃ u, onlyCluster s u cl { g with mxq := rest } ∧ t = mxCompleted u cl [w0] 0 0 0) ∧
    (∀ w0 rest, mxAlone s cl [w0] rest → 6 < bits w0 7 0 → bits w0 10 8 = 0 → bits w0 15 11 = 0 →
      gives (.mxcNop cl) s fun t => ∃ u, onlyCluster s u cl { g with mxq := rest } ∧
        t.mem = (mxCompleted u cl [w0] 3 0 0).mem ∧ (t.cluster cl).mxcFault = true ∧ (t.cluster cl).event.getLsbD 0 = true) ∧
    (∀ w0 w1 rest, mxAlone s cl [w0, w1] rest → bits w0 10 0 = 0x102 → bits w0 15 11 = 0 → bits w1 63 2 = 0 → bits w1 1 0 ≠ 3 →
      gives (.form cl) s fun t => ∃ u,
        onlyCluster s u cl { g with mxq := rest, form := BitVec.ofNat 2 (bits w1 1 0) } ∧ t = mxCompleted u cl [w0, w1] 0 0 0) ∧
    (∀ w, writable s w cl = true →
      (gives (.mxcResume w cl) s fun t => onlyCluster s t cl { g with mxcFault := false }) ∧
      ((∀ k : Fin 128, (s.core ⟨cl, k⟩).wait = none) → g.grd.opened = false → g.mxExec = [] →
        gives (.mxcFlush w cl) s fun t => ∃ u, onlyCluster s u cl { g with mxq := [] } ∧
          t = g.mxq.foldl (fun x ws => if slotAddr (bits (ws.getD 0 0) 63 32) then mxCompleted x cl ws 0x3F 0 0 else x) u))

/-- 07 R178, R179, R182: GUARD opens a layer, closes it when its count stays within the threshold, and otherwise re-runs its kept commands
before it completes with RERUN set (flag bit 0); after an error in the re-run its status is the error's and the queue stops. -/
def Obligations.GuardedLayers : Prop :=
  ∀ (s : State) (cl : Fin 32),
    let g := s.cluster cl
    (∀ (w0 w1 : Word) (rest : List (List Word)), bits w0 10 0 = 0x106 → bits w0 15 11 = 0 → bits w1 15 1 = 0 →
      let closing (t : State) : Prop := ∃ u, onlyCluster s u cl { g with
          mxq := rest, grd := { g.grd with opened := false, lastRerun := false, kept := [], closing := none } } ∧
        t = mxCompleted u cl [w0, w1] 0 0 0
      (bits w1 0 0 = 0 → mxAlone s cl [w0, w1] rest → gives (.guardOpen cl) s fun t => ∃ u, onlyCluster s u cl { g with
          mxq := rest, grd := { g.grd with layer := BitVec.ofNat 16 (bits w1 31 16), opened := true, count := 0, kept := [] } } ∧
        t = mxCompleted u cl [w0, w1] 0 0 0) ∧
      (bits w1 0 0 = 1 → ∀ s' : State, mxAlone s' cl [w0, w1] rest →
        onlyCluster s' s cl { s'.cluster cl with grd := { (s'.cluster cl).grd with opened := true } } →
        (g.grd.count.toNat ≤ bits w1 63 32 → gives (.guardClose cl) s closing) ∧
        (bits w1 63 32 < g.grd.count.toNat → gives (.guardClose cl) s fun t =>
          (t.cluster cl).grd.closing = some { words := [w0, w1], rest := g.grd.kept, error := 0 } ∧
          (t.cluster cl).mxq = rest ∧ (t.cluster cl).reruns.toNat = min (g.reruns.toNat + 1) 0xFFFFFFFF ∧ t.cores = s.cores))) ∧
    (∀ x : Closing, g.grd.closing = some x → (∀ e ∈ g.mxExec, e.rerun = false) → g.pstate = 0 →
      let closed (u : State) : Prop :=
        onlyCluster s u cl { g with grd := { g.grd with opened := false, lastRerun := true, kept := [], closing := none } }
      (x.rest = [] → x.error = 0 → gives (.guardCloseComplete cl) s fun t => ∃ u, closed u ∧ t = mxCompleted u cl x.words 0 0 1) ∧
      (mxError x.error.toNat = true → gives (.guardCloseComplete cl) s fun t => ∃ u, closed u ∧
        t.mem = (mxCompleted u cl x.words x.error.toNat 0 1).mem ∧ (t.cluster cl).mxcFault = true))

/-- 02 R45: TAIL, BASE and SIZE of a ring as they may be written; every other write leaves the ring as it was. 16 R369 to R371: the spill
FIFO keeps the order of its pushes; a push into an otherwise empty FIFO is visible to pops three cycles later; a pop takes the oldest
visible entry or reads 0. -/
def Obligations.RingAndSpillRegisters : Prop :=
  (∀ (s : State) (w : Requester) (cl : Fin 32) (r : RingId) (v : Word), writable s w cl = true →
    let x := (s.cluster cl).ring r
    let top : Nat := match r with
      | .tm _ => 4096
      | .commit => 256
      | _ => 1024
    let fits (b n : Nat) : Prop := n = 0 ∨ b % 64 = 0 ∧
      (rangeMem b (64 * n) = some .act ∨ ∃ k, rangeMem b (64 * n) = some (.dmem k))
    let only (t : State) (y : Ring) : Prop := (t.cluster cl).ring r = y ∧ (∀ r', r' ≠ r → (t.cluster cl).ring r' =
      (s.cluster cl).ring r') ∧ (∀ d, d ≠ cl → t.cluster d = s.cluster d) ∧ { t with clusters := s.clusters } = s
    (v.toNat % 2 ^ 32 < x.size.toNat →
      gives (.ringTailWrite w cl r v) s fun t => only t { x with tail := BitVec.ofNat 32 v.toNat }) ∧
    (x.size.toNat ≤ v.toNat % 2 ^ 32 → exec (.ringTailWrite w cl r v) s = .next s) ∧
    (x.head ≠ x.tail → ∀ z, exec (.ringBaseSizeWrite w cl r z v) s = .next s) ∧
    (x.head = x.tail →
      (fits (v.toNat % 2 ^ 32) x.size.toNat → gives (.ringBaseSizeWrite w cl r false v) s fun t =>
        only t { x with base := BitVec.ofNat 32 v.toNat }) ∧
      (¬ fits (v.toNat % 2 ^ 32) x.size.toNat → exec (.ringBaseSizeWrite w cl r false v) s = .next s) ∧
      (∀ n : Nat, v.toNat = n → n ≤ top → ((n = 0 ∨ (4 ≤ n ∧ ∃ j, n = 2 ^ j)) ∧ fits x.base.toNat n →
          gives (.ringBaseSizeWrite w cl r true v) s fun t => only t { x with size := BitVec.ofNat 13 n, tail := 0, head := 0 }) ∧
        (¬ ((n = 0 ∨ (4 ≤ n ∧ ∃ j, n = 2 ^ j)) ∧ fits x.base.toNat n) →
          exec (.ringBaseSizeWrite w cl r true v) s = .next s)))) ∧
  (∀ (s : State) (cl : Fin 32),
    let g := s.cluster cl
    let onlySpill (t : State) : Prop := t.cluster cl = { g with spill := (t.cluster cl).spill } ∧
      (∀ d, d ≠ cl → t.cluster d = s.cluster d) ∧ elsewhereSame s t (d1Reserve + cl.val * 0x800000) 0x800000 ∧
      { t with clusters := s.clusters, mem := s.mem } = s
    (s.flips = [] → s.inject = [] → g.spill.midLen ≤ 0x100000 →
      (∀ (kind : BitVec 7) (payload : BitVec 56),
        let w : Word := BitVec.ofNat 64 (2 ^ 63 + kind.toNat * 2 ^ 56 + payload.toNat)
        gives (.doorbellPush cl kind payload) s fun t => onlySpill t ∧ spillWords t cl = spillWords s cl ++ [w] ∧
          (g.spill.tail = [] → g.spill.midLen = 0 → g.spill.held = [] →
            g.spill.head.length + (g.spill.popped.filter fun c => s.cycle < c + 3).length < 16 →
            (t.cluster cl).spill.head = g.spill.head ++ [(w, s.cycle + 3)])) ∧
      (gives (.spillRefill cl) s fun t => onlySpill t ∧ spillWords t cl = spillWords s cl ∧
        g.spill.head.length ≤ (t.cluster cl).spill.head.length)) ∧
    (∀ (k : Fin 128) (rd : BitVec 5),
      let c : CoreId := ⟨cl, k⟩
      let f := fetched s c 4
      ready s c 4 [.s rd] = true →
      (∀ w n h, (f.cluster cl).spill.head = (w, n) :: h → n ≤ f.cycle → gives (.spillPop c rd) s fun t => ∃ u,
        onlyCluster f u cl { f.cluster cl with spill := { (f.cluster cl).spill with
          head := h, popped := f.cycle :: (f.cluster cl).spill.popped.filter fun c => f.cycle < c + 3 } } ∧
        completed u t c 4 ((f.core c).setS rd w)) ∧
      ((∀ w n h, (f.cluster cl).spill.head = (w, n) :: h → f.cycle < n) →
        gives (.spillPop c rd) s fun t => completed f t c 4 ((f.core c).setS rd 0))))

/-- 03 R88, R89, Table 3-9, 02 Tables 2-14 to 2-17, 20 R463: CSRR reads time, counters, scratch registers and the cluster block; CSRW writes
its core's own registers and clears CLU_EVENT bits by ones, but those set in the same cycle (00 R6). 20 R459, R463, R464: a write of CLU_STEP in partition cluster 0 reaches every
cluster of the partition; a write of CLU_TRACE puts one 32-byte record of kind 1 into the trace ring. -/
def Obligations.ClusterAndTraceRegisters : Prop :=
  (∀ (s : State) (c : CoreId) (r : BitVec 5),
    let f := fetched s c 4
    let k := f.core c
    let own (o : Nat) : BitVec 16 := BitVec.ofNat 16 (0x8000 + 0x40 * c.k.val + o)
    (ready s c 4 [.s r] = true →
      let reads (idx : BitVec 16) (v : Word) : Prop := gives (.csrr c r idx) s fun t => completed f t c 4 (k.setS r v)
      reads 0xF000 f.time ∧ reads 0xF008 k.cycles ∧ reads 0xF010 k.retired ∧ reads 0xF018 k.scratch0 ∧ reads 0xF020 k.scratch1 ∧
      reads 0x010 ((f.cluster c.cl).event.zeroExtend 64) ∧ reads (own 0x10) (k.startPc.zeroExtend 64) ∧
      reads (own 0x18) (k.handler.zeroExtend 64) ∧ reads (own 0x28) (k.excPc.zeroExtend 64) ∧
      reads (own 0x30) (k.excAddr.zeroExtend 64) ∧ reads 0x408 (f.cluster c.cl).mxcStatus ∧
      (∀ i : Fin 16, reads (BitVec.ofNat 16 (0x100 + 0x20 * i.val + 0x18)) (((f.cluster c.cl).ring (.tm i)).head.zeroExtend 64))) ∧
    (ready s c 4 [.s r] = true → k.stores = [] →
      let v := k.sreg r
      let writes (idx : BitVec 16) (k' : Core) : Prop := gives (.csrw c r idx) s fun t => completed f t c 4 k'
      writes 0xF018 { k with scratch0 := v } ∧ writes 0xF020 { k with scratch1 := v } ∧
      writes (own 0x10) { k with startPc := v.truncate 32 } ∧ writes (own 0x18) { k with handler := v.truncate 32 } ∧
      writes (own 0x20) { k with cause := v.truncate 8 } ∧ writes (own 0x28) { k with excPc := v.truncate 32 } ∧
      (gives (.csrw c r 0x010) s fun t => ∃ (u : State) (x : BitVec 4),
        (∀ b : Fin 4, x.getLsbD b.val = ((f.cluster c.cl).event.getLsbD b.val && (!v.getLsbD b.val ||
          SMap.get (fun _ => 0) f.setAt (W1c.event c.cl b).key == f.cycle + 1))) ∧
        onlyCluster f u c.cl { f.cluster c.cl with event := x } ∧ completed u t c 4 k))) ∧
  (∀ (s : State) (c : CoreId) (v : Word),
    (∀ (p : Fin 12) (r : PartRec), s.partOf c.cl = some p → (s.part p).cfg = some r →
      (∀ d : Fin 32, d.val < c.cl.val → r.clusters.getLsbD d.val = false) → gives (.cluStepWrite c v) s fun t =>
        (∀ d : Fin 32, t.cluster d = if r.clusters.getLsbD d.val then { s.cluster d with step := v.truncate 32 } else s.cluster d) ∧
        { t with clusters := s.clusters } = s) ∧
    (s.partOf c.cl = none → exec (.cluStepWrite c v) s = .next s) ∧
    (let a := 0x10000000000 + s.traceBase.toNat * 2 ^ 30 + s.traceHead.toNat % 33554432 * 32
     let p := match s.partOf c.cl with
      | some p => p.val
      | none => 15
     (s.cluster c.cl).traced = 0 → s.traceEn = true → s.traceMask.getLsbD 0 = true → gives (.cluTraceWrite c v) s fun t =>
      t.traceHead = s.traceHead + 1 ∧ leValue (Memory.bytes t.mem a 8) = s.time.toNat ∧
      leValue (Memory.bytes t.mem (a + 8) 8) = 2 ^ 56 + p * 2 ^ 52 + c.cl.val * 2 ^ 47 + c.k.val * 2 ^ 40 ∧
      leValue (Memory.bytes t.mem (a + 16) 8) = v.toNat ∧ leValue (Memory.bytes t.mem (a + 24) 8) = 0 ∧
      (∀ b, b < a ∨ a + 32 ≤ b → Memory.byte t.mem b = Memory.byte s.mem b) ∧ t.cores = s.cores) ∧
    (s.traceEn = false → exec (.cluTraceWrite c v) s = .next s))

/-- 02 R41, 05 R145: MATMUL, STORE and each SFE function, alone in the queue, start when their checks pass; with a check failed they end
with its status and stop the queue. -/
def Obligations.TensorDispatch : Prop :=
  ∀ (s : State) (cl : Fin 32) (ws : List Word) (rest : List (List Word)), mxAlone s cl ws rest →
    let op := bits (ws.getD 0 0) 7 0
    let mm := mmOf ws
    let sf := sfOf ws
    let st := stoOf ws false
    let g := s.cluster cl
    (op = 1 →
      (mmEarly ws mm g.form.toNat = 0 → mmLate mm = 0 → gives (.matmul cl) s fun t => mxStarted s t cl ws rest) ∧
      (∀ n, mmEarly ws mm g.form.toNat = n → n ≠ 0 → gives (.matmul cl) s fun t => mxRefused s t cl ws rest n) ∧
      (∀ n, mmEarly ws mm g.form.toNat = 0 → mmLate mm = n → n ≠ 0 →
        gives (.matmul cl) s fun t => mxRefused s t cl ws rest n)) ∧
    (op = 3 → s.flips = [] →
      (stoEarly ws st = 0 → (stoLate s cl st false).2 = 0 → gives (.store cl) s fun t => mxStarted s t cl ws rest) ∧
      (∀ n, stoEarly ws st = n → n ≠ 0 → gives (.store cl) s fun t => mxRefused s t cl ws rest n)) ∧
    (op = 4 → sfEarly ws sf g = 0 → sfLate sf = 0 →
      (sf.func < 0x40 → gives (.sfeFunction cl) s fun t => mxStarted s t cl ws rest) ∧
      (sf.func = 0x40 → gives (.sfeSoftmax cl) s fun t => mxStarted s t cl ws rest) ∧
      (sf.func = 0x41 → gives (.sfeRmsNormalisation cl) s fun t => mxStarted s t cl ws rest) ∧
      (sf.func = 0x42 → gives (.sfeLayerNormalisation cl) s fun t => mxStarted s t cl ws rest)) ∧
    (op = 4 → bits (ws.getD 0 0) 10 8 = 3 → ws.length = 4 → bits (ws.getD 0 0) 15 11 = 0 → 0x42 < sf.func →
      gives (.sfeFunction cl) s fun t => mxRefused s t cl ws rest 3)

/-- 05 R127, R131, R137, R142: a MATMUL of FP16 or BF16 that runs to its end leaves each partial sum of its M by N range as R127
computes it, completes with status 0 and the steps done, and changes no byte beside its rows and its slot. -/
def Obligations.MatmulResult : Prop :=
  ∀ (s : State) (cl : Fin 32) (i : Fin 16) (steps : Nat) (e : MxExec), mxRuns s cl i e 1 →
    let x := mmOf e.words
    x.wfmt = x.afmt → x.wfmt = 8 ∨ x.wfmt = 9 → x.dist = 0 → x.k ≤ formK (s.cluster cl).form.toNat → x.n * 4 ≤ x.ppitch * 64 → inMem isPsum x.psumRange = true →
    (∀ j, j < x.steps → inMem isWeight (x.wImage j) = true ∧ inMem isAct (x.feedImage j) = true) →
    gives (.matmulComplete cl i steps) s fun t =>
      (∀ m n, m < x.m → n < x.n → clusterValue t cl (x.psumAt m n) 4 = mmValue s cl x m n) ∧
      clusterValue t cl (bits (e.words.getD 0 0) 63 32) 8 = x.steps * 2 ^ 32 + bits (e.words.getD 0 0) 31 16 * 2 ^ 16 ∧
      t.tagFull (clusterAddr cl (bits (e.words.getD 0 0) 63 32)) = true ∧ (t.cluster cl).mxExec = (s.cluster cl).mxExec.erase e ∧
      (t.cluster cl).mxcFault = (s.cluster cl).mxcFault ∧ t.cores = s.cores ∧
      ∀ a, (∀ m, m < x.m → a < clusterAddr cl (x.psumAt m 0) ∨ clusterAddr cl (x.psumAt m 0) + x.n * 4 ≤ a) →
        (a < clusterAddr cl (bits (e.words.getD 0 0) 63 32) ∨ clusterAddr cl (bits (e.words.getD 0 0) 63 32) + 64 ≤ a) →
        Memory.byte t.mem a = Memory.byte s.mem a

/-- 05 R506, 07 R177, R178: a STORE that runs to its end writes its destination elements and block scales only, counts what the layer's
count asks, and completes with status 0, its 4 KiB units, and flag bit 2 where it counted. -/
def Obligations.StoreCompletes : Prop :=
  ∀ (s : State) (cl : Fin 32) (i : Fin 16) (units : Nat) (e : MxExec), mxRuns s cl i e 3 →
    let x := stoOf e.words e.rerun
    let dst := layoutOf e.dstD
    let out := x.output s cl [] (layoutOf e.srcD) dst
    let counted := (out.1.filter fun v => v.any (·.2)).length
    (out.1.length = dst.count ∧ x.src % 4 = 0) → gives (.storeComplete cl i units) s fun t =>
      clusterValue t cl (bits (e.words.getD 0 0) 63 32) 8 = (dst.count * dst.w + 32767) / 32768 % 2 ^ 32 * 2 ^ 32 +
        bits (e.words.getD 0 0) 31 16 * 2 ^ 16 + (if counted = 0 then 0 else 4) ∧
      (t.cluster cl).mxExec = (s.cluster cl).mxExec.erase e ∧
      (t.cluster cl).grd.count = (if e.layer = true ∧ (s.cluster cl).grd.opened = true then
        BitVec.ofNat 32 (min ((s.cluster cl).grd.count.toNat + counted) 0xFFFFFFFF) else (s.cluster cl).grd.count) ∧
      (t.cluster cl).dumps.length = (s.cluster cl).dumps.length + e.watch.length ∧ t.cores = s.cores ∧
      ∀ a, (∀ w ∈ x.writes cl s.freeCtr dst.count (layoutOf e.srcD) dst out.1 out.2, 8 * a + 8 ≤ w.2.at_ ∨ w.2.at_ + w.2.width ≤ 8 * a) →
        (a < clusterAddr cl (bits (e.words.getD 0 0) 63 32) ∨ clusterAddr cl (bits (e.words.getD 0 0) 63 32) + 64 ≤ a) →
        Memory.byte t.mem a = Memory.byte s.mem a

/-- 08 R196 to R202: an SFE that runs to its end leaves each row's results, narrowed to the output format, where no range it reads meets
what it writes; its status is 0, its progress the rows, its flag bit 1 set where a soft maximum met a row with nothing. 08 R187, R188:
SFTAB copies a valid image of 448 bytes, or of 64 and 16 for each segment, into its slot; other slots stay. -/
def Obligations.SfeAndTableResults : Prop :=
  (∀ (s : State) (cl : Fin 32) (i : Fin 16) (rows : Nat) (e : MxExec), mxRuns s cl i e 4 →
    let x := sfOf e.words
    let slot := bits (e.words.getD 0 0) 63 32
    plainFmt x.ifmt = true → plainFmt x.ofmt = true → inMem actOrPsum x.dstRange = true → inMem actOrPsum x.srcRange = true →
    inMem actOrData x.maskRange = true → meet x.srcRange x.dstRange = false → meet x.maskRange x.dstRange = false →
    meet (slot, 64) x.dstRange = false → gives (.sfeComplete cl i rows) s fun t =>
      (∀ r j, r < x.rows → j < x.n → clusterValue t cl (x.dst + r * x.pout + j * fmtBytes x.ofmt) (fmtBytes x.ofmt) =
        narrow x.ofmt ((x.row s cl r).1.getD j 0) % 2 ^ (8 * fmtBytes x.ofmt)) ∧
      clusterValue t cl slot 8 = x.rows * 2 ^ 32 + bits (e.words.getD 0 0) 31 16 * 2 ^ 16 +
        (if (List.range x.rows).any (fun r => (x.row s cl r).2) then 2 else 0) ∧
      (t.cluster cl).mxExec = (s.cluster cl).mxExec.erase e ∧ t.cores = s.cores ∧
      ∀ a, (∀ r, r < x.rows → a < clusterAddr cl (x.dst + r * x.pout) ∨
          clusterAddr cl (x.dst + r * x.pout) + x.n * fmtBytes x.ofmt ≤ a) →
        (a < clusterAddr cl slot ∨ clusterAddr cl slot + 64 ≤ a) → Memory.byte t.mem a = Memory.byte s.mem a) ∧
  (∀ (s : State) (cl : Fin 32) (w0 w1 : Word) (rest : List (List Word)), mxAlone s cl [w0, w1] rest →
    bits w0 10 0 = 0x105 → bits w0 15 11 = 0 → bits w1 63 39 = 0 → s.flips = [] →
    let g := s.cluster cl
    let n := bits w1 37 32
    let a := bits w1 31 0
    let size := if bits w1 38 38 = 1 then 448 else 64 + 16 * (clusterValue s cl a 1 + 1)
    let im := Memory.bytes s.mem (clusterAddr cl a) size
    a % 64 = 0 → (rangeMem a 64).isSome = true → (rangeMem a size).isSome = true →
    (if bits w1 38 38 = 1 then microValid im else segValid im) = true → gives (.sftab cl) s fun t => ∃ u,
      onlyCluster s u cl { g with mxq := rest, slots := (u.cluster cl).slots } ∧
      (u.cluster cl).slot n = (if bits w1 38 38 = 1 then .program im else .segments im) ∧
      (∀ m, m ≠ n → (u.cluster cl).slot m = g.slot m) ∧ t = mxCompleted u cl [w0, w1] 0 0 0)

/-- 02 R44 to R49, R508, Table 2-5, 06 R155 to R159: a descriptor that starts with its addresses good and its units moved is over with
status 0; NOP and reserved OPs are over at once; its end writes the completion word and moves HEAD. -/
def Obligations.TileMoverDescriptors : Prop :=
  ∀ (s : State) (cl : Fin 32) (q : Fin 16) (ws : List Word) (units : Nat),
    let n := bits (ws.getD 3 0) 31 0
    let src := bits (ws.getD 1 0) 47 0
    let dst := bits (ws.getD 2 0) 47 0
    (tmReady s cl q ws 5 → gives (.tmNop cl q) s fun t => tmOver s t cl q ws 0 0 ∧ t.mem = s.mem) ∧
    (∀ op, 5 < op → op < 16 → tmReady s cl q ws op → gives (.tmNop cl q) s fun t => tmOver s t cl q ws 3 0 ∧ t.mem = s.mem) ∧
    (∀ m d, tmReady s cl q ws 0 → src % 64 = 0 → dst % 64 = 0 → n % 64 = 0 → n ≠ 0 → s.tmFrom cl src n = some m →
      s.tmTo cl dst n = some d → (m + n ≤ d ∨ d + n ≤ m) → (n + 4095) / 4096 ≤ units →
      gives (.tmCopy cl q units) s fun t => tmOver s t cl q ws 0 ((n + 4095) / 4096) ∧
        (∀ i, i < n → Memory.byte t.mem (d + i) = Memory.byte s.mem (m + i)) ∧ elsewhereSame s t d n) ∧
    (∀ d, tmReady s cl q ws 2 → dst % 64 = 0 → n % 64 = 0 → n ≠ 0 → s.tmTo cl dst n = some d → (n + 4095) / 4096 ≤ units →
      gives (.tmFill cl q units) s fun t => tmOver s t cl q ws 0 ((n + 4095) / 4096) ∧
        (∀ i, i < n → (Memory.byte t.mem (d + i)).toNat = (ws.getD 5 0).toNat / 2 ^ (8 * (i % 8)) % 256) ∧
        elsewhereSame s t d n) ∧
    (∀ m d, tmReady s cl q ws 1 → layoutAddr (bits (ws.getD 4 0) 31 0) = 0 → layoutAddr (bits (ws.getD 4 0) 63 32) = 0 →
      let sd := toWords 8 (Memory.bytes s.mem (clusterAddr cl (bits (ws.getD 4 0) 31 0)) 64)
      let dd := toWords 8 (Memory.bytes s.mem (clusterAddr cl (bits (ws.getD 4 0) 63 32)) 64)
      let x := layoutOf dd
      let all := (x.count * x.w + 32767) / 32768
      xformValid sd dd = true → s.xformPlace cl (tmNew q s.cycle ws) (layoutOf sd) x = .ok (m, d) → all ≠ 0 → all ≤ units →
      gives (.tmXform cl q units) s fun t => tmOver s t cl q ws 0 all ∧
        ∀ a, (∀ r, r < x.count → 8 * a + 8 ≤ x.bitAt d (x.indices r) ∨ x.bitAt d (x.indices r) + x.w ≤ 8 * a) →
          Memory.byte t.mem a = Memory.byte s.mem a) ∧
    (∀ e : TmExec, (s.cluster cl).tmExec.find? (fun e => e.q == q) = some e → e.done = true → (s.cluster cl).pstate = 0 →
      ((s.cluster cl).ring (.tm q)).size ≠ 0 → gives (.tmDescriptorComplete cl q) s fun t => headMoved s t cl (.tm q) ∧
        (t.cluster cl).tmExec = (s.cluster cl).tmExec.filter (fun f => f.q != q) ∧
        t.mem = (ringDone s cl (e.words.getD 0 0) e.units e.status.toNat).mem ∧
        t.tags = (ringDone s cl (e.words.getD 0 0) e.units e.status.toNat).tags ∧ t.cores = s.cores)

/-- 10 R229 to R232, R235, R239: TILE_PIN and TILE_UNPIN of a resident tile move its pin count and the partition's ledger by one, a pin
with no binding is refused with the reason recorded, and a promotion or heal from D2 leaves the tile in D1. -/
def Obligations.TilesPinnedAndResident : Prop :=
  ∀ (s : State) (cl : Fin 32) (q : Fin 16) (ws : List Word) (p : Fin 12) (e : Nat) (n : Nougat),
    (∀ x ∈ s.nougat, ∀ m, x.2 = some m → m.stale = false) →
    (tmReady s cl q ws 3 → s.partOf cl = some p → s.bindingAt p (bits (ws.getD 6 0) 39 36) = none →
      gives (.tilePin cl q 0) s fun t => tmOver s t cl q ws 6 0 ∧ t.mem = s.mem ∧ t.nougat = s.nougat ∧
        SMap.get (fun _ => 0) (t.cluster cl).tileReason q.val =
          BitVec.ofNat 64 (bits (ws.getD 6 0) 39 0 * 2 ^ 24 + bits (ws.getD 0 0) 31 16 * 2 ^ 8 + 1)) ∧
    (∀ r : Resolved, s.partOf cl = some p → s.findEntry p r = some e → s.nougatAt e = some n →
      (tmReady s cl q ws 3 → s.resolve p (bits (ws.getD 6 0) 39 0) true = .tile r → bits (ws.getD 2 0) 47 0 = 0xFFFFFFFFFFFF →
        n.inD1 = true → n.st = 3 → n.pin < 65535 → (s.part p).ledger.length < 65536 →
        gives (.tilePin cl q 1) s fun t => tmOver s t cl q ws 0 0 ∧ t.mem = s.mem ∧
          t.nougatAt e = some { n with pin := n.pin + 1, pmask := n.pmask ||| BitVec.ofNat 12 (2 ^ p.val), lastUse := s.time } ∧
          t.ledgerOf p e = s.ledgerOf p e + 1 ∧ (∀ i, i ≠ e → t.nougatAt i = s.nougatAt i)) ∧
      (tmReady s cl q ws 4 → s.resolve p (bits (ws.getD 6 0) 39 0) false = .tile r → s.ledgerOf p e ≠ 0 → n.inD1 = true →
        gives (.tileUnpin cl q) s fun t => tmOver s t cl q ws 0 0 ∧ t.mem = s.mem ∧
          t.nougatAt e = some { n with pin := n.pin - 1, pmask := if s.ledgerOf p e = 1 then
            n.pmask &&& ~~~ BitVec.ofNat 12 (2 ^ p.val) else n.pmask } ∧
          t.ledgerOf p e = s.ledgerOf p e - 1 ∧ (∀ i, i ≠ e → t.nougatAt i = s.nougatAt i))) ∧
    (s.nougatAt e = some n → n.inD2 = true → n.need1 = true → n.need2 = false → s.flips = [] → s.inject = [] →
      let resident (t : State) : Prop :=
        t.nougatAt e = some { n with st := 3, inD1 := true, need1 := false, heals := 0, lastUse := s.time } ∧
        (∀ i, i ≠ e → t.nougatAt i = s.nougatAt i) ∧ t.cores = s.cores
      (n.st = 1 ∨ n.st = 2 → gives (.promotionComplete e) s fun t => resident t ∧
        (∀ i, i < (n.size.toNat + 1) * 4096 → Memory.byte t.mem (s.d1Copy n + i) = Memory.byte s.mem (s.d2Copy n + i)) ∧
        elsewhereSame s t (s.d1Copy n) ((n.size.toNat + 1) * 4096)) ∧
      (n.st = 4 → gives (.healComplete e) s fun t => resident t ∧ t.tileHeals = s.tileHeals + BitVec.ofNat 64 n.heals ∧ (s.traceEn = false →
        (∀ i, i < (n.size.toNat + 1) * 4096 → Memory.byte t.mem (s.d1Copy n + i) = Memory.byte s.mem (s.d2Copy n + i)))))

/-- 10 R241, R242: a commit record is taken with the first status that holds, or with its data read and its range locked; it completes
once its lock is free, the data then being what the namespace reads; before, and while the write buffer has no room for it, it waits. -/
def Obligations.CommitRecords : Prop :=
  ∀ (s : State) (cl : Fin 32) (ws : List Word),
    let g := s.cluster cl
    let n := bits (ws.getD 3 0) 31 0 / 4096
    (ringHas s cl .commit ws → g.commitExec = none → s.ringsOpen cl = true → s.locks.length < 4096 → s.tableFull = false →
      (∀ st, s.cmCheck cl ws = .error st → gives (.commitRecord cl) s fun t => headMoved s t cl .commit ∧
        (t.cluster cl).commitExec = some { words := ws, status := BitVec.ofNat 8 st, units := 0, lock := none, data := [] } ∧
        t.mem = s.mem ∧ t.locks = s.locks ∧ t.cores = s.cores) ∧
      (∀ b m, s.cmCheck cl ws = .ok (b, m) → gives (.commitRecord cl) s fun t => headMoved s t cl .commit ∧
        (∃ x l, (t.cluster cl).commitExec = some x ∧ x.words = ws ∧ x.status = 0 ∧ x.lock = some l.id ∧ t.locks = s.locks ++ [l] ∧
          l.nsid = b.nsid ∧ l.read = false ∧ l.granted = false ∧ x.data.length = n ∧
          ∀ i u, x.data[i]? = some u → u.toNat = leValue (Memory.bytes s.mem (m + 4096 * i) 4096)) ∧
        t.mem = s.mem ∧ t.cores = s.cores)) ∧
    (∀ x, g.commitExec = some x → x.lock = none → gives (.commitComplete cl) s fun t =>
      (t.cluster cl).commitExec = none ∧ t.mem = (ringDone s cl (x.words.getD 0 0) 0 x.status.toNat).mem ∧
      t.buffer = s.buffer ∧ t.cores = s.cores) ∧
    (∀ x l first, g.commitExec = some x → l ∈ s.locks → x.lock = some l.id → (∀ k ∈ s.locks, k.id = l.id → k = l) →
      first = bits (x.words.getD 2 0) 63 12 → first + x.data.length ≤ 2 ^ 38 → x.units = 0 →
      (s.lockFree l.id = false → gives (.commitComplete cl) s fun t => onlyCluster s t cl g) ∧
      (s.lockFree l.id = true → s.nsIsTile l.nsid.toNat = false → s.nsWritable l.nsid.toNat = true →
        first % 256 + x.data.length ≤ 256 → x.data ≠ [] →
        (s.hostRoom (s.partOf cl) .warm x.data.length = false → gives (.commitComplete cl) s fun t => onlyCluster s t cl g) ∧
        (s.hostRoom (s.partOf cl) .warm x.data.length = true → bufferLeast ≤ s.bufCap →
          gives (.commitComplete cl) s fun t => (t.cluster cl).commitExec = none ∧
            t.mem = (ringDone s cl (x.words.getD 0 0) x.data.length x.status.toNat).mem ∧ t.locks = s.locks.filter (·.id != l.id) ∧
            (∀ i u, x.data[i]? = some u → t.readUnit l.nsid.toNat (first + i) = some u) ∧
            (∀ n u, n < 1024 → u < 2 ^ 38 → (n ≠ l.nsid.toNat ∨ u < first ∨ first + x.data.length ≤ u) →
              t.readUnit n u = s.readUnit n u) ∧ t.cores = s.cores)))

/-- 14 R321 to R325, R328, R331, R332, R334, 10 R238: index-read records of each OP are taken with the status of their checks; their unit is
read from the media where a codeword holds it and is there at once where none does (log 113); a page scan is answered as its unit passes the
Praline unit of its channel; a record completes by writing its output; the context and sharing registers. -/
def Obligations.IndexReads : Prop :=
  ∀ (s : State) (cl : Fin 32) (ws : List Word),
    let g := s.cluster cl
    let unit := bits (ws.getD 2 0) 59 24
    (∀ op st, op < 3 → ixReady s cl ws op → s.ixCheck cl ws = .error st →
      gives (match op with
        | 0 => .ctxLoad cl
        | 1 => .pageScan cl
        | _ => .unitRead cl) s fun t => ixTaken s t cl (ixOver s cl ws 0 st [] 0)) ∧
    (∀ ns m x, ixReady s cl ws 0 → s.ixCheck cl ws = .ok (ns, m) → s.ixContext cl ws = some x →
      let v : BitVec 2048 := BitVec.ofNat 2048 (leValue (Memory.bytes s.mem m 256))
      (ctxValid v = true → gives (.ctxLoad cl) s fun t => ixTaken s t cl (ixOver s cl ws 0 0 [] 0) ∧ t.ctxAt x = v ∧
        t.ctxLoaded x = true ∧ ∀ y, y ≠ x → t.ctxAt y = s.ctxAt y ∧ t.ctxLoaded y = s.ctxLoaded y) ∧
      (ctxValid v = false → gives (.ctxLoad cl) s fun t => ixTaken s t cl (ixOver s cl ws 0 3 [] 0) ∧ t.ctxLoaded x = false)) ∧
    (∀ ns m, s.ixCheck cl ws = .ok (ns, m) →
      let there : Prop := (s.buffered ns unit).isSome = true ∨ s.unitCw ns unit = none
      let asked (t : State) : Prop := ixTaken s t cl { ixOver s cl ws ns 0 [] 0 with wait := some .unit }
      (ixReady s cl ws 1 →
        (∀ u, there → s.readUnit ns unit = some u → gives (.pageScan cl) s fun t =>
          ixTaken s t cl { ixOver s cl ws ns 0 [] 0 with wait := some (.slot u) } ∧ ∃ ch, (cl, g.ixNext) ∈ (t.chan ch).toPraline) ∧
        (there → s.readUnit ns unit = none → gives (.pageScan cl) s fun t => ixTaken s t cl (ixOver s cl ws ns 5 [] 0))) ∧
      (ixReady s cl ws 2 →
        let o := bits (ws.getD 2 0) 23 12
        let n := bits (ws.getD 2 0) 11 0 + 1
        (∀ u, there → s.readUnit ns unit = some u → gives (.unitRead cl) s fun t => ∃ out : List Byte, out.length = n ∧
          ixTaken s t cl (ixOver s cl ws ns 0 out (n / 64)) ∧
          ∀ i, i < n → (out.getD i 0).toNat = u.toNat / 2 ^ (8 * (o + i)) % 256) ∧
        (there → s.readUnit ns unit = none → gives (.unitRead cl) s fun t => ixTaken s t cl (ixOver s cl ws ns 5 [] 0))) ∧
      (∀ k, s.buffered ns unit = none → s.unitCw ns unit = some k → s.dieThere (pageDie (k / 4)) = true →
        s.dieFailed (pageDie (k / 4)) = false → (s.die (pageDie (k / 4))).op = none →
        (ixReady s cl ws 1 → gives (.pageScan cl) s fun t => asked t ∧ mediaAsked t k (s.partOf cl) (cl, g.ixNext)) ∧
        (ixReady s cl ws 2 → gives (.unitRead cl) s fun t => asked t ∧ mediaAsked t k (s.partOf cl) (cl, g.ixNext)))) ∧
    (∀ (e : Fin 16) (ch : Fin 64) (id : Nat) (r : IxExec) (u : Unit4K) (x : Nat), slotChannel e (s.ldpcOf e).slot = ch →
      s.arb.isolated = false → (s.chan ch).toLdpc = [] → (s.chan ch).toPraline = [(cl, id)] → s.ixRecord (cl, id) = some r →
      r.wait = some (.slot u) → s.ixContext cl r.words = some x →
      let c := s.ctxAt x
      let w := 128 * 2 ^ (c.toNat / 2 ^ 1600 % 4)
      let far (r : Nat) := ((List.range w).filter fun i => c.toNat.testBit i != r.testBit i).length
      gives (.ldpcSlot e) s fun t => ∃ out : List Word, out.length = 64 ∧
        t.ixRecord (cl, id) = some { r with
          wait := none, out := ofWords out, count := ((out.take 56).filter (· ≠ BitVec.allOnes 64)).length } ∧
        (∀ i, i < 8 → let n := u.toNat / 2 ^ (4096 * i) % 2 ^ 4096
          (recValid n = true → ctxPass c (n / 2 ^ 3712 % 2 ^ 64) = true → far n ≤ c.toNat / 2 ^ 1616 % 2048 →
            (out.getD i 0).toNat = far n * 2 ^ 40 + recHdr n % 2 ^ 40) ∧
          (recValid n = false ∨ ctxPass c (n / 2 ^ 3712 % 2 ^ 64) = false ∨ c.toNat / 2 ^ 1616 % 2048 < far n →
            out.getD i 0 = BitVec.allOnes 64)) ∧
        SMap.get (fun _ => (0 : Word)) t.prlCnt (ch.val / 4 * 4) = SMap.get (fun _ => (0 : Word)) s.prlCnt (ch.val / 4 * 4) + 1 ∧
        (t.chan ch).toPraline = [] ∧ (∀ y, t.ctxAt y = s.ctxAt y) ∧ t.mem = s.mem ∧ t.cores = s.cores) ∧
    (∀ op st, 3 ≤ op → ixReady s cl ws op → ixWords ws = (st == 0) → st = 0 ∨ st = 3 →
      gives (.ixrNop cl) s fun t => ixTaken s t cl (ixOver s cl ws 0 st [] 0)) ∧
    (∀ (i : Fin 64) (e : IxExec), g.ixExec[i.val]? = some e →
      (e.wait ≠ none → exec (.indexReadComplete cl i) s = .next s) ∧
      (e.wait = none → (e.out = [] ∨ ∃ m, s.ixPlace cl (ixAddr e.words) (ixBytes e.words) = some m) →
        gives (.indexReadComplete cl i) s fun t =>
        (t.cluster cl).ixExec = g.ixExec.eraseIdx i.val ∧ t.cores = s.cores ∧
        (e.out = [] → t.mem = (ringDone s cl (e.words.getD 0 0) e.count e.status.toNat).mem) ∧
        (∀ m, e.out ≠ [] → s.flips = [] → s.ixPlace cl (ixAddr e.words) (ixBytes e.words) = some m →
          t.mem = (ringDone (s.writeMem m (e.out.map some)) cl (e.words.getD 0 0) e.count e.status.toNat).mem))) ∧
    (∀ (w : Requester) (p : Fin 12) (v : Word), fromCore w = false →
      let b := bits v 11 0
      let n := bits v 28 16
      let bad : Prop := s.jobLoaded p = true ∨ 4096 < b + n ∨ ∃ p' : Fin 12, p' ≠ p ∧ n ≠ 0 ∧ s.ctxCount p' ≠ 0 ∧
        b < s.ctxBase p' + s.ctxCount p' ∧ s.ctxBase p' < b + n
      (bad → exec (.prlPartCtxWrite w p v) s = .next (nowSet { s with prlRef := true } .prlRefused)) ∧
      (¬ bad → gives (.prlPartCtxWrite w p v) s fun t => t.ctxBase p = b ∧ t.ctxCount p = n ∧
        (∀ p', p' ≠ p → t.ctxBase p' = s.ctxBase p' ∧ t.ctxCount p' = s.ctxCount p') ∧
        (∀ y, b ≤ y → y < b + n → t.ctxLoaded y = false) ∧ { t with prlPart := s.prlPart, ctxUp := s.ctxUp } = s)) ∧
    (∀ (w : Requester) (en : Bool), fromCore w = false →
      (en = s.shareEn → exec (.shareEnWrite w en) s = .next s) ∧
      (en ≠ s.shareEn → s.anyJob = true →
        exec (.shareEnWrite w en) s = .next (nowSet { s with shareRef := true } .shareRefused)) ∧
      (en ≠ s.shareEn → s.anyJob = false → gives (.shareEnWrite w en) s fun t => t.shareEn = en ∧
        { t with shareEn := s.shareEn, nougat := s.nougat } = s ∧ (∀ e ∈ t.nougat, e ∈ s.nougat) ∧
        (en = false → ∀ e ∈ t.nougat, ∀ n, e.2 = some n → n.owner ≠ 0xF)))

/-- 18 R413 to R418: send records are taken, sent as packets of 4,096 bytes or ended with their status; PUT and RESPONSE packets are
written where they name; acknowledgements, retries, timeouts and expiries act on their send or tracker entry. -/
def Obligations.FabricSends : Prop :=
  ∀ s : State,
    (∀ (cl : Fin 32) (ws : List Word),
      let n := bits (ws.getD 3 0) 31 0
      let e := s.lmnAt (bits (ws.getD 3 0) 63 48)
      let ended (t : State) (st : Nat) : Prop := headMoved s t cl .ftx ∧ t.mem = (ringDone s cl (ws.getD 0 0) 0 st).mem ∧
        t.fab.sends = s.fab.sends ∧ t.cores = s.cores
      (∀ op st, 2 ≤ op → fxReady s cl ws op → fxWords ws = (st == 0) → st = 0 ∨ st = 3 →
        gives (.ftxNop cl) s fun t => ended t st) ∧
      (∀ m, fxReady s cl ws 0 → fxWords ws = true → fxAligned ws = true → s.fxSource cl ws = some m →
        (bits e 63 63 = 0 → gives (.ftxPut cl) s fun t => ended t 0x20) ∧
        (bits e 63 63 = 1 → s.partOf cl = none → gives (.ftxPut cl) s fun t => ended t 0x23) ∧
        (bits e 63 63 = 1 → s.partOf cl ≠ none → s.fab.valid = true → bits e 15 0 = s.fab.fid.toNat → gives (.ftxPut cl) s fun t =>
          headMoved s t cl .ftx ∧ sentHere s t ws m n 1 ∧ t.mem = s.mem ∧ t.cores = s.cores ∧
          t.fab.sends.length = s.fab.sends.length + 1)) ∧
      (∀ m, fxReady s cl ws 1 → fxWords ws = true → fxAligned ws = true → s.fxSource cl ws = some m →
        s.fxLocal cl ws (leValue (Memory.bytes s.mem (m + 24) 4)) = true →
        (bits e 63 63 = 0 → gives (.ftxRequest cl) s fun t => ended t 0x20) ∧
        (bits e 63 63 = 1 → s.partOf cl = none → gives (.ftxRequest cl) s fun t => ended t 0x23) ∧
        (bits e 63 63 = 1 → s.partOf cl ≠ none → s.fab.valid = true → bits e 15 0 = s.fab.fid.toNat → gives (.ftxRequest cl) s fun t =>
          headMoved s t cl .ftx ∧ sentHere s t ws m n 3 ∧ t.mem = s.mem ∧ t.cores = s.cores ∧
          t.fab.sends.length = s.fab.sends.length + 1))) ∧
    (∀ (pk : Packet) (p : Fin 12) (cl : Fin 32) (m : Nat), arrived s pk 1 → pk.dstPart.toNat = p.val → s.groupOk p pk = true →
      s.firstCluster p = some cl → s.ixPlace cl (bits pk.w2 47 0) pk.payload.length = some m → bits pk.w3 47 0 = 0 →
      s.inHistory pk.srcFid pk.id = false → s.trackerOf pk.srcFid pk.id = none → s.trackerFree p = true → s.flips = [] →
      s.inject = [] → s.traceEn = false →
      let x := (s.cluster cl).spill
      (pk.ndb = true → x.tail = [] ∧ x.midLen = 0 ∧ x.held = [] ∧
        x.head.length + (x.popped.filter fun c => s.cycle < c + 3).length < 16) → gives (.putPacketReceive pk) s fun t =>
        (∀ i, i < pk.payload.length → Memory.byte t.mem (m + i) = pk.payload.getD i 0) ∧
        elsewhereSame s t m pk.payload.length ∧
        (bits pk.w3 55 48 = 0 → t.inHistory pk.srcFid pk.id = true ∧ t.fab.tracker = s.fab.tracker ∧
          (pk.ndb = true → ∃ w : Word, (t.cluster cl).spill.head = x.head ++ [(w, s.cycle + 3)] ∧ bits w 63 56 = 0x82 ∧
            bits w 39 36 = pk.srcPart.toNat ∧ bits w 31 0 = pk.note.toNat)) ∧
        (bits pk.w3 55 48 ≠ 0 → ∃ x, t.trackerOf pk.srcFid pk.id = some x ∧ x.got = [bits pk.w3 63 56] ∧
          x.npkt = bits pk.w3 55 48 + 1 ∧ x.len = pk.payload.length)) ∧
    (∀ (pk : Packet) (x : Send), arrived s pk 2 → s.sendOf pk.id false = some x → bits pk.w2 55 48 = 0 →
      ¬ bits pk.w2 63 56 ∈ x.acked → gives (.putAckReceive pk) s fun t =>
        (x.acked.length + 1 = x.npkt → t.sendOf pk.id false = none ∧
          t.mem = (ringDone s x.cl (x.words.getD 0 0) x.npkt 0).mem) ∧
        (x.acked.length + 1 ≠ x.npkt → t.sendOf pk.id false = some { x with acked := bits pk.w2 63 56 :: x.acked } ∧
          t.mem = s.mem)) ∧
    (∀ (id : BitVec 40) (k : BitVec 8) (x : Send) (w : Word), s.sendOf id false = some x → x.isReq = false → (k.toNat, w) ∈ x.resend →
      10000 ≤ (s.time - w).toNat → x.npkt ≤ 256 →
      s.fab.valid = true → x.dst = s.fab.fid → gives (.putResend id k) s fun t => ∃ pk,
        t.fab.inbox = s.fab.inbox ++ [pk] ∧ pk.typ = 1 ∧ pk.id = id ∧ bits pk.w3 63 56 = k.toNat ∧
        pk.payload = (x.data.drop (4096 * k.toNat)).take 4096 ∧ t.mem = s.mem) ∧
    (∀ (id : BitVec 40) (x : Send), s.traceEn = false →
      (s.sendOf id false = some x → x.isReq = false → s.fab.putTo.toNat * 1000000 ≤ (s.time - x.start).toNat →
        gives (.putTimeout id) s fun t => t.sendOf id false = none ∧
          t.mem = (ringDone s x.cl (x.words.getD 0 0) x.acked.length 0x22).mem) ∧
      (s.sendOf id true = some x → x.isReq = true → s.fab.reqTo.toNat * 1000000 ≤ (s.time - x.start).toNat →
        gives (.requestTimeout id) s fun t => t.sendOf id true = none ∧
          t.mem = (ringDone s x.cl (x.words.getD 0 0) x.got.length 0x22).mem)) ∧
    (∀ (src : BitVec 16) (id : BitVec 40) (x : Tracker), s.trackerOf src id = some x →
      ((s.time - x.last).toNat < 10000000 → exec (.trackerEntryExpire src id) s = .next s) ∧
      (10000000 ≤ (s.time - x.last).toNat → gives (.trackerEntryExpire src id) s fun t =>
        t.trackerOf src id = none ∧ t.inHistory src id = true ∧
        { t with fab := { t.fab with tracker := s.fab.tracker, history := s.fab.history } } = s)) ∧
    (∀ (pk : Packet) (p : Fin 12), arrived s pk 3 → pk.dstPart.toNat = p.val → s.groupOk p pk = true →
      s.fab.arriving.find? (·.is pk) = none → bits pk.w3 55 48 ≠ 0 → gives (.requestPacketReceive pk) s fun t =>
        t.fab.arriving = s.fab.arriving ++ [⟨pk.srcFid, pk.id, bits pk.w3 55 48 + 1, [(bits pk.w3 63 56, pk.payload)]⟩] ∧ t.fab.inbox = s.fab.inbox.erase pk ∧ t.mem = s.mem) ∧
    (∀ (pk : Packet) (x : Send) (m : Nat), arrived s pk 4 → s.sendOf pk.id true = some x → x.isReq = true → x.got = [] →
      bits pk.w3 63 48 = 0 → pk.payload ≠ [] → pk.payload.length ≤ x.respMax → bits (x.words.getD 4 0) 47 0 = 0 →
      s.ixPlace x.cl (bits (x.words.getD 2 0) 47 0) pk.payload.length = some m → s.flips = [] →
      gives (.responsePacketReceive pk) s fun t => t.sendOf pk.id true = none ∧
        t.mem = (ringDone (s.writeMem m (pk.payload.map some)) x.cl (x.words.getD 0 0) 1 0).mem)

/-- 18 Table 18-2, R397 to R402, R410: a link's way from DOWN to SECURE, its falls to DOWN and FAILED, and flits received and replayed. -/
def Obligations.LinkStatesAndFlits : Prop :=
  ∀ (s : State) (l : Fin 36),
    let k := s.link l
    let still : Prop := k.tx = [] ∧ k.indHeld = []
    let count (t : State) (w n : Nat) : Prop :=
      SMap.get (fun _ => (0 : Word)) (t.link l).cnt w = SMap.get (fun _ => (0 : Word)) k.cnt w + BitVec.ofNat 64 n
    let only (t : State) : Prop := (∀ m, m ≠ l → t.link m = s.link m) ∧ { t with links := s.links, outbox := s.outbox } = s
    (k.st = .down → k.enable = true → k.present = true → k.lowPower = false → s.linksPowered = true → s.pow.moduleFault = false →
      gives (.linkTrainingStart l) s fun t => onlyLink s t l { k with st := .training }) ∧
    (k.st = .training → gives (.linkTrained l) s fun t => only t ∧ t.link l = { k with st := .init, cnt := (t.link l).cnt } ∧
      count t 0 5 ∧ t.outbox = s.outbox ++ [.flit l 0 0xFFF false 0 256 [], .flit l 0 0xFFF false 1 256 [],
        .flit l 0 0xFFF false 2 256 [], .flit l 0 0xFFF false 3 256 [], .flit l 0 0xFFF false 4 32 []]) ∧
    (k.st = .training → gives (.linkTrainingTimeout l) s fun t => linkGone s t l) ∧
    (k.st = .secure → gives (.linkLossOfLock l) s fun t => linkGone s t l) ∧
    (k.st ≠ .down → k.st ≠ .failed → ∀ w, fromCore w = false → gives (.linkRetrain w l) s fun t => linkGone s t l) ∧
    (k.st ≠ .down → k.st ≠ .failed → k.downsWin = s.time.toNat / 10000000000 → 3 ≤ k.downs.toNat →
      gives (.linkFailed l) s fun t => linkGone s t l ∧ (t.link l).st = .failed) ∧
    (∀ x ∈ k.replayed, 8 ≤ x.2 → k.st ≠ .down → k.st ≠ .failed → gives (.replayLimit l) s fun t => linkGone s t l) ∧
    (∀ fl : Flit, k.st = .init →
      (fl.crcOk = false → gives (.initFlitReceived l fl) s fun t =>
        only t ∧ t.outbox = s.outbox ∧ (t.link l).st = .init ∧ count t 1 1 ∧ count t 2 1) ∧
      (fl.crcOk = true → still → (k.indWin = s.time.toNat / 10000 → k.indSent < 64) → gives (.initFlitReceived l fl) s fun t =>
        only t ∧ (t.link l).st = .plain ∧ (t.link l).seqRx = 0 ∧ (t.link l).seqTx = 1 ∧ (t.link l).tx = [] ∧
        ∃ pk, t.outbox = s.outbox ++ [.flit l 0 0xFFF false 7 0 [pk]] ∧ pk.typ = 0x40 ∧
          pk.w2.toNat = s.fab.fid.toNat * 2 ^ 48 + (if s.fab.valid then 2 ^ 47 else 0) + l.val)) ∧
    (k.st = .plain → still →
      let up : Link := { k with st := .secure, keysel := false, epoch := 0, flits := 0, keyAt := s.time }
      (gives (.linkKeysSet l) s fun t => onlyLink s t l up) ∧
      (gives (.spdmSessionRetry l true) s fun t => onlyLink s t l up) ∧ exec (.spdmSessionRetry l false) s = .next s) ∧
    (∀ w, fromCore w = false →
      (k.enable = false → k.st = .failed →
        gives (.linkEnableWrite w l true) s fun t => onlyLink s t l { k with enable := true, st := .down }) ∧
      (k.enable = true ∨ k.st ≠ .failed → gives (.linkEnableWrite w l true) s fun t => onlyLink s t l { k with enable := true }) ∧
      (k.st = .down ∨ k.st = .failed → gives (.linkEnableWrite w l false) s fun t => onlyLink s t l { k with enable := false }) ∧
      (k.st ≠ .down → k.st ≠ .failed → gives (.linkEnableWrite w l false) s fun t =>
        linkGone s t l ∧ (t.link l).enable = false)) ∧
    (∀ fl : Flit, k.st = .secure →
      (fl.crcOk = true → fl.tagOk = true → fl.seq = k.seqRx → fl.packets = [] → still →
        gives (.flitReceive l fl) s fun t => only t ∧ t.outbox = s.outbox ∧ (t.link l).seqRx = k.seqRx + 1 ∧
          (t.link l).replaying = false ∧ (t.link l).rx = k.rx ∧
          (t.link l).replay = k.replay.filter (fun r => 2048 ≤ (fl.ack - r.1).toNat) ∧
          ∀ v, v ≤ 4 → (t.link l).credit v = if v = fl.cvc.toNat then
            min (if v = 4 then 32 else 256) (k.credit v + fl.credits.toNat) else k.credit v) ∧
      (∀ pk, fl.crcOk = true → fl.tagOk = true → fl.seq = k.seqRx → fl.packets = [pk] → packetOk pk = true → pk.typ ≠ 0x41 →
        pk.trace = false → still → gives (.flitReceive l fl) s fun t =>
          only t ∧ t.outbox = s.outbox ∧ (t.link l).seqRx = k.seqRx + 1 ∧ (t.link l).rx = k.rx ++ [pk]) ∧
      (fl.crcOk = false → k.replaying = false → gives (.flitReceive l fl) s fun t => only t ∧ (t.link l).replaying = true ∧
        (t.link l).seqRx = k.seqRx ∧ t.outbox = s.outbox ++ [.flit l k.seqTx (k.seqRx - 1) true 7 0 []]) ∧
      (fl.crcOk = true → fl.tagOk = true → 2048 ≤ (fl.seq - k.seqRx).toNat → gives (.flitReceive l fl) s fun t =>
        only t ∧ t.outbox = s.outbox ∧ (t.link l).seqRx = k.seqRx ∧ (t.link l).rx = k.rx) ∧
      (fl.crcOk = true → fl.tagOk = false → gives (.flitReceive l fl) s fun t => linkGone s t l ∧ t.modLog.contains (.tagFailure l.val)) ∧
      (∀ ack, gives (.nakReplay l ack) s fun t => only t ∧
        t.outbox = s.outbox ++ (k.replay.filter fun r => 2048 ≤ (ack - r.1).toNat).map
          (fun r => .flit l r.1 (k.seqRx - 1) false 7 0 r.2) ∧
        ((t.link l).replay = k.replay.filter fun r => 2048 ≤ (ack - r.1).toNat) ∧
        (t.link l).replayed.map (·.1) = (t.link l).replay.map (·.1)))

/-- 18 R404 to R409, R424 to R427, 19 R452: routing of a packet that waits, PROBE, ANNOUNCE, fault reports, time alignment and the update
of link keys. -/
def Obligations.LinkPackets : Prop :=
  ∀ (s : State) (l : Fin 36) (pk : Packet),
    let k := s.link l
    (k.routable = some pk → s.traceEn = false →
      (s.fab.valid = true → pk.dstFid = s.fab.fid → gives (.packetRoute l) s fun t =>
        t.fab.inbox = s.fab.inbox ++ [pk] ∧ (t.link l).rx = k.rx.erase pk ∧ t.mem = s.mem) ∧
      (∀ m, s.fab.valid = true → pk.dstFid ≠ s.fab.fid → pk.ttl ≠ 0 → s.chooseLink pk = some m → gives (.packetRoute l) s fun t =>
        leaves t m { pk with ttl := pk.ttl - 1 } ∧ t.fab.inbox = s.fab.inbox ∧ (t.link l).rx = k.rx.erase pk) ∧
      (s.fab.valid = true → pk.dstFid ≠ s.fab.fid → pk.ttl = 0 ∨ s.chooseLink pk = none → gives (.packetRoute l) s fun t =>
        SMap.get (fun _ => 0) (t.link l).cnt 5 = SMap.get (fun _ => 0) k.cnt 5 + 1 ∧ (t.link l).rx = k.rx.erase pk)) ∧
    (k.st = .plain ∨ k.st = .secure → gives (.probeSend l) s fun t => ∃ pk, leaves t l pk ∧ pk.typ = 0x40 ∧
      pk.w2.toNat = s.fab.fid.toNat * 2 ^ 48 + (if s.fab.valid then 2 ^ 47 else 0) + l.val) ∧
    (waits s l pk 0x40 → gives (.probeReceive l pk) s fun t => (t.link l).peerFid.toNat = bits pk.w2 63 48 ∧
      (t.link l).peerLink.toNat = bits pk.w2 5 0 ∧ (t.link l).peerValid = pk.w2.getLsbD 47 ∧ (t.link l).rx = k.rx.erase pk ∧
      (∀ m, m ≠ l → t.link m = s.link m) ∧ { t with links := s.links, outbox := s.outbox } = s) ∧
    (waits s l pk 0x51 → s.fab.annEn = true →
      let n := bits pk.w2 63 48
      let e := bits pk.w2 47 32
      let old := s.lmnAt n
      let d := (e + 65536 - bits old 47 32) % 65536
      (bits old 63 63 = 0 ∨ 0 < d ∧ d < 32768 → gives (.announceReceive l pk) s fun t =>
        (t.lmnAt n).toNat = 2 ^ 63 + e * 2 ^ 32 + bits pk.w2 15 0 ∧ ∀ m, m ≠ n → t.lmnAt m = s.lmnAt m) ∧
      (bits old 63 63 = 1 → e = bits old 47 32 → bits pk.w2 15 0 ≠ bits old 15 0 → gives (.announceReceive l pk) s fun t =>
        (t.lmnAt n).toNat = (if bits pk.w2 15 0 < bits old 15 0 then 2 ^ 63 + e * 2 ^ 32 + bits pk.w2 15 0 else old.toNat) ∧
        t.modLog.contains (.announceConflict n)) ∧
      (bits old 63 63 = 1 → 32768 ≤ d → gives (.announceReceive l pk) s fun t => ∀ m, t.lmnAt m = s.lmnAt m)) ∧
    (waits s l pk 0x50 → s.fab.valid = true → pk.dstFid = s.fab.fid →
      (∀ i, i < 128 → (SMap.get (fun _ => ({} : Incident)) s.fab.incidents i).opened = false) →
      gives (.faultReportReceive l pk) s fun t => t.fab.incNext = s.fab.incNext + 1 ∧
        SMap.get (fun _ => ({} : Incident)) t.fab.incidents s.fab.incNext.toNat =
          { first := s.time, last := s.time, suspect := BitVec.ofNat 16 (bits pk.w2 63 48)
            kind := BitVec.ofNat 8 (bits pk.w2 47 40), reports := BitVec.ofNat 32 (bits pk.w2 31 0), opened := true }) ∧
    (gives .faultWindowEnd s fun t => t.fab.reported = s.fab.reported.filter (fun r => r.2.2 = s.time.toNat / 10000000) ∧
      t.fab.suspects = s.fab.suspects.map fun x =>
        if x.win = s.time.toNat / 10000000 then x else { x with count := 0 }) ∧
    (k.st = .secure → s.fab.tsync ≠ 0 → gives (.timesyncSend l) s fun t => ∃ pk, leaves t l pk ∧ pk.typ = 0x42 ∧ pk.w2 = s.time) ∧
    (waits s l pk 0x42 → gives (.timesyncReceive l pk) s fun t =>
      SMap.get (fun _ => ({} : TlogRec)) t.fab.tlog s.fab.tlogNext =
        { w0 := s.time, w1 := BitVec.ofNat 64 (3 * 2 ^ 56 + l.val * 2 ^ 48 + k.peerFid.toNat * 2 ^ 32), w2 := pk.w2 } ∧
      t.fab.tlogNext = (s.fab.tlogNext + 1) % 4096 ∧ (t.link l).rx = k.rx.erase pk) ∧
    (k.st = .secure → 2 ^ 40 ≤ k.flits.toNat ∨ 86400000000000 ≤ (s.time - k.keyAt).toNat → gives (.keyUpdate l) s fun t =>
      onlyLink s t l { k with keysel := !k.keysel, epoch := k.epoch + 1, flits := 0, keyAt := s.time })

/-- 18 R417, R420 to R423: a partition's group, and a Madder cut: its start at the initiator, its spread, the answers it awaits, its end,
and RESUME. -/
def Obligations.MadderCut : Prop :=
  ∀ (s : State) (l : Fin 36) (pk : Packet),
    (∀ (w : Requester) (p : Fin 12) (v : Word), fromCore w = false →
      (s.jobLoaded p = true → gives (.fabPartGrpWrite w p v) s fun t =>
        onlyPart (nowSet s (.grpRefused p)) t p { s.part p with grpRef := true }) ∧
      (s.jobLoaded p = false → gives (.fabPartGrpWrite w p v) s fun t => onlyPart s t p { s.part p with
        group := v.truncate 16, grpRef := (s.part p).grpRef && (!v.getLsbD 16 || s.justSet (.grpRefused p)) })) ∧
    (∀ (w : Requester) (v : Word) (n : Nat), fromCore w = false → v.getLsbD 1 = false → s.slotsOf (BitVec.ofNat 16 (bits v 63 48)) = [] →
      (bits v 63 48 = 0 → gives (.cutGo w v) s fun t => t.fab.cutRefused = true ∧ ∀ m, t.cutAt m = s.cutAt m) ∧
      (bits v 63 48 ≠ 0 → s.idleSlot = some n → gives (.cutGo w v) s fun t =>
        t.cutAt n = { st := .holding, group := BitVec.ofNat 16 (bits v 63 48), epoch := BitVec.ofNat 16 (bits v 47 32)
                      action := v.getLsbD 8, depth := 0, initiator := true, parent := none, since := s.time
                      awaitAck := (List.finRange 36).filter (fun l => (s.link l).st == .secure), hold := true } ∧
        (∀ m, m ≠ n → t.cutAt m = s.cutAt m) ∧
        (v.getLsbD 8 = true → ∀ cl ∈ s.groupClusters (BitVec.ofNat 16 (bits v 63 48)), (t.cluster cl).quiesce = true))) ∧
    (∀ (w : Requester) (v : Word) (n : Nat), fromCore w = false → v.getLsbD 0 = false →
      s.slotsOf (BitVec.ofNat 16 (bits v 63 48)) = [n] → (s.cutAt n).epoch.toNat = bits v 47 32 → (s.cutAt n).st ≠ .superseded →
      gives (.cutResumeWrite w v) s fun t => (t.cutAt n).hold = false ∧
        (t.cutAt n).st = (if (s.cutAt n).st = .holding then .resumed else .free) ∧ ∀ m, m ≠ n → t.cutAt m = s.cutAt m) ∧
    (∀ n, waits s l pk 0x48 → s.slotsOf pk.group = [] → s.idleSlot = some n → gives (.cutReceive l pk) s fun t =>
      (t.cutAt n).st = .holding ∧ (t.cutAt n).group = pk.group ∧ (t.cutAt n).epoch.toNat = bits pk.w2 47 32 ∧
      (t.cutAt n).action = pk.w2.getLsbD 8 ∧ (t.cutAt n).parent = some l ∧ (t.cutAt n).depth.toNat = (pk.note.toNat + 1) % 256 ∧
      (t.cutAt n).awaitAck = (List.finRange 36).filter (fun m => (s.link m).st == .secure && m != l) ∧
      ∀ m, m ≠ n → t.cutAt m = s.cutAt m) ∧
    (∀ n, s.slotFor pk = some n →
      let c := s.cutAt n
      let failed (t : State) : Prop := (t.cutAt n).st = .failed ∧ (t.cutAt n).hold = c.hold ∧ ∀ m, m ≠ n → t.cutAt m = s.cutAt m
      (waits s l pk 0x49 →
        (pk.w2.getLsbD 1 = true → gives (.cutAckReceive l pk) s failed) ∧
        (pk.w2.getLsbD 1 = false → gives (.cutAckReceive l pk) s fun t => t.cutAt n = { c with
          awaitAck := c.awaitAck.filter (· != l)
          awaitDone := if pk.w2.getLsbD 0 = true ∧ ¬ l ∈ c.awaitDone then c.awaitDone ++ [l] else c.awaitDone })) ∧
      (waits s l pk 0x4A →
        (pk.w2.getLsbD 1 = true → gives (.cutDoneReceive l pk) s failed) ∧
        (pk.w2.getLsbD 1 = false → gives (.cutDoneReceive l pk) s fun t => t.cutAt n = { c with
          awaitDone := c.awaitDone.filter (· != l)
          deepest := BitVec.ofNat 8 (max c.deepest.toNat (bits pk.w2 15 8)) }))) ∧
    (∀ slot : Fin 4, (s.cutAt slot.val).st = .holding → s.cutDrained (s.cutAt slot.val) = true →
      gives (.cutLocallyDone slot) s fun t => (t.cutAt slot.val).st = .done ∧
        (t.cutAt slot.val).ticks = s.time - (s.cutAt slot.val).since ∧ (t.cutAt slot.val).hold = (s.cutAt slot.val).hold ∧
        ((s.cutAt slot.val).initiator = true → (t.cutAt slot.val).h.toNat =
          max (s.cutAt slot.val).deepest.toNat (s.cutAt slot.val).depth.toNat) ∧
        ∀ m, m ≠ slot.val → t.cutAt m = s.cutAt m) ∧
    (∀ n, waits s l pk 0x4B → s.slotsOf pk.group = [n] → (s.cutAt n).epoch.toNat = bits pk.w2 47 32 → (s.cutAt n).st ≠ .superseded →
      gives (.cutResumeReceive l pk) s fun t => t.cutAt n = {} ∧ ∀ m, m ≠ n → t.cutAt m = s.cutAt m)

/-- 09 R211, R215 to R218, 11 R249, R254 to R257: aging, write-backs, zeroisation, patrol scrubbing, device marks and the arming of an
injection. -/
def Obligations.CodesAndZeroisation : Prop :=
  ∀ (s : State) (cl : Fin 32),
    let g := s.cluster cl
    let age (m since : Nat) : Prop := (s.cluster (match bankAt m with
      | some b => b.1
      | none => cl)).age.toNat ≤ s.cycle - since
    (∀ k : Fin 128,
      let c : CoreId := ⟨cl, k⟩
      let q := s.core c
      (∀ (i : Fin 16) x, q.loads[i.val]? = some x → age x.addr x.issued → gives (.requestAged c .load i) s fun t =>
        onlyCore s t c { q with loads := q.loads.set i.val { x with aged := true } }) ∧
      (∀ (i : Fin 16) x, q.stores[i.val]? = some x → age x.addr x.issued → gives (.requestAged c .store i) s fun t =>
        onlyCore s t c { q with stores := q.stores.set i.val { x with aged := true } }) ∧
      (∀ m i a (j : Fin 16), q.feAt = some (m, i, a) → age m i → gives (.requestAged c .fullEmpty j) s fun t =>
        onlyCore s t c { q with feAt := some (m, i, true) })) ∧
    (∀ (k : Fin 128) (q : Fin 16) (e : TmExec), g.tmExec.find? (fun e => e.q == q) = some e →
      ((∃ r ∈ e.ranges, (bankAt r.1).isSome ∧ age r.1 e.since) → gives (.requestAged ⟨cl, k⟩ .tileMover q) s fun t => ∃ l,
        (∀ r, r ∈ l ↔ r ∈ e.ranges ∧ (bankAt r.1).isSome ∧ age r.1 e.since) ∧ onlyCluster s t cl { g with
          tmExec := g.tmExec.map fun f => if f.q == e.q then { e with aged := true, claim := l } else f }) ∧
      ((∀ r ∈ e.ranges, (bankAt r.1).isSome → ¬ age r.1 e.since) → exec (.requestAged ⟨cl, k⟩ .tileMover q) s = .next s)) ∧
    (∀ (a : BitVec 32) (p : Nat), a.toNat % 8 = 0 → populated a.toNat = true → a.toNat ∈ g.writebacks → s.inject = [] →
      s.flipsAt (clusterAddr cl a.toNat) = [⟨p, 1⟩] → p < 64 → gives (.correctedWordWriteback cl a) s fun t =>
        t.flipsAt (clusterAddr cl a.toNat) = [] ∧ (∀ b, Memory.byte t.mem b = Memory.byte s.mem b) ∧
        ¬ a.toNat ∈ (t.cluster cl).writebacks ∧ t.cores = s.cores) ∧
    (g.pstate = 0 → g.zeroising = false →
      (s.quiet cl = true ∨ s.coresReset cl = true → gives (.zeroise .mgmt cl) s fun t =>
        (∀ a, a < 0x100000000 → Memory.byte t.mem (clusterAddr cl a) = 0 ∧ t.tagFull (clusterAddr cl a) = false) ∧
        elsewhereSame s t (clusterAddr cl 0) 0x100000000 ∧ (∀ k : Fin 128, t.core ⟨cl, k⟩ = Core.reset (cl.val * 128 + k.val)) ∧
        (∀ d : CoreId, d.cl ≠ cl → t.core d = s.core d) ∧ (t.cluster cl).zeroising = true ∧
        (t.cluster cl).mxq = [] ∧ (t.cluster cl).held = [] ∧ ∀ d, d ≠ cl → t.cluster d = s.cluster d) ∧
      (s.quiet cl = false → s.coresReset cl = false →
        gives (.zeroise .mgmt cl) s fun t =>
          onlyCluster (nowSet s (.memRefused cl)) t cl { g with memRefused := true })) ∧
    (∀ w, w ≠ .mgmt → exec (.zeroise w cl) s = .next s) ∧
    (g.zeroising = true → gives (.zeroiseComplete cl) s fun t => onlyCluster s t cl { g with zeroising := false }) ∧
    (∀ u : ScrubUnit, (s.scrubCtl u).1.enable = true → s.scrubRuns u = true → s.flips = [] →
      gives (.patrolScrubRead u) s fun t => (t.scrubCtl u).2.1 = ((s.scrubCtl u).2.1 + 1) % (s.scrubCtl u).2.2 ∧
        t.mem = s.mem ∧ t.cores = s.cores ∧ ∀ v, v ≠ u → t.scrubCtl v = s.scrubCtl v) ∧
    (∀ (w : Requester) (n : Fin 16) (v : Word), fromCore w = false →
      (s.anyJob = true → exec (.hubD2MarkWrite w n v) s = .next s) ∧
      (s.anyJob = false → gives (.hubD2MarkWrite w n v) s fun t =>
        SMap.get (fun _ => 0) t.d2Mark n.val = v &&& 0x3F3F ∧
        (∀ i, i ≠ n.val → SMap.get (fun _ => 0) t.d2Mark i = SMap.get (fun _ => 0) s.d2Mark i) ∧
        (banksIdle s → ∃ a r, rootAtIs s t a r ∧ r.marks = (List.range 16).map fun i => SMap.get (fun _ => 0) t.d2Mark i) ∧
        { beforeRoots s t with d2Mark := s.d2Mark } = s)) ∧
    (∀ (w : Requester) (m : Fin 3) (v : Word), fromCore w = false → v.getLsbD 0 = true →
      let j : Inject := { s.injectOf m with
        pattern := BitVec.ofNat 16 (bits v 63 48), beat := BitVec.ofNat 8 (bits v 39 32), posB := BitVec.ofNat 8 (bits v 31 24)
        posA := BitVec.ofNat 8 (bits v 23 16), npos := BitVec.ofNat 2 (bits v 3 2)
        refused := (s.injectOf m).refused && (!v.getLsbD 1 || s.justSet (.injRefused m)), arm := true }
      (s.armRefused m j = false → gives (.injectionArm w m v) s fun t => t.injectOf m = j ∧
        (∀ n, n ≠ m → t.injectOf n = s.injectOf n) ∧ { t with inject := s.inject } = s) ∧
      (s.armRefused m j = true → gives (.injectionArm w m v) s fun t =>
        t.injectOf m = { j with arm := false, refused := true } ∧ t.eccNext = s.eccNext + 1 ∧ t.cores = s.cores))

/-- 19 R443 to R448, Tables 19-7, 19-8: the owner's signed commands, each with its own effect, and refused with 0x10 and the nonce spent
where the signature, the slot or the nonce is not good; nonces, Key Per I/O and TCG Opal. -/
def Obligations.SecurityCommands : Prop :=
  ∀ (s : State) (h : Hdr) (g : Signed),
    let x := withoutNonce s.sec g.nonce
    (ownerServed s h → g.verifies = true → s.sec.ownerOk g.slot.val = true → s.nonceOk g.nonce = true →
      (∀ slot : Fin 4, slot ≠ g.slot → s.sec.ownerOk slot.val = true → s.sec.locked 0x22 = false →
        gives (.revokeOwner h g slot) s fun t => t.sec.revoked slot.val = true ∧ ∃ y, secDone s t h y ∧
          ∀ w, w ≠ 0x22 → y.word w = s.sec.word w) ∧
      (∀ hash k, (List.range 4).find? (fun k => !s.sec.enrolled k) = some k → s.sec.locked 0x22 = false →
        (∀ i, i < 6 → s.sec.locked (0x0A + 6 * k + i) = false) → gives (.enrolOwner h (some g) hash) s fun t =>
          t.sec.enrolled k = true ∧ (∃ y, secDone s t h y) ∧
          ∀ i, i < 6 → t.sec.word (0x0A + 6 * k + i) =
            s.sec.word (0x0A + 6 * k + i) ||| BitVec.ofNat 64 (hash.toNat / 2 ^ (64 * i))) ∧
      (s.anyJob = false → s.sec.level = 0 → ∀ i, (List.range 16).find? (fun i => !s.sec.locked (0x24 + i)) = some i →
        gives (.setLevelRaise h g) s fun t => t.sec.locked (0x24 + i) = true ∧ ∃ y, secDone s t h y) ∧
      (s.anyJob = false → s.sec.level ≤ 1 → s.sec.locked 0x23 = false →
        gives (.setLevel2 h g) s fun t => t.sec.level = 2 ∧ ∃ y, secDone s t h y) ∧
      (s.anyJob = false → s.sec.level = 1 → s.sec.epoch < 1024 → (∃ i, i < 16 ∧ s.sec.word (0x34 + i) = 0 ∧
          s.sec.locked (0x34 + i) = false) → gives (.setLevelLower h g) s fun t =>
        (∃ i, t.sec.lowering = some (.erasing i)) ∧ t.sec.kpio = [] ∧ t.sec.withheld = true ∧
        t.outbox = s.outbox ++ [.completion h 0 0 0]) ∧
      (s.anyJob = true → (gives (.setLevelRaise h g) s fun t => secFailed s t h g 0x11) ∧
        (gives (.setLevel2 h g) s fun t => secFailed s t h g 0x11) ∧
        (gives (.setLevelLower h g) s fun t => secFailed s t h g 0x11)) ∧
      (∀ fo fw, gives (.setPolicy h g fo fw) s fun t =>
        secDone s t h { x with fabOwner := fo, ownerFw := fw, storeSeq := s.sec.storeSeq + 1 }) ∧
      (∀ (w : BitVec 8) (v : Word) (lock : Bool), 0xD0 ≤ w.toNat → s.sec.locked w.toNat = false →
        gives (.otpWrite h g w v lock) s fun t => t.sec.word w.toNat = s.sec.word w.toNat ||| v ∧
          t.sec.locked w.toNat = lock ∧ ∃ y, secDone s t h y ∧ ∀ i, i ≠ w.toNat → y.word i = s.sec.word i)) ∧
    (ownerServed s h → ∀ hash : BitVec 384,
      ((∃ k, k < 4 ∧ s.sec.enrolled k = true) → gives (.enrolOwner h none hash) s fun t => answered s t h 7 0x10 0) ∧
      ((∀ k, k < 4 → s.sec.enrolled k = false) → s.sec.locked 0x22 = false → gives (.enrolOwner h none hash) s fun t =>
        t.sec.enrolled 0 = true ∧ ∃ y, secDone s t h y)) ∧
    (ownerServed s h → (g.verifies = false ∨ s.sec.ownerOk g.slot.val = false ∨ s.nonceOk g.nonce = false) →
      ∀ i, (∃ slot, i = .revokeOwner h g slot) ∨ i = .setLevelRaise h g ∨ i = .setLevel2 h g ∨ i = .setLevelLower h g ∨
        (∃ a b, i = .setPolicy h g a b) ∨ (∃ w v l, i = .otpWrite h g w v l) → gives i s fun t => secFailed s t h g 0x10) ∧
    (serving s h false → (∃ p, h.fn = .pf p) →
      (gives (.getNonce h) s fun t => ∃ n : BitVec 256, t.sec = { s.sec with nonces := s.sec.nonces ++ [(n, s.time)] } ∧
        t.outbox = s.outbox ++ [.words h ((List.range 4).map fun i => BitVec.ofNat 64 (n.toNat / 2 ^ (64 * i))),
          .completion h 0 0 0] ∧ fnsPosted s t h ∧
        { t with sec := s.sec, outbox := s.outbox, freeCtr := s.freeCtr, fns := s.fns, cmdAt := s.cmdAt } = s) ∧
      (gives (.debugClose h) s fun t => secDone s t h { s.sec with debugSt := .closed }) ∧
      (g.verifies = true → s.sec.ownerOk g.slot.val = true → s.nonceOk g.nonce = true →
        (gives (.debugOpen h g false) s fun t => secDone s t h { x with debugSt := .openNi }) ∧
        (s.sec.level = 2 → gives (.debugOpen h g true) s fun t => secFailed s t h g 0x11) ∧
        (s.sec.level ≠ 2 → gives (.debugOpen h g true) s fun t => t.sec.debugSt = .openInv ∧ t.sec.kpio = [] ∧
          t.sec.withheld = true ∧ ∀ p, (t.part p).job.state = .none))) ∧
    (∀ n, (s.nonceOk n = true → exec (.nonceExpiry n) s = .next s) ∧
      (s.nonceOk n = false → exec (.nonceExpiry n) s = .next { s with sec := withoutNonce s.sec n })) ∧
    (∀ i, s.sec.lowering = some (.erasing i) → s.sec.locked (0x34 + i) = false → gives .loweringEraseComplete s fun t =>
      t.cfl = [] ∧ t.nss = [] ∧ t.nsMap = [] ∧ t.rootRecs = [] ∧ t.rootAt = none ∧ t.sec.locked (0x34 + i) = true ∧
      bits (t.sec.word (0x34 + i)) 63 56 = 0xFF ∧ t.sec.lowering = none ∧ t.sec.island = .recovery ∧ t.sec.tenantKeys = []) ∧
    (serving s h false → ∀ tag : BitVec 16,
      let key := (FnId.key h.fn, tag)
      (s.sec.kpio.length < 65536 → gives (.keyPerIoInject h tag false) s fun t =>
        secDone s t h { s.sec with kpio := s.sec.kpio.filter (· != key) ++ [key] }) ∧
      (gives (.keyPerIoInject h tag true) s fun t => secDone s t h { s.sec with kpio := s.sec.kpio.filter (· != key) })) ∧
    (serving s h false → ∀ (nsid : BitVec 32) (v : Namespace), s.nsFor h.fn nsid = some v →
      let sets (i : Instr) (v' : Namespace) : Prop := gives i s fun t => t.ns nsid.toNat = some v' ∧
        (∀ n, n ≠ nsid.toNat → t.ns n = s.ns n) ∧ t.outbox = s.outbox ++ [.completion h 0 0 0] ∧ fnsPosted s t h ∧
        { t with nss := s.nss, outbox := s.outbox, fns := s.fns, cmdAt := s.cmdAt } = s
      (v.kpio = false → sets (.tcgOpalCommand h nsid .enableOpal) { v with opal := true }) ∧
      (v.opal = false → sets (.tcgOpalCommand h nsid .enableKeyPerIo) { v with kpio := true }) ∧
      (v.opal = true → sets (.tcgOpalCommand h nsid .lock) { v with locked := true } ∧
        sets (.tcgOpalCommand h nsid .unlock) { v with locked := false } ∧
        gives (.tcgOpalCommand h nsid .genKey) s fun t => t.outbox = s.outbox ++ [.completion h 0 0 0] ∧
          ∃ k, t.ns nsid.toNat = some { v with key := k } ∧ k = s.sec.keyGen + 1))

/-- 12 R262, R266 to R278, Tables 12-4 to 12-6, 12-8, 14 R329, 17 R378, Table 17-3: the read path of the media, from a die's queue over its
planes, its channel and the LDPC engine to the codeword or to recovery and a rebuild; holds, isolated die time, patrol of read disturb and
refresh. The 240 bits of a hard decode and the number of re-reads of step 2 are the model's (logs 1, 27). -/
def Obligations.FlashReadPath : Prop :=
  (∀ (s : State) (pg : PageAddr) (cw : Fin 4) (p : Option (Fin 12)),
    let d := pg.die
    let page := pageKey pg
    let x := s.die d
    let e := engineOf page
    let l := s.ldpcOf e
    let k := cwKey page cw.val
    let r : FlashRead := { page := page, cw := cw, part := p }
    let sensed (t : State) (y : Die) : Prop :=
      t.die d = { y with senses := y.senses ++ [(pg.plane, r)], turned := (t.die d).turned } ∧
        (t.blockAt (blockKey page)).reads = (s.blockAt (blockKey page)).reads + 1 ∧ mediaOnly s t
    (s.dieThere d = false → exec (.dieRead pg ⟨cw, p⟩) s = .next s) ∧
    (s.dieThere d = true → s.dieFailed d = true → gives (.dieRead pg ⟨cw, p⟩) s fun t =>
      t.ldpcOf e = { l with rebuild := l.rebuild ++ [r] } ∧ { t with ldpc := s.ldpc } = s) ∧
    (dieWorks s d →
      (s.prlMerge = true → p ≠ none → (∃ y ∈ x.reads, y.page = page ∧ y.cw = cw ∧ y.part = p) →
        gives (.dieRead pg ⟨cw, p⟩) s fun t => onlyDie s t d x) ∧
      (s.prlMerge = false ∨ p = none →
        (x.op = none → x.reads = [] → s.arb.isolated = false → (∀ y ∈ x.senses, y.1 ≠ pg.plane) →
          gives (.dieRead pg ⟨cw, p⟩) s fun t => sensed t x) ∧
        (x.op = none → x.reads = [] → ((∃ y ∈ x.senses, y.1 = pg.plane) ∨
            s.arb.isolated = true ∧ ∃ q, p = some q ∧ s.posOwner (s.time.toNat / 80000 % 64) ≠ some q) →
          gives (.dieRead pg ⟨cw, p⟩) s fun t => onlyDie s t d { x with reads := [r] }) ∧
        (∀ o, x.op = some o → o.erases page = true → gives (.dieRead pg ⟨cw, p⟩) s fun t =>
          t.die d = x ∧ LogKind.eraseBusyRead ((page * 4 + cw.val) * 8) ∈ t.modLog ∧ { t with modLog := s.modLog } = s) ∧
        (∀ o, x.op = some o → o.erases page = false → o.programs page = false → o.st = .running → s.unsuspended d o = false →
          gives (.dieRead pg ⟨cw, p⟩) s fun t => t.die d = { x with
            op := some { o with st := .suspending, suspAt := s.time }, reads := x.reads ++ [r] } ∧ mediaOnly s t) ∧
        (∀ o, x.op = some o → o.erases page = false → o.programs page = false → o.st = .running → s.unsuspended d o = true →
          gives (.dieRead pg ⟨cw, p⟩) s fun t => onlyDie s t d { x with reads := x.reads ++ [r] }))) ∧
    (∀ o, x.op = some o → o.st = .suspending →
      (x.reads = [] → gives (.suspendEntered d) s fun t => onlyDie s t d { x with op := some { o with st := .suspended } }) ∧
      (x.reads = [r] → x.senses = [] → s.arb.isolated = false → s.unsuspended d o = false → gives (.suspendEntered d) s fun t =>
        sensed t { x with op := some { o with st := .suspended }, reads := [] })) ∧
    (∀ o, x.op = some o → o.st = .suspended → s.mayWork = true → x.senses = [] →
      (x.reads = [] ∨ s.unsuspended d o = true → gives (.dieResume d) s fun t => t.die d = { x with
        op := some { o with st := .running, suspTot := o.suspTot + (s.time - o.suspAt) } } ∧ mediaOnly s t) ∧
      (x.reads ≠ [] → s.unsuspended d o = false → exec (.dieResume d) s = .next s)) ∧
    (x.senses = [(pg.plane, r)] → x.reads = [] → gives (.readSenseComplete d pg.plane) s fun t =>
      t.die d = { x with senses := [] } ∧ t.chan d.ch = { s.chan d.ch with toLdpc := (s.chan d.ch).toLdpc ++ [r] } ∧
      { t with dies := s.dies, chans := s.chans } = s) ∧
    (∀ (n : Fin 16) (ch : Fin 64), let q := s.ldpcOf n
      let c := s.chan ch
      let own := s.posOwner (q.slot / 4 % 64)
      ch.val = 4 * n.val + q.slot % 4 → c.toPraline = [] →
      (∀ z, c.busy = 0 → (own ≠ none ∧ c.toLdpc.find? (fun y => y.part = own) = some z ∨ s.arb.isolated = false ∧ c.toLdpc = [z]) →
        gives (.ldpcSlot n) s fun t => t.ldpcOf n = { q with slot := (q.slot + 1) % 256, inflight := q.inflight ++ [z] } ∧
          t.chan ch = { c with toLdpc := c.toLdpc.erase z, used := (t.chan ch).used } ∧ (∀ i, i ≠ ch → t.chan i = s.chan i) ∧
          (∀ m, m ≠ n → t.ldpcOf m = s.ldpcOf m) ∧ { t with chans := s.chans, ldpc := s.ldpc } = s) ∧
      (c.busy ≠ 0 ∨ c.toLdpc = [] ∨ s.arb.isolated = true ∧ own ≠ none ∧ (∀ y ∈ c.toLdpc, y.part ≠ own) →
        gives (.ldpcSlot n) s fun t => t.ldpcOf n = { q with slot := (q.slot + 1) % 256 } ∧
          t.chan ch = { c with busy := c.busy - 1, used := (t.chan ch).used } ∧ (∀ i, i ≠ ch → t.chan i = s.chan i) ∧
          { t with chans := s.chans, ldpc := s.ldpc } = s)) ∧
    (∀ rest w n, l.inflight = r :: rest → s.cwAt k = some w →
      (w.bad = false → n ≤ 240 → gives (.ldpcPassComplete e n) s fun t =>
        t.ldpcOf e = { l with inflight := rest } ∧ t.outbox = s.outbox ++ [.codeword page cw (some w.data)] ∧
        ((t.blockAt (blockKey page)).refresh = if s.cbt ≤ n then
          some (max n ((s.blockAt (blockKey page)).refresh.getD 0)) else (s.blockAt (blockKey page)).refresh) ∧
        { t with ldpc := s.ldpc, outbox := s.outbox, blocks := s.blocks } = s) ∧
      (w.bad = true ∨ 240 < n → gives (.ldpcPassComplete e n) s fun t =>
        t.ldpcOf e = { l with inflight := rest, recover := l.recover ++ [(r, false)] } ∧ { t with ldpc := s.ldpc } = s)) ∧
    (∀ w tried ok, l.recover.find? (fun y => y.1.page = page && y.1.cw = cw) = some (r, tried) → s.cwAt k = some w →
      let gone := l.recover.erase (r, tried)
      let reads (t : State) (n : Nat) : Prop :=
        (t.blockAt (blockKey page)).reads = (s.blockAt (blockKey page)).reads + BitVec.ofNat 32 n ∧
          (t.blockAt (blockKey page)).refresh ≠ none ∧ (t.chan d.ch).busy = (s.chan d.ch).busy + n
      let only (t : State) : Prop := { t with
        ldpc := s.ldpc, outbox := s.outbox, blocks := s.blocks, freeCtr := s.freeCtr, chans := s.chans, cwords := s.cwords } = s
      (s.dieFailed d = true → gives (.readRecovery pg cw ok) s fun t =>
        t.ldpcOf e = { l with recover := gone, rebuild := l.rebuild ++ [r] } ∧ { t with ldpc := s.ldpc } = s) ∧
      (s.dieFailed d = false → x.op = none → (∀ y ∈ x.senses, y.1 ≠ pg.plane) →
        (gives (.readRecovery pg cw true) s fun t => t.ldpcOf e = { l with recover := gone } ∧
          t.outbox = s.outbox ++ [.codeword page cw (some w.data)] ∧
          (∃ n, (if tried then n = 2 else 1 ≤ n ∧ n ≤ 7) ∧ reads t n) ∧ t.cwords = s.cwords ∧ only t) ∧
        (tried = false → gives (.readRecovery pg cw false) s fun t => t.ldpcOf e = { l with recover := gone ++ [(r, true)] } ∧
          t.outbox = s.outbox ∧ reads t 7 ∧ t.cwords = s.cwords ∧ only t) ∧
        (tried = true → gives (.readRecovery pg cw false) s fun t =>
          t.ldpcOf e = { l with recover := gone, rebuild := l.rebuild ++ [r] } ∧ t.cwAt k = some { w with bad := true } ∧
          t.outbox = s.outbox ∧ reads t 2 ∧ only t))) ∧
    (l.rebuild.find? (fun y => y.page = page && y.cw = cw) = some r → gives (.crossDieRebuildComplete pg cw) s fun t =>
      t.ldpcOf e = { l with rebuild := l.rebuild.erase r } ∧
      t.outbox = s.outbox ++ [.codeword page cw (if s.cwRebuilt k then (s.cwAt k).map (·.data) else none)] ∧
      (∀ b, (t.blockAt b).reads = (s.blockAt b).reads + BitVec.ofNat 32
        ((s.stripeMates k).filter fun j => j / 2 ^ 13 = b && !s.dieFailed (pageDie (j / 4))).length) ∧
      { t with ldpc := s.ldpc, outbox := s.outbox, blocks := s.blocks } = s)) ∧
  (∀ (s : State) (d : DieId),
    let x := s.die d
    (∀ o, x.op = some o → o.st ≠ .running → s.suspLimit ≤ s.suspended o → s.freeBlocks d < s.freeHi →
      gives (.suspLimitReached d) s fun t => t.holdBit d = true ∧
        t.chan d.ch = { s.chan d.ch with hold := (t.chan d.ch).hold } ∧ { t with chans := s.chans } = s) ∧
    (∀ o, x.op = some o → s.suspended o < s.suspLimit → exec (.suspLimitReached d) s = .next s) ∧
    (∀ (ch : Fin 64) (v : Word),
      (gives (.holdWrite .mgmt ch v) s fun t => (t.chan ch).hold = v.truncate 15 ∧
        (t.chan ch).failed = (s.chan ch).failed ∧ (t.chan ch).toLdpc = (s.chan ch).toLdpc ∧
        (∀ c, c ≠ ch → t.chan c = s.chan c) ∧ { t with chans := s.chans } = s) ∧
      ∀ w, w ≠ .mgmt → exec (.holdWrite w ch v) s = .next s) ∧
    (∀ o, x.op = some o → s.arb.isolated = true → (s.turnUnassigned = false ∨ 50000 ≤ s.time.toNat % 80000) → o.st = .running →
      gives (.dieTimeTurn d) s fun t => onlyDie s t d { x with op := some { o with st := .suspending, suspAt := s.time } }) ∧
    (∀ o, x.op = some o → s.arb.isolated = true → s.turnUnassigned = true → s.time.toNat % 80000 < 50000 → o.st = .suspended →
      x.senses = [] →
      gives (.dieTimeTurn d) s fun t => t.die d = { x with
        op := some { o with st := .running, suspTot := o.suspTot + (s.time - o.suspAt) } } ∧ mediaOnly s t) ∧
    (s.arb.isolated = false → x.op ≠ none → exec (.dieTimeTurn d) s = .next s) ∧
    (x.op = none → x.reads = [] → exec (.dieTimeTurn d) s = .next s) ∧
    (∀ (p : Fin 4) (b : Fin 2760) (worst : Nat),
      let k := dieBlock d p.val b.val
      let y := s.blockAt k
      let m := (y.reads + s.lossReads - y.base).toNat / max 1 (bits s.rdCtl 63 32)
      (y.scanned < m → s.dieFailed d = false → gives (.blockScan d p b worst) s fun t =>
        (t.blockAt k).reads = y.reads + BitVec.ofNat 32 (bits s.rdCtl 7 0) ∧ (t.blockAt k).scanned = m ∧
        ((t.blockAt k).refresh = if s.cbt ≤ worst then some (max worst (y.refresh.getD 0)) else y.refresh) ∧
        (∀ j, j ≠ k → t.blockAt j = s.blockAt j) ∧ { t with blocks := s.blocks } = s) ∧
      (m ≤ y.scanned → exec (.blockScan d p b worst) s = .next s) ∧
      (∀ n, let ks := s.validCws fun c => c / 2 ^ 13 = k
        y.refresh = some n → (∀ j v, (j, v) ∈ s.blocks → v.refresh.getD 0 ≤ n) → (∀ c ∈ ks, movable s c ∧ s.cwOwn c = true) →
        s.buffer.length + ks.length ≤ max s.bufCap 16384 → gives (.refresh d p b) s fun t =>
          (t.blockAt k).refresh = none ∧ (t.blockAt k).moved = true ∧ (∀ j, j ≠ k → t.blockAt j = s.blockAt j) ∧
          (t.validCws fun c => c / 2 ^ 13 = k) = [] ∧ t.cwords = s.cwords ∧ t.dies = s.dies) ∧
      (y.refresh = none → exec (.refresh d p b) s = .next s)))

/-- 12 R260, R264, R273, R275, R278 to R280, 13 R286, R295 to R297: programs, erases, reclaim, relocation and failures. Which block is
erased, and that a band is block n of every plane of its group or the block that replaces it, is the model's (log 26). -/
def Obligations.FlashProgramsAndFailures : Prop :=
  ∀ (s : State) (d : DieId),
    let x := s.die d
    (∀ (g : Fin 30) (k : Option Sys2Proof.Class), (∀ y ∈ s.buffer, y.place = none) → (∀ y ∈ s.loose k, s.inTile y = false) →
      let us := s.gatherable g.val k false
      us.Nodup → (∀ b, s.openBand g.val k = some b → (s.bandAt b).carry = none ∧ (s.bandAt b).next < 6144) →
      (∀ b data p, g.val < groupsOf s.variant → s.openBand g.val k = some b →
        s.stripePages g.val b (s.bandAt b).next = some (data, p) → data ≠ [] → 4 * data.length ≤ us.length →
        gives (.stripeProgram g k) s fun t => ∃ u : Stripe, t.stripes = s.stripes ++ [u] ∧ u.pages = p :: data ∧
          u.pending = p :: data ∧ u.units.map (fun v => v.2.2) = us.take (4 * data.length) ∧ u.band = b ∧ u.failed = false ∧
          t.buffer = s.buffer ∧ t.cwords = s.cwords ∧ t.nsMap = s.nsMap ∧
          ∀ q ∈ u.pages, ∃ w ∈ (t.die (pageDie q)).programs, q ∈ w) ∧
      (us.length < 4 * ((s.liveDies g.val).length - 1) → exec (.stripeProgram g k) s = .next s)) ∧
    (∀ w rest, x.programs = w :: rest →
      let whole := w.filter fun p => (w.filter fun q => pagePlane q = pagePlane p).length = 3
      let left := w.filter fun p => !whole.contains p
      (s.dieFree d = true → whole ≠ [] → gives (.dieProgram d) s fun t =>
        t.die d = { x with
          programs := if left = [] then rest else left :: rest
          op := some { kind := .program whole, st := .running, suspAt := 0, suspTot := 0 } } ∧ mediaOnly s t) ∧
      (s.dieFree d = false ∨ whole = [] → exec (.dieProgram d) s = .next s)) ∧
    (∀ o pages, x.op = some o → o.st = .running → o.kind = .program pages → x.reads = [] →
      (s.stripes = [] → gives (.programComplete d true) s fun t => onlyDie s { t with chans := s.chans } d { x with op := none } ∧
        t.holdBit d = false) ∧
      (∀ u, s.stripes = [u] → u.failed = false → (∀ q ∈ u.pending, q ∈ pages) → gives (.programComplete d true) s fun t =>
          t.stripes = [] ∧ (∀ q ∈ u.pages, q ∈ pages → ∀ c : Fin 4, t.cwAt (cwKey q c.val) = some (s.cwOf u q c)) ∧
          ∀ l1 v l2, u.units = l1 ++ v :: l2 → v.2.2 ∈ s.buffer → v.2.2.kind = .unit → s.nsIsTile v.2.2.nsid.toNat = false →
            (∀ w ∈ l1 ++ l2, (w.2.2.nsid, w.2.2.unit) ≠ (v.2.2.nsid, v.2.2.unit)) →
            t.mapAt v.2.2.nsid.toNat v.2.2.unit.toNat = mapEntry v.2.2.cls (faddr v.1 v.2.1.val) ∧
            ((s.buffer.filter (· = v.2.2)).length = 1 → ¬ v.2.2 ∈ t.buffer)) ∧
      (gives (.programComplete d false) s fun t => (t.die d).op = none ∧ t.cwords = s.cwords ∧ t.nsMap = s.nsMap ∧
        t.buffer = s.buffer ∧ (∀ q ∈ pages, (t.blockAt (blockKey q)).retired = true) ∧
        ∀ u ∈ t.stripes, (∃ q ∈ u.pages, q ∈ pages) → u.failed = true)) ∧
    (∀ (planes : BitVec 4) (b : Fin 2760),
      let named (p : Fin 4) : Prop := planes.getLsbD p.val = true
      (planes ≠ 0 → s.dieFree d = true → (∀ p, named p → s.erasable (dieBlock d p.val b.val) = true) →
        gives (.dieErase d planes b) s fun t => t.die d = { x with
          op := some { kind := .erase planes b, st := .running, suspAt := 0, suspTot := 0 } } ∧ mediaOnly s t) ∧
      (planes = 0 ∨ s.dieFree d = false ∨ (∃ p, named p ∧ s.erasable (dieBlock d p.val b.val) = false) →
        exec (.dieErase d planes b) s = .next s) ∧
      ∀ o, x.op = some o → o.st = .running → o.kind = .erase planes b → x.reads = [] →
        (gives (.eraseComplete d true) s fun t => (t.die d).op = none ∧ t.holdBit d = false ∧ t.nsMap = s.nsMap ∧
          t.buffer = s.buffer ∧ (∀ p, named p →
            let k := dieBlock d p.val b.val
            (t.blockAt k).reads = 0 ∧ (t.blockAt k).scanned = 0 ∧ (t.blockAt k).refresh = none ∧
              (t.blockAt k).base = s.lossReads ∧ ∀ c, c / 2 ^ 13 = k → t.cwAt c = none) ∧
          ∀ c, (∀ p, named p → c / 2 ^ 13 ≠ dieBlock d p.val b.val) → s.dieFailed (pageDie (c / 4)) = false →
            t.cwAt c = s.cwAt c) ∧
        (gives (.eraseComplete d false) s fun t => (t.die d).op = none ∧
          ∀ p, named p → (t.blockAt (dieBlock d p.val b.val)).retired = true)) ∧
    (s.dieThere d = true → x.failed = false → (gives (.dieStatusTimeout d) s fun t => dieLost s t d) ∧
      (64 < x.retired → gives (.blockRetireLimit d) s fun t => dieLost s t d)) ∧
    (x.retired ≤ 64 → exec (.blockRetireLimit d) s = .next s) ∧
    (∀ ch : Fin 64, (s.chan ch).failed = false → gives (.channelTrainingFailed ch) s fun t =>
      t.chan ch = { s.chan ch with failed := true, toLdpc := [] } ∧ (∀ c, c ≠ ch → (t.chan c).failed = (s.chan c).failed) ∧
      (∀ n : Fin 15, s.dieThere ⟨ch, n⟩ = true → (t.die ⟨ch, n⟩).failed = true ∧ (t.die ⟨ch, n⟩).op = none) ∧
      (∀ e : DieId, e.ch ≠ ch → (t.die e).failed = (s.die e).failed) ∧ LogKind.channelFailed (ch.val * 2 ^ 34) ∈ t.modLog ∧
      (banksIdle s → t.journal = 0)) ∧
    (∀ pg : PageAddr, let ks := s.validCws fun k => k / 4 = pageKey pg
      (s.buffer.length + ks.length ≤ max s.bufCap 16384 → (∀ c ∈ ks, movable s c) →
        (∃ e ∈ groupDies s.variant (groupOf s.variant pg.die), s.dieFailed e = true) → gives (.relocation pg) s fun t =>
          (t.validCws fun k => k / 4 = pageKey pg) = [] ∧ t.cwords = s.cwords ∧ t.dies = s.dies) ∧
      ((∀ e ∈ groupDies s.variant (groupOf s.variant pg.die), s.dieFailed e = false) →
        exec (.relocation pg) s = .next s)) ∧
    (∀ (g : Fin 30) y, let ks := s.validCws fun k => s.bandOfPage (k / 4) = y.1
      g.val < groupsOf s.variant → s.freeBands g.val < bits s.mediaCtl 15 8 → s.reclaimChoice g.val = some y →
      s.buffer.length + ks.length ≤ max s.bufCap 16384 → (∀ c ∈ ks, movable s c) →
      gives (.reclaim g) s fun t => (t.validCws fun k => t.bandOfPage (k / 4) = y.1) = [] ∧ t.cwords = s.cwords ∧
        t.bands = s.bands) ∧
    (∀ g : Fin 30, bits s.mediaCtl 15 8 ≤ s.freeBands g.val → exec (.reclaim g) s = .next s)

/-- 21 R468, R472, R478 to R484, Tables 21-4 to 21-6, 19 R437, R447, 13 R301, R305, 22 R489, R491, R497: the steps of start-up, and what
each reset and each loss of an input leaves. A RESET# pulse between the limits is a free choice (log 1). -/
def Obligations.StartUpAndResets : Prop :=
  ∀ s : State,
    let q := s.pow
    let debug : DebugState := if s.sec.level = 0 then .openInv else .closed
    (q.stage = .off → gives .powerOn s fun t => t.time = 0 ∧
      t.pow = { q with mainIn := true, auxIn := true, stage := .alwaysOn, lastReset := 1 } ∧ t.sec.debugSt = debug ∧
      { t with time := s.time, pow := s.pow, sec := s.sec } = s) ∧
    (q.stage ≠ .off → exec .powerOn s = .next s) ∧
    (q.stage = .alwaysOn → s.sec.lowering = none → ∀ k : Fin 2,
      (s.slotOk k = true ∧ (k = s.sec.nextSlot ∨ s.slotOk s.sec.nextSlot = false) → gives .firmwareVerify s fun t =>
        t.pow = { q with stage := .verified } ∧ t.sec.island = .running ∧ t.sec.activeSlot = k ∧ t.sec.otp = s.sec.otp ∧
        t.mgmt = { s.mgmt with beatAt := s.time } ∧ { t with pow := s.pow, sec := s.sec, mgmt := s.mgmt } = s) ∧
      (s.slotOk 0 = false → s.slotOk 1 = false → gives .firmwareVerify s fun t =>
        t = { s with sec := { s.sec with island := .recovery } })) ∧
    (∀ img : FwImage, s.sec.island = .recovery →
      (img.ownerSigned = false → s.fwOk img = true → gives (.recoveryImage img) s fun t => afterReset s t q.lastReset ∧
        (s.sec.banks = [] → SMap.get (fun _ => none) t.sec.fw 0 = some img) ∧ t.sec.nextSlot = 0) ∧
      (img.ownerSigned = true ∨ s.fwOk img = false → exec (.recoveryImage img) s = .next s)) ∧
    (q.stage = .verified → q.mainIn = true →
      (s.newestRoot = none → gives .storageDomainPowerUp s fun t =>
        t = { s with pow := { q with stage := .storage }, nss := [], modLog := s.modLog ++ [.noRecord] }) ∧
      ∀ a r, s.newestRoot = some (a, r) → gives .storageDomainPowerUp s fun t => t.pow = { q with stage := .storage } ∧
        t.rootAt = some a ∧ t.rootSeq = r.seq ∧ t.mapDir = r.dir ∧
        (∀ n, (t.ns n).map (·.blocks) = (SMap.get (fun _ => none) r.nss n).map (·.blocks)) ∧ t.arb = r.arb ∧ t.san = r.san ∧ (∀ i, SMap.get (fun _ => 0) t.d2Mark i = r.marks.getD i 0) ∧
        (∀ i, SMap.get (fun _ => 0) t.reserve i = r.reserves.getD i 0) ∧
        (∀ p : Fin 12, (t.part p).cfg = r.parts.getD p.val none ∧ (t.part p).job = (s.part p).job ∧
          ∀ i, SMap.get (fun _ => none) (t.part p).bindings i = (r.bindings.getD p.val []).getD i none) ∧
        (∀ e ∈ r.failed, ∀ c : Fin 64, c.val = e.1 → (e.2.2 = true → (t.chan c).failed = true) ∧
          ∀ d : Fin 15, e.2.1.getLsbD d.val = true → (t.die ⟨c, d⟩).failed = true)) ∧
    (q.stage = .storage → gives .d2TrainingDone s fun t => stageOnly s t { q with stage := .d2Trained }) ∧
    (q.stage = .d2Trained → gives .d2FillDone s fun t => t.pow = { q with stage := .d2Filled, compute := .powered } ∧
      zeroed t d2Base (d2Top - d2Base) ∧ elsewhereSame s t d2Base (d2Top - d2Base) ∧ t.cores = s.cores) ∧
    (q.stage = .d2Filled → gives .ftlRootsLoaded s fun t => t.pow = { q with
      stage := .rootsLoaded, torn := false, dirtyLosses := q.dirtyLosses + if q.torn then 1 else 0 } ∧ t.nss = s.nss ∧
      t.mem = s.mem ∧ t.parts = s.parts ∧ t.cores = s.cores ∧
      (s.mapDir = [] → s.journalAt s.replayStart = none → t.nsMap = s.nsMap)) ∧
    (q.compute = .powered → gives .d1TrainingDone s fun t => stageOnly s t { q with compute := .trained }) ∧
    (q.compute = .trained → gives .d1FillDone s fun t => t.pow = { q with compute := .filled } ∧ zeroed t 0 d1Top ∧
      elsewhereSame s t 0 d1Top ∧ t.cores = s.cores) ∧
    (q.stage = .rootsLoaded →
      (q.holdupOk = true → gives .nvmeReady s fun t => stageOnly s t { q with stage := .ready }) ∧
      (q.holdupOk = false → exec .nvmeReady s = .next s)) ∧
    (q.compute = .filled → (∀ x ∈ s.heldCmds, Held.isCompute x = false) → gives .computeReady s fun t =>
      t.pow = { q with compute := .ready } ∧ (∀ cl, clusterZeroed t cl) ∧ t.heldCmds = s.heldCmds) ∧
    (q.compute ≠ .filled → exec .computeReady s = .next s) ∧
    (∀ n : Nat,
      (q.stage = .off ∨ n ≤ 950 → exec (.resetPin n) s = .next s) ∧
      (q.stage ≠ .off → 1100 ≤ n → gives (.resetPin n) s fun t => afterReset s t 2) ∧
      (q.stage ≠ .off → 950 < n → n < 1100 → gives (.resetPin n) s fun t =>
        afterReset s t 2 ∨ t = { s with freeCtr := s.freeCtr + 1 })) ∧
    (∀ p : Port,
      (s.ownsem = semOf p → s.anyJob = false → gives (.moduleResetWrite (.bar2 p)) s fun t => afterReset s t 3) ∧
      (s.ownsem ≠ semOf p ∨ s.anyJob = true → exec (.moduleResetWrite (.bar2 p)) s = .next s) ∧
      (s.absent p = false → s.ownsem = semOf p → s.san.active = none → s.anyJob = false →
        gives (.nvmSubsystemReset p) s fun t => afterReset s t 4) ∧
      (s.absent p = true ∨ s.ownsem ≠ semOf p → exec (.nvmSubsystemReset p) s = .next s)) ∧
    (∀ done : Bool, q.mainIn = true →
      (q.auxIn = true → gives (.mainInputLoss done) s fun t => domainsFresh t ∧ lasting s t ∧ t.pow.mainIn = false ∧
        t.pow.auxIn = true ∧ t.time = s.time ∧ t.sec = s.sec ∧ (banksIdle s → t.modLog = s.modLog ++ [.mainLost]) ∧
        t.pow.stage = (if q.stage = .alwaysOn then .alwaysOn else .verified) ∧
        t.pow.lossAt = (if q.stage = .ready then some s.time else none) ∧
        (q.stage = .ready → done = false → t.pow.torn = true) ∧
        (q.stage = .ready → q.fatal = false → done = true → (banksIdle s → t.journal = 0) ∧ t.pow.torn = q.torn)) ∧
      (q.auxIn = false → gives (.mainInputLoss done) s fun t => domainsFresh t ∧ lasting s t ∧ t.pow.stage = .off ∧ t.time = 0)) ∧
    (q.mainIn = false → q.stage ≠ .off →
      let u : State := { s with pow := { q with mainIn := true, lossAt := none } }
      (q.lossAt = none → gives .mainInputReturn s fun t => t = u) ∧
      ∀ a, q.lossAt = some a →
        ((s.time - a).toNat ≤ lossTicks s.variant → gives .mainInputReturn s fun t => afterReset u t q.lastReset) ∧
        (lossTicks s.variant < (s.time - a).toNat → gives .mainInputReturn s fun t => t = u)) ∧
    (q.auxIn = true →
      (q.mainIn = true → gives .auxInputLoss s fun t =>
        t = { s with pow := { q with auxIn := false }, modLog := s.modLog ++ [.auxLost] }) ∧
      (q.mainIn = false → gives .auxInputLoss s fun t => domainsFresh t ∧ lasting s t ∧ t.pow.stage = .off)) ∧
    (q.auxIn = false → exec .auxInputLoss s = .next s)

/-- The controller of port p asks for power state m: autonomous transitions are on, and the idle time of the entry for the present state
has passed since the last command (16 R365; the entry's layout and the module's one idle time are the model's choice, log 118). -/
def asksFor (s : State) (p : Port) (m : Nat) : Prop :=
  let e := (s.fn (.pf p)).apst.getD s.pow.pstate.val 0
  s.serves (.pf p) = true ∧ (s.fn (.pf p)).feat 0x0C ≠ 0 ∧ bits e 31 8 ≠ 0 ∧ bits e 31 8 * 1000000 ≤ (s.time - s.cmdAt).toNat ∧ bits e 7 3 = m

/-- 16 R364, R365, Table 16-6, 21 R470, R473 to R477, Tables 21-1, 21-10, 22 R490, R493: power states, cluster sleep, clock steps under
the cap and the temperatures, receptacles and the sideband. -/
def Obligations.PowerAndClocks : Prop :=
  ∀ s : State,
    let q := s.pow
    (∀ (p : Port) (n : Fin 5), s.serves (.pf p) = true → (∃ r, asksFor s r n) →
      (∀ r, s.serves (.pf r) = true → ∃ m, n.val ≤ m ∧ asksFor s r m) → s.heldCmds = [] → q.move = none →
      q.pstate < n → (n = 1 → s.allIdle = true) → (2 ≤ n.val → s.anyJob = false) → gives (.apstIdleTimeout p) s fun t =>
        stageOnly s t { q with move := some (.entering n) }) ∧
    (∀ p : Port, s.heldCmds ≠ [] ∨ (∃ r, s.serves (.pf r) = true ∧ ∀ m, ¬ asksFor s r m) ∨ s.serves (.pf p) = false →
      exec (.apstIdleTimeout p) s = .next s) ∧
    (∀ n : Fin 5, q.move = some (.entering n) → s.heldCmds = [] →
      (gives .powerStateEntryComplete s fun t => t.pow.pstate = n ∧ (2 ≤ n.val → t.pow.compute = .off ∧ t.cores = [] ∧
        zeroed t 0 d1Top ∧ (∀ cl, zeroed t (clusterAddr cl 0) winSize)) ∧
        (n = 4 → zeroed t d2Base (d2Top - d2Base) ∧ t.buffer = [] ∧ (banksIdle s → t.journal = 0)) ∧
        (n = 1 → ∀ cl, ((s.cluster cl).pstate = 0 → (t.cluster cl).pstate = 1 ∧ (t.cluster cl).wakeFrom = 1)) ∧
        (q.wakeTo = none → t.pow.move = none) ∧
        ∀ w, q.wakeTo = some w → w < n → t.pow.move = some (.exiting (if 2 < n then 2 else w)))) ∧
    (∀ h nsid, q.move = some (.entering 2) → q.wakeTo = none → s.mgmt.halted = false → s.heldCmds = [.wakeWait (.nvmFlush h nsid)] →
      (gives .powerStateEntryComplete s fun t => t.pow.pstate = 2 ∧ t.pow.move = none ∧ .wakeWait (.nvmFlush h nsid) ∉ t.heldCmds)) ∧
    (∀ w : Wake,
      (q.move = none → wakeTarget w < q.pstate → gives (.powerStateExit w) s fun t =>
        t.pow.move = some (.exiting (if 2 < q.pstate then 2 else wakeTarget w)) ∧ t.pow.pstate = q.pstate ∧
        (t.outbox = s.outbox ++ match w with
          | .fabric _ => [.wakePulse]
          | _ => []) ∧ { t with pow := s.pow, outbox := s.outbox } = s) ∧
      (q.move = none → q.pstate ≤ wakeTarget w → exec (.powerStateExit w) s = .next s)) ∧
    (∀ n : Fin 5, q.move = some (.exiting n) → q.wakeTo = none → s.heldCmds = [] → gives .powerStateExitComplete s fun t =>
      t.pow.pstate = n ∧ t.pow.move = none ∧ t.cores = s.cores ∧
      (n = 0 → (∀ cl, (s.cluster cl).pstate = 1 → (t.cluster cl).pstate = 0) ∧ (q.pstate ≠ 2 → t.mem = s.mem) ∧
        (q.pstate = 2 → q.moduleFault = false → t.pow.compute = .ready ∧ zeroed t 0 d1Top ∧ ∀ cl, zeroed t (clusterAddr cl 0) winSize)) ∧
      (n ≠ 0 → t.clusters = s.clusters ∧ (q.pstate ≠ 4 → t.mem = s.mem) ∧ (q.pstate = 4 → zeroed t d2Base (d2Top - d2Base)))) ∧
    (∀ cl : Fin 32, let g := s.cluster cl
      (g.pstate = 0 → g.gateEn = true → (s.quiet cl = true ∨ s.coresReset cl = true) → q.compute = .ready →
        gives (.clusterGate cl) s fun t => onlyCluster s t cl { g with pstate := 1, wakeFrom := 1 }) ∧
      (g.pstate ≠ 0 ∨ g.gateEn = false ∨ (s.quiet cl = false ∧ s.coresReset cl = false) →
        exec (.clusterGate cl) s = .next s) ∧
      (g.offEn = true → (g.pstate = 0 ∨ g.pstate = 1) → s.jobOn cl = false → (s.quiet cl = true ∨ s.coresReset cl = true) →
        q.compute = .ready →
        gives (.clusterPowerOff cl) s fun t => (t.cluster cl).pstate = 2 ∧ (t.cluster cl).wakeFrom = 2 ∧ clusterZeroed t cl ∧
          elsewhereSame s t (clusterAddr cl 0) winSize ∧ ∀ d, d ≠ cl → t.cluster d = s.cluster d) ∧
      (g.offEn = false ∨ s.jobOn cl = true ∨ (s.quiet cl = false ∧ s.coresReset cl = false) →
        exec (.clusterPowerOff cl) s = .next s) ∧
      (q.compute = .ready → (g.pstate = 1 ∨ g.pstate = 2) → gives (.clusterWake cl) s fun t =>
        onlyCluster s t cl { g with pstate := 3, wakeFrom := g.pstate }) ∧
      (g.pstate = 3 → g.wakeWrites = [] → s.heldCmds = [] → gives (.clusterWakeComplete cl) s fun t =>
        (t.cluster cl).pstate = 0 ∧ (t.cluster cl).wakeFrom = 0 ∧
        (g.wakeFrom = 1 → onlyCluster s t cl { g with pstate := 0, wakeFrom := 0 }) ∧ (g.wakeFrom = 2 → clusterZeroed t cl)) ∧
      ∀ (w : Requester) (v : Word), let n := bits v 4 0
        (fromCore w = true ∨ n < 8 ∨ 28 < n → exec (.clusterStepWrite w cl v) s = .next s) ∧
        (fromCore w = false → 8 ≤ n → n ≤ 28 → gives (.clusterStepWrite w cl v) s fun t => onlyCluster s t cl { g with
          gateEn := bit v 17, offEn := bit v 16, setStep := BitVec.ofNat 5 n
          cur := if q.throttled then 8 else if q.capped && g.cur < BitVec.ofNat 5 n then g.cur else BitVec.ofNat 5 n })) ∧
    (∀ watts : BitVec 16, gives (.powerCapWindowEnd watts) s fun t => t.pow = { q with watts := watts } ∧
      (∀ cl, let g := s.cluster cl
        t.cluster cl = { g with cur :=
          if q.capped && !q.throttled then
            if q.pcap < watts then (if g.pstate = 0 ∧ 8 < g.cur then g.cur - 1 else g.cur)
            else if watts.toNat * 100 < q.pcap.toNat * 95 ∧ g.cur < g.setStep then g.cur + 1 else g.cur
          else g.cur }) ∧ { t with pow := s.pow, clusters := s.clusters } = s) ∧
    (∀ c : BitVec 8,
      (105 ≤ c.toNat → gives (.thermalThrottle c) s fun t => t.pow = { q with tempMax := c, throttled := true } ∧
        (∀ cl, t.cluster cl = { s.cluster cl with cur := 8 }) ∧ { t with pow := s.pow, clusters := s.clusters } = s) ∧
      (c.toNat < 105 → gives (.thermalThrottle c) s fun t => stageOnly s t { q with tempMax := c }) ∧
      (q.throttled = true → c.toNat < 100 → gives (.thermalRecover c) s fun t =>
        t.pow = { q with tempMax := c, throttled := false } ∧
        (∀ cl, t.cluster cl = { s.cluster cl with cur := (s.cluster cl).setStep }) ∧
        { t with pow := s.pow, clusters := s.clusters } = s) ∧
      (100 ≤ c.toNat → gives (.thermalRecover c) s fun t => stageOnly s t { q with tempMax := c }) ∧
      (115 ≤ c.toNat → gives (.thermalTrip c) s fun t => moduleFaulted s t ∧ t.pow.tempMax = c ∧ t.pow.fatal = q.fatal) ∧
      (c.toNat < 115 → gives (.thermalTrip c) s fun t => stageOnly s t { q with tempMax := c })) ∧
    (∀ (r : Fin 9) (n : Nat), gives (.receptacleModuleInsert r n) s fun t =>
      SMap.get (fun _ => none) t.cables r.val = some n ∧
      (∀ l : Fin 36, l.val / 4 = r.val → (t.link l).present = true ∧ (t.link l).lowPower = decide (50 < n) ∧
        ((t.link l).st = .down ∨ (t.link l).st = .failed)) ∧
      (∀ l : Fin 36, l.val / 4 ≠ r.val → (t.link l).st = (s.link l).st ∧ (t.link l).present = (s.link l).present) ∧
      (50 < n → LogKind.receptaclePower r.val ∈ t.modLog) ∧ t.cores = s.cores) ∧
    (∀ led : Option Bool,
      (s.sec.island = .running → gives (.nvmeMiMessage led) s fun t => t.outbox = s.outbox ++ [.mi] ∧
        t.pow.led = led.getD q.led ∧ (q.move = none → 2 < q.pstate → t.pow.move = some (.exiting 2)) ∧
        (q.move = none → q.pstate ≤ 2 → t.pow.move = none) ∧ { t with pow := s.pow, outbox := s.outbox } = s) ∧
      (s.sec.island ≠ .running → exec (.nvmeMiMessage led) s = .next s))

/-- 20 R458, R461, R465 to R467, 19 R447, R449, Table 19-18, 16 R374: the pair of management processors and its mirror, counter snapshots,
tensor watch records, the debug port, and register writes by offset. -/
def Obligations.ManagementAndDebug : Prop :=
  ∀ s : State,
    let m := s.mgmt
    (∀ p : Fin 2,
      (s.sec.island = .running → m.halted = false → p = m.active → gives (.mgmtHeartbeat p) s fun t =>
        t = { s with mgmt := { m with beatAt := s.time } }) ∧
      (p ≠ m.active ∨ m.halted = true → exec (.mgmtHeartbeat p) s = .next s)) ∧
    (∀ e : Bool,
      (s.sec.island = .running → e = true ∨ 5000000 ≤ (s.time - m.beatAt).toNat →
        (m.standbyOk = true → s.traceEn = false → ∀ a r, s.newestMirror = some (a, r) → gives (.mgmtTakeover e) s fun t =>
          t.mgmt = { m with active := 1 - m.active, standbyOk := false, beatAt := s.time, takeovers := m.takeovers + 1 } ∧
          t.modLog = r.modLog ++ [.mgmtTakeover] ∧ (∀ p : Fin 12, (t.part p).watches = r.watches.getD p.val []) ∧
          t.sec.spdmNvme = [] ∧ t.sec.spdmI3c = {} ∧ t.sec.spdmLink = s.sec.spdmLink ∧ t.cores = s.cores ∧ t.mem = s.mem ∧
          ∀ p : Fin 12, (t.part p).job.state = (s.part p).job.state ∧ (t.part p).job.waiter = none) ∧
        (m.standbyOk = false → gives (.mgmtTakeover e) s fun t => moduleFaulted s t ∧ t.pow.fatal = true)) ∧
      (e = false → (s.time - m.beatAt).toNat < 5000000 → exec (.mgmtTakeover e) s = .next s)) ∧
    (s.sec.island = .running → m.standbyOk = true → gives .standbyFailure s fun t =>
      t = { s with mgmt := { m with standbyOk := false }, modLog := s.modLog ++ [.standbyFailed] }) ∧
    (s.sec.island = .running → m.halted = false →
      (banksIdle s → (∀ a, m.mirrorAt = some a → 10000000000 ≤ (s.time - a).toNat ∧
          (m.mirrorInt.toNat * 1000000000 ≤ (s.time - a).toNat ∨ s.mirrorStale = true)) →
        gives .mirrorWrite s fun t => ∃ a r, SMap.get (fun _ => (none : Option MirrorRec)) t.mgmt.mirrors a = some r ∧
          (∀ i, i < r.size → t.cflByte (a + i) = (mirrorBytes r).getD i 0) ∧ r.size ≤ 32768 ∧ r.time = s.time ∧
          r.modLog = s.modLog ∧ r.errLog = s.errLog ∧ (∀ p : Fin 12, r.watches.getD p.val [] = (s.part p).watches) ∧
          r.fns = s.fns.map (fun e => (e.1, e.2.feats, e.2.events, e.2.apst)) ∧ t.mgmt.mirrorAt = some s.time ∧
          (∀ b x, s.newestMirror = some (b, x) → r.seq = x.seq + 1 ∧ regionOf a = !regionOf b) ∧
          { t with mgmt := s.mgmt, cfl := s.cfl } = s) ∧
      ∀ a, m.mirrorAt = some a → (s.time - a).toNat < 10000000000 ∨
          ((s.time - a).toNat < m.mirrorInt.toNat * 1000000000 ∧ s.mirrorStale = false) → exec .mirrorWrite s = .next s) ∧
    (let w := s.time.toNat / 1000000;
      (w ≠ 0 → gives .counterSnapshotWindow s fun t => (∀ p : Fin 12, (∃ x, t.part p = { s.part p with snapshot := x }) ∧
        SMap.get (fun _ => 0) (t.part p).snapshot 0 = BitVec.ofNat 64 (w - 1) ∧
        ∀ i, i < 19 → SMap.get (fun _ => 0) (t.part p).snapshot (i + 1) =
          SMap.get (fun _ => 0) (if (s.part p).edgeWin = w then (s.part p).edge else (s.part p).pcnt) i) ∧
        { t with parts := s.parts } = s) ∧
      (w = 0 → exec .counterSnapshotWindow s = .next s)) ∧
    (∀ (cl : Fin 32) (w : Fin 4) (p : Fin 12) (d : Dump) (v : Watch),
      (s.cluster cl).dumps.find? (fun x => x.w == w) = some d → s.partOf cl = some p → s.watchAt p w.val = some v →
      s.dumpFirst p d = true → s.flips = [] → s.traceEn = false →
      let all := Memory.bytes s.mem (clusterAddr cl d.foot.1) d.foot.2 ++
        Memory.bytes s.mem (clusterAddr cl d.scales.1) d.scales.2
      let n := 1 + (min 16777216 all.length + 4095) / 4096
      let a := v.data.logLba.toNat + v.next
      (v.full = true ∨ v.data.maxDumps.toNat ≤ v.dumps → gives (.tensorWatchDump cl w) s fun t =>
        onlyCluster s t cl { s.cluster cl with dumps := (s.cluster cl).dumps.erase d }) ∧
      (v.full = false → v.dumps < v.data.maxDumps.toNat → v.data.logBlocks.toNat < v.next + n →
        gives (.tensorWatchDump cl w) s fun t => t.watchAt p w.val = some { v with full := true } ∧ t.buffer = s.buffer) ∧
      (v.full = false → v.dumps < v.data.maxDumps.toNat → v.next + n ≤ v.data.logBlocks.toNat →
        s.nsWritable v.data.logNsid.toNat = true → s.nsIsTile v.data.logNsid.toNat = false →
        a + n ≤ s.nsBlocks v.data.logNsid.toNat → a + n ≤ 2 ^ 38 →
        s.hostRoom (some p) .warm (s.writeCost v.data.logNsid.toNat a n) = true → bufferLeast ≤ s.bufCap →
        gives (.tensorWatchDump cl w) s fun t =>
          t.watchAt p w.val = some { v with dumps := v.dumps + 1, next := v.next + n } ∧
          (t.cluster cl).dumps = (s.cluster cl).dumps.erase d ∧
          ∀ i, i + 1 < n → t.readUnit v.data.logNsid.toNat (a + 1 + i) =
            some (ofUnit (((all.take 16777216).drop (4096 * i)).take 4096)))) ∧
    (s.pow.stage ≠ .off →
      let x := s.sec
      (gives .tapIdcode s fun t => tapOut s t 0x01
        (Config.stepping.toNat % 16 * 2 ^ 28 + 0x5A54 * 2 ^ 12 + 0x2B7 * 2 + 1) ∧ t.pow = s.pow) ∧
      (gives .tapSample s fun t => tapOut s t 0x02 s.pow.contacts.toNat) ∧
      (gives .trstAssert s fun t => t = { s with sec := { x with tapIr := 0x01 } }) ∧
      (x.debugSt = .closed → ∀ (a : BitVec 48) (v : Word),
        (∀ i ∈ [(Instr.tapDbgAddr a, (0x20 : Byte)), (.tapDbgDataRead, 0x21), (.tapDbgDataWrite v, 0x21), (.tapDbgCtlHalt, 0x22),
            (.tapDbgCtlResume, 0x22)], gives i.1 s fun t =>
          t = { s with sec := { x with tapIr := i.2 }, outbox := s.outbox ++ [.tap 0] })) ∧
      (x.debugSt ≠ .closed → ∀ a : BitVec 48, gives (.tapDbgAddr a) s fun t => tapOut s t 0x20 x.tapAddr.toNat ∧
        t.sec = { x with tapIr := 0x20, tapAddr := a }) ∧
      (x.debugSt ≠ .closed → x.tapAddr.toNat % 8 ≠ 0 → ∀ v : Word,
        (gives .tapDbgDataRead s fun t => tapAccess s t true x.tapData ∧ t.mem = s.mem) ∧
        (gives (.tapDbgDataWrite v) s fun t => tapAccess s t true x.tapData ∧ t.mem = s.mem)) ∧
      (x.debugSt = .openNi → x.tapAddr.toNat % 8 = 0 → ∀ v : Word,
        (gives (.tapDbgDataWrite v) s fun t => tapAccess s t false x.tapData ∧ t.mem = s.mem) ∧
        (x.tapAddr.toNat < d1Top → gives .tapDbgDataRead s fun t => tapAccess s t false 0 ∧ t.mem = s.mem)) ∧
      (x.debugSt = .openInv → x.tapAddr.toNat % 8 = 0 → x.tapAddr.toNat < d1Top → s.flips = [] → s.inject = [] → ∀ v : Word,
        (gives .tapDbgDataRead s fun t => t.mem = s.mem ∧ ∃ d : Word, d.toNat = leValue (Memory.bytes s.mem x.tapAddr.toNat 8) ∧
          tapAccess s t false d) ∧
        (gives (.tapDbgDataWrite v) s fun t => tapAccess s t false x.tapData ∧
          leValue (Memory.bytes t.mem x.tapAddr.toNat 8) = v.toNat ∧ elsewhereSame s t x.tapAddr.toNat 8)) ∧
      (x.debugSt ≠ .closed →
        (gives .tapDbgCtlHalt s fun t => tapOut s t 0x22 ((if m.halted then 4 else 0) + x.debugSt.code) ∧
          t.mgmt = { m with halted := m.halted || x.debugSt == .openInv }) ∧
        (x.debugSt = .openInv → m.halted = true → s.heldCmds = [] → gives .tapDbgCtlResume s fun t =>
          tapOut s t 0x22 (4 + x.debugSt.code) ∧ t.mgmt = { m with halted := false, beatAt := s.time }) ∧
        (x.debugSt = .openNi → gives .tapDbgCtlResume s fun t => t.mgmt = m))) ∧
    (∀ (w : Requester) (v : Word),
      (∀ (o : BitVec 26) (n : Nat) (x : RegAccess), (n ≠ 4 ∧ n ≠ 8) ∨ o.toNat % n ≠ 0 →
        (∀ p, w = .bar2 p → gives (.registerWrite (.window w) o n x) s fun t =>
          t = { s with outbox := s.outbox ++ [.unsupportedRequest p] }) ∧
        ((∀ p, w ≠ .bar2 p) → exec (.registerWrite (.window w) o n x) s = .next s)) ∧
      (fromCore w = false →
        (gives (.registerWrite (.window w) 0x220008 8 (.write v)) s fun t => bits t.rdCtl 63 32 = max 1000 (bits v 63 32) ∧
          bits t.rdCtl 23 16 = bits v 23 16 ∧ bits t.rdCtl 7 0 = max 1 (bits v 7 0) ∧ { t with rdCtl := s.rdCtl } = s) ∧
        (gives (.registerWrite (.window w) 0x22000C 4 (.write v)) s fun t => bits t.rdCtl 63 32 = max 1000 (bits v 31 0) ∧
          bits t.rdCtl 23 16 = bits s.rdCtl 23 16 ∧ { t with rdCtl := s.rdCtl } = s) ∧
        (gives (.registerWrite (.window w) 0x220008 8 .read) s fun t => t = { s with outbox := s.outbox ++ [.registerData w s.rdCtl] })) ∧
      (∀ p : Port, gives (.registerWrite (.window (.bar2 p)) 0x10 8 .read) s fun t =>
        t = { s with
          ownsem := if s.ownsem = 0 then semOf p else s.ownsem
          outbox := s.outbox ++ [.registerData (.bar2 p) (if s.ownsem = 0 then semOf p else s.ownsem).toNat] }) ∧
      (∀ cl : Fin 32, exec (.registerWrite (.window w) (BitVec.ofNat 26 (0x600100 + 8 * cl.val)) 8 (.write v)) s =
        exec (.clusterStepWrite w cl v) s) ∧
      (∀ ch : Fin 64, exec (.registerWrite (.window w) (BitVec.ofNat 26 (0x220108 + 16 * ch.val)) 8 (.write v)) s =
        exec (.holdWrite w ch v) s) ∧
      (∀ g : Fin 16, exec (.registerWrite (.window w) (BitVec.ofNat 26 (0x210200 + 8 * g.val)) 8 (.write v)) s =
        exec (.hubD2MarkWrite w g v) s) ∧
      (∀ p : Fin 12, exec (.registerWrite (.window w) (BitVec.ofNat 26 (0x300040 + 8 * p.val)) 8 (.write v)) s =
        exec (.fabPartGrpWrite w p v) s) ∧
      (∀ (p : Port) (cl : Fin 32) (b : Nat), s.jobOn cl = true → s.sec.debugSt ≠ .openInv → b % 8 = 0 → b < 0x10000 →
        b ≠ 0x008 → b ≠ 0x410 → b ≠ 0x418 → b ≠ 0x5C0 →
        gives (.registerWrite (.window (.bar2 p)) (BitVec.ofNat 26 (0x1000000 + 0x10000 * cl.val + b)) 8 .read) s fun t =>
          t = { s with outbox := s.outbox ++ [.registerData (.bar2 p) 0] })) ∧
    (∀ f : FnId, s.reachable f = true →
      (∀ (o : BitVec 26) (n : Nat) (x : RegAccess), (n ≠ 4 ∧ n ≠ 8) ∨ o.toNat % n ≠ 0 → o.toNat + n ≤ (if FnId.isPf f then 0x10000 else 0x4000) →
        gives (.registerWrite (.bar0 f) o n x) s fun t => t = { s with outbox := s.outbox ++ [.unsupportedRequest (s.portOf f)] }) ∧
      ∀ (i : Fin 1024) (v : Word),
        let o : BitVec 26 := BitVec.ofNat 26 (0x1000 + 4 * i.val)
        (gives (.registerWrite (.bar0 f) o 4 (.write v)) s fun t =>
          SMap.get (fun _ => (0 : W32)) (t.fn f).bar0.bells i.val = BitVec.ofNat 32 (bits v 31 0) ∧ (∀ g, g ≠ f → t.fn g = s.fn g) ∧
          { t with fns := s.fns } = s) ∧
        (gives (.registerWrite (.bar0 f) o 4 .read) s fun t =>
          t = { s with outbox := s.outbox ++ [.bar0Data f (BitVec.ofNat 64 (SMap.get (fun _ => (0 : W32)) (s.fn f).bar0.bells i.val).toNat)] }))

/-- 01 R25 to R29, 13 R284, 16 R352, R357, R361 to R363, Tables 16-1, 16-6: the NVM command set, by what later reads return, and what
becomes of commands that waited. -/
def Obligations.NvmCommands : Prop :=
  ∀ (s u : State) (h : Hdr) (nsid : BitVec 32),
    (∀ (slba : BitVec 64) (nlb : BitVec 16) (hm : List (List Byte)), let n := nlb.toNat + 1
      let i := Instr.nvmRead h nsid slba ⟨nlb, hm⟩
      (admitted s u h (n * 4096) false →
        (ioOpen u h nsid slba.toNat n false →
          (∀ us, u.readUnits nsid.toNat slba.toNat n = some us → gives i s fun t =>
            succeededVia u t h [.units h us] ∧ t.locks = u.locks ∧ onlyRead u t) ∧
          (u.readUnits nsid.toNat slba.toNat n = none → gives i s fun t =>
            .completion h 2 0x81 0 ∈ t.outbox ∧ t.errLog = ((h, 2, 0x81) :: u.errLog).take 256 ∧ t.locks = u.locks ∧ onlyRead u t)) ∧
        (∀ e, u.ioStatus h.fn nsid slba.toNat n false = some e → gives i s fun t => answered u t h e.1 e.2 0)) ∧
      (serving s h false → s.qosRoll.withinQos h.fn (n * 4096) = false → gives i s fun t =>
        let q := s.qosRoll
        (∃ k, t.heldCmds = s.heldCmds ++ [.qosWait k i]) ∧
        (t.admitted h.fn).1 = (q.admitted h.fn).1 ∧ (t.admitted h.fn).2 ≤ max (q.admitted h.fn).2 (q.windowBytes h.fn) ∧
        { t with heldCmds := s.heldCmds, vfNow := q.vfNow, qosPart := s.qosPart } = q) ∧
      (admitted s u h 0 false → ioOpen u h nsid slba.toNat n true → writeFits u h nsid slba.toNat n (u.classFor nsid.toNat none) →
        gives (.writeZeroes h nsid slba nlb) s fun t =>
          blocksWritten u t nsid.toNat slba.toNat (List.replicate n 0) ∧ succeededVia u t h [])) ∧
    (∀ (slba : BitVec 64) (ph : Option Sys2Proof.Class) (data : List Unit4K), let n := data.length
      let i := Instr.nvmWrite h nsid slba ph data
      let k := u.classFor nsid.toNat ph
      admitted s u h (n * 4096) false →
      (ioOpen u h nsid slba.toNat n true →
        (writeFits u h nsid slba.toNat n k → gives i s fun t =>
          blocksWritten u t nsid.toNat slba.toNat data ∧ succeededVia u t h [] ∧ t.locks = u.locks ∧ t.mem = u.mem ∧
          (u.nsIsTile nsid.toNat = false → t.nougat = u.nougat ∧ t.nsMap = u.nsMap ∧ ∀ j d, data[j]? = some d →
            ∃ b ∈ t.buffer, b.nsid.toNat = nsid.toNat ∧ b.unit.toNat = slba.toNat + j ∧ b.data = d ∧ b.cls = ph.getD .warm)) ∧
        (u.pinnedRange nsid.toNat slba.toNat n = true → gives i s fun t =>
          answered { u with nextLock := t.nextLock } t h 0 0x20 0) ∧
        (u.pinnedRange nsid.toNat slba.toNat n = false →
          u.hostRoom (u.fnPart h.fn) k (u.writeCost nsid.toNat slba.toNat n) = false →
          gives i s fun t => (∃ ids, t.heldCmds = u.heldCmds ++ [.bufferWait ids false i]) ∧ t.buffer = u.buffer ∧
            t.outbox = u.outbox)) ∧
      (∀ e, u.ioStatus h.fn nsid slba.toNat n true = some e → gives i s fun t => answered u t h e.1 e.2 0) ∧
      (u.ioStatus h.fn nsid slba.toNat n true = none → u.tableFull = false → u.locks.length < 4096 → locksNumbered u →
        u.lockBusy nsid.toNat slba.toNat n false = true → gives i s fun t =>
          (∃ ids, t.heldCmds = u.heldCmds ++ [.lockWait ids i]) ∧ t.buffer = u.buffer ∧ t.outbox = u.outbox)) ∧
    (admitted s u h 0 false →
      ((nsid = 0xFFFFFFFF ∨ ∃ v, u.nsFor h.fn nsid = some v) → gives (.nvmFlush h nsid) s fun t => onlySucceeded u t h [] 0) ∧
      (nsid ≠ 0xFFFFFFFF → u.nsFor h.fn nsid = none → gives (.nvmFlush h nsid) s fun t => answered u t h 0 0x0B 0)) ∧
    (∀ ranges : List (BitVec 64 × BitVec 32), admitted s u h 0 false →
      let rs := ranges.map fun r => (r.1.toNat, r.2.toNat)
      let us := rs.map (wholeUnits (u.nsIsTile nsid.toNat))
      (∀ r ∈ rs, u.ioStatus h.fn nsid r.1 r.2 true = none ∧ u.lockBusy nsid.toNat r.1 r.2 false = false ∧ r.1 + r.2 ≤ 2 ^ 38) →
      u.tableFull = false → u.locks.length + rs.length ≤ 4096 → locksNumbered u →
      (∀ r ∈ us, u.pinnedRange nsid.toNat r.1 r.2 = false) → gives (.datasetManagement h nsid ranges) s fun t =>
        (∀ r ∈ us, ∀ x, r.1 ≤ x → x < r.1 + r.2 → t.readUnit nsid.toNat x = some 0) ∧
        (∀ m x, x < 2 ^ 38 → (m ≠ nsid.toNat ∨ ∀ r ∈ us, x < r.1 ∨ r.1 + r.2 ≤ x) → t.readUnit m x = u.readUnit m x) ∧
        succeededVia u t h [] ∧ t.locks = u.locks) ∧
    (∀ op : BitVec 8, serving s h false → gives (.unsupportedCommand h op) s fun t => answered s t h 0 0x01 0) ∧
    (∀ ids (slba : BitVec 64) (nlb : BitVec 16) (hm : List (List Byte)) us, let x : Held := .lockWait ids (.nvmRead h nsid slba ⟨nlb, hm⟩)
      ids ≠ [] → s.heldCmds.find? s.mayGrant = some x → s.readUnits nsid.toNat slba.toNat (nlb.toNat + 1) = some us →
      gives .rangeLockGrant s fun t => succeededVia s t h [.units h us] ∧ t.heldCmds = s.heldCmds.erase x ∧
        t.locks = s.locks.filter fun l => !ids.contains l.id) ∧
    (s.heldCmds = [] → exec .rangeLockGrant s = .next s ∧ exec .writeDataResume s = .next s) ∧
    (∀ ids (slba : BitVec 64) (ph : Option Sys2Proof.Class) (data : List Unit4K),
      let x : Held := .bufferWait ids false (.nvmWrite h nsid slba ph data)
      s.heldCmds = [x] → nsid.toNat < 1024 → slba.toNat + data.length ≤ 2 ^ 38 →
      s.hostRoom (s.fnPart h.fn) (s.classFor nsid.toNat ph) (s.writeCost nsid.toNat slba.toNat data.length) = true → bufferLeast ≤ s.bufCap →
      gives .writeDataResume s fun t => blocksWritten s t nsid.toNat slba.toNat data ∧ succeededVia s t h [] ∧
        t.heldCmds = [] ∧ t.locks = s.locks.filter fun l => !ids.contains l.id) ∧
    (s.msWindow = s.qosWin → exec .qosWindowEnd s = .next s) ∧
    (s.msWindow ≠ s.qosWin →
      ((∀ x ∈ s.heldCmds, Held.isQos x = false) → gives .qosWindowEnd s fun t => t = { s with
        vfStat := t.vfStat, vfNow := [], qosIsoNow := s.qosIso, qosWin := s.msWindow } ∧
        (s.msWindow = s.qosWin + 1 → ∀ v : Fin 1024, (∃ e ∈ s.vfNow, e.1 = v.val) →
          SMap.get (fun _ => 0) t.vfStat v.val = statWord (s.admitted (.vf v))) ∧
        (s.msWindow ≠ s.qosWin + 1 → t.vfStat = [])) ∧
      ∀ k, s.heldCmds = [.qosWait k (.nvmFlush h 0xFFFFFFFF)] → serving s h false → gives .qosWindowEnd s fun t =>
        t.heldCmds = [] ∧ t.outbox = s.outbox ++ [.completion h 0 0 0])

/-- 16 R353, R355, R356, Tables 16-2, 16-5b: memory range sets, and requests to a loaded service. A memory range set is read and written
while no job is loaded in its partition; errors are named by status. -/
def Obligations.MemoryAndRequests : Prop :=
  ∀ (s u : State) (h : Hdr),
    (serving s h true → (∃ p, h.fn = .pf p) →
      (∀ (p : BitVec 4) (q : Fin 12) (d2 : Bool), p.toNat = q.val → (∃ r, (s.part q).cfg = some r) →
        (∀ id, s.setOf q d2 = some id → gives (.memoryRangeSetManagement h (.create p d2)) s fun t =>
          onlySucceeded s t h [] (BitVec.ofNat 32 id)) ∧
        (∀ id, s.setOf q d2 = none → s.freeSetId = some id → gives (.memoryRangeSetManagement h (.create p d2)) s fun t =>
          t.rangeSet id = some (q, d2) ∧ (∀ i, i ≠ id → t.rangeSet i = s.rangeSet i) ∧
          answered { s with rangeSets := t.rangeSets } t h 0 0 (BitVec.ofNat 32 id))) ∧
      (∀ (p : BitVec 4) (q : Fin 12) (d2 : Bool), p.toNat = q.val → (s.part q).cfg = none →
        gives (.memoryRangeSetManagement h (.create p d2)) s fun t => answered s t h 7 0x07 0) ∧
      ∀ (id : BitVec 16) v, s.rangeSet id.toNat = some v → gives (.memoryRangeSetManagement h (.delete id)) s fun t =>
        t.rangeSet id.toNat = none ∧ (∀ i, i ≠ id.toNat → t.rangeSet i = s.rangeSet i) ∧ answered { s with rangeSets := t.rangeSets } t h 0 0 0) ∧
    (∀ (id : BitVec 16) (off : BitVec 64),
      (∀ len : BitVec 32, admitted s u h len.toNat true →
        (∀ e, u.setPlace h.fn id off.toNat len.toNat = .error e → gives (.memoryRead h id off len) s fun t =>
          answered u t h e.1 e.2 0) ∧
        ∀ m, u.setPlace h.fn id off.toNat len.toNat = .ok m → u.flips = [] → gives (.memoryRead h id off len) s fun t =>
          onlySucceeded u t h [.bytes h (Memory.bytes u.mem m len.toNat)] 0) ∧
      (∀ data : List Byte, admitted s u h data.length true →
        (∀ e, u.setPlace h.fn id off.toNat data.length = .error e → gives (.memoryWrite h id off data) s fun t =>
          answered u t h e.1 e.2 0) ∧
        ∀ m, u.setPlace h.fn id off.toNat data.length = .ok m → u.flips = [] → u.inject = [] →
          gives (.memoryWrite h id off data) s fun t => Memory.bytes t.mem m data.length = data ∧
            elsewhereSame u t m data.length ∧ succeeded u t h [] 0 ∧ t.cores = u.cores) ∧
      (∀ r : Fin 12 × Bool, u.rangeSet id.toNat = some r → u.jobLoaded r.1 = true → u.reaches h.fn r.1 = true →
        ∀ len : BitVec 32, admitted s u h len.toNat true → gives (.memoryRead h id off len) s fun t => answered u t h 7 0x02 0)) ∧
    (∀ (units : BitVec 32) (id1 id2 : BitVec 16) (o1 o2 : BitVec 64) m1 m2, let n := units.toNat * 4096
      admitted s u h n true → u.flips = [] → u.inject = [] → u.setPlace h.fn id1 o1.toNat n = .ok m1 →
      u.setPlace h.fn id2 o2.toNat n = .ok m2 →
      gives (.memoryCopy h (.rangeSetAt id1 o1) (.rangeSetAt id2 o2) units) s fun t =>
        Memory.bytes t.mem m2 n = Memory.bytes u.mem m1 n ∧ elsewhereSame u t m2 n ∧ succeeded u t h [] 0) ∧
    (∀ (units nsid : BitVec 32) (id : BitVec 16) (blk off : BitVec 64) m us, let n := units.toNat * 4096
      admitted s u h n true → u.flips = [] → u.inject = [] → u.setPlace h.fn id off.toNat n = .ok m →
      (u.ioStatus h.fn nsid blk.toNat units.toNat false = none → u.readUnits nsid.toNat blk.toNat units.toNat = some us →
        gives (.memoryCopy h (.namespaceAt nsid blk) (.rangeSetAt id off) units) s fun t =>
          Memory.bytes t.mem m n = us.flatMap unitBytes ∧ elsewhereSame u t m n ∧ succeededVia u t h []) ∧
      (u.ioStatus h.fn nsid blk.toNat units.toNat true = none →
        writeFits u h nsid blk.toNat units.toNat (u.classFor nsid.toNat none) →
        blk.toNat + units.toNat ≤ 2 ^ 38 →
        gives (.memoryCopy h (.rangeSetAt id off) (.namespaceAt nsid blk) units) s fun t =>
          (∀ i, i < units.toNat → t.readUnit nsid.toNat (blk.toNat + i) =
            some (ofUnit (Memory.bytes u.mem (m + 4096 * i) 4096))) ∧ t.mem = u.mem ∧ succeededVia u t h [])) ∧
    (∀ (p : BitVec 4) (q : Fin 12) (d : List Byte), admitted s u h 0 true → p.toNat = q.val → u.reaches h.fn q = true →
      (u.reqArea q = none → gives (.executeProgram h p d) s fun t => answered u t h 7 0x07 0) ∧
      ∀ cl m n size, u.reqArea q = some (cl, m, n, size) → (u.part q).requests = [] → u.flips = [] → u.inject = [] →
        (∀ i, u.freeSlot q n = some i → reqLen d ≤ size → reqLen d ≤ d.length → spillEmpty u cl → gives (.executeProgram h p d) s fun t =>
          requestPlaced u t q cl (m + i * size) i (.host h (reqRespMax d)) d ∧ t.outbox = u.outbox) ∧
        (∀ i, u.freeSlot q n = some i → size < reqLen d → u.spillBlocked cl = false → gives (.executeProgram h p d) s fun t =>
          answered { u with parts := t.parts } t h 7 0x09 0 ∧ ∀ r, t.part r = u.part r) ∧
        (u.freeSlot q n = none ∨ u.spillBlocked cl = true → gives (.executeProgram h p d) s fun t =>
          onlyPart u t q { u.part q with requests := [(.host h (reqRespMax d), d)] })) ∧
    (∀ (q : Fin 12) cl m n size i src d rest, s.reqArea q = some (cl, m, n, size) → (s.part q).requests = (src, d) :: rest →
      s.freeSlot q n = some i → reqLen d ≤ size → reqLen d ≤ d.length → s.flips = [] → s.inject = [] → spillEmpty s cl →
      gives (.requestSlotAssign q) s fun t => requestPlaced s t q cl (m + i * size) i src d ∧ (t.part q).requests = rest) ∧
    (∀ q : Fin 12, s.reqArea q = none ∨ (s.part q).requests = [] → exec (.requestSlotAssign q) s = .next s) ∧
    (∀ (c : CoreId) (v : Word) (q : Fin 12),
      (s.isFirst c.cl = none → exec (.cluReqDone c v) s = .next s) ∧
      (s.isFirst c.cl = some q → ∀ k tm cl m n size rm, (s.part q).slots.find? (fun x => x.1 = bits v 9 0) = some (k, .host h rm, tm) →
        s.reqArea q = some (cl, m, n, size) → s.flips = [] → (s.part q).requests = [] → gives (.cluReqDone c v) s fun t =>
          let len := leValue (Memory.bytes s.mem (m + k * size) 4)
          answered { s with parts := t.parts, outbox := s.outbox ++ [.bytes h (Memory.bytes s.mem (m + k * size) (min len rm))] } t h 0 0
            (BitVec.ofNat 32 len) ∧
          t.part q = { s.part q with slots := (s.part q).slots.filter fun y => y.1 != k } ∧ ∀ r, r ≠ q → t.part r = s.part r)) ∧
    (∀ (c : CoreId) (ctl : Bool) (v : Word) (q : Fin 12), let g := s.cluster c.cl
      (s.isFirst c.cl = none → exec (.requestAreaWrite c ctl v) s = .next s) ∧
      (s.isFirst c.cl = some q → (s.part q).slots ≠ [] → exec (.requestAreaWrite c ctl v) s = .next s) ∧
      (s.isFirst c.cl = some q → (s.part q).slots = [] →
        (bits v 31 16 ≤ 1024 → (bits v 31 16 = 0 ∨ (4 ≤ bits v 15 0 ∧ bits v 15 0 ≤ 1024)) →
          gives (.requestAreaWrite c true v) s fun t => onlyCluster s t c.cl { g with
            reqSlots := BitVec.ofNat 16 (bits v 31 16), reqKib := BitVec.ofNat 16 (bits v 15 0) }) ∧
        (bits v 11 0 = 0 → gives (.requestAreaWrite c false v) s fun t =>
          onlyCluster s t c.cl { g with reqBase := BitVec.ofNat 48 (bits v 47 0) }) ∧
        (1024 < bits v 31 16 → exec (.requestAreaWrite c true v) s = .next s) ∧
        (bits v 11 0 ≠ 0 → exec (.requestAreaWrite c false v) s = .next s)))

/-- 16 R350 to R352, R363, R365, Tables 16-1, 16-4, 13 R291 to R293, 20 R460: features, identification, log pages, queues, events and
aborts. The words of Identify and of the pages stand as values; pages the spec gives no contents for are free (logs 1, 36, 47). -/
def Obligations.AdminCommands : Prop :=
  ∀ (s : State) (h : Hdr), serving s h false →
    let g := s.fn h.fn
    (gives (.identify h 0x01 0) s fun t => onlySucceeded s t h (wordsOut h
      [s.modId, 1023, 7, 15, 4096, g.pairs, g.vectors, 4, 1, 68719476736, 5, 1, 1500, 0, 0, 1, 420, 10, 2, 1, 300, 1000, 60000,
        0, 15, 5000, 5000, 0, 9, 50000, 2000000]) 0) ∧
    (∀ nsid : BitVec 32,
      (∀ v, s.nsFor h.fn nsid = some v → gives (.identify h 0x00 nsid) s fun t =>
        onlySucceeded s t h (wordsOut h [v.blocks, kindCode v.kind, 4096, 4]) 0) ∧
      (s.nsFor h.fn nsid = none → gives (.identify h 0x00 nsid) s fun t => onlySucceeded s t h (wordsOut h [0, 0, 0, 0]) 0) ∧
      (gives (.identify h 0x02 nsid) s fun t => ∃ l, onlySucceeded s t h (wordsOut h l) 0 ∧
        ∀ n, n ∈ l ↔ n ∈ s.nsList ∧ nsid.toNat < n ∧ ∃ v, s.ns n = some v ∧ h.fn ∈ v.attached) ∧
      (∀ cns : BitVec 8, cns.toNat ∉ [0x00, 0x01, 0x02, 0x10] → gives (.identify h cns nsid) s fun t =>
        answered s t h 0 0x02 0)) ∧
    (∀ (nsid v : BitVec 32) (e : Bool) (data : List Word),
      (∀ fid : BitVec 8, plainFeature fid.toNat = true →
        (gives (.setFeatures h fid nsid v ⟨e, data⟩) s fun t =>
          fnChanged s t h h.fn { g with feats := SMap.set (fun _ => 0) g.feats fid.toNat v } 0 ∧ (t.fn h.fn).feat fid.toNat = v) ∧
        gives (.getFeatures h fid nsid v) s fun t => onlySucceeded s t h [] (g.feat fid.toNat)) ∧
      (5 ≤ bits v 4 0 → gives (.setFeatures h 0x02 nsid v ⟨e, data⟩) s fun t => answered s t h 0 0x02 0) ∧
      (bits v 4 0 < 5 → gives (.setFeatures h 0x02 nsid v ⟨e, data⟩) s fun t => (t.fn h.fn).feat 2 = v ∧
        t.outbox = s.outbox ++ [.completion h 0 0 0] ∧ t.pow.pstate = s.pow.pstate ∧
        (t.allowedState < s.pow.pstate → t.pow.move = some (.exiting (if 2 < s.pow.pstate then 2 else t.allowedState))) ∧
        (s.pow.pstate < t.allowedState → s.mayEnter t.allowedState = true → t.pow.move = some (.entering t.allowedState))) ∧
      (gives (.setFeatures h 0x0C nsid v ⟨e, data⟩) s fun t => (t.fn h.fn).feat 0x0C = (if e then 1 else 0) ∧
        fnChanged s t h h.fn { g with feats := (t.fn h.fn).feats, apst := data.take 32 } 0) ∧
      (gives (.getFeatures h 0x0C nsid v) s fun t => onlySucceeded s t h [.words h g.apst] (g.feat 0x0C)) ∧
      (gives (.getFeatures h 0x02 nsid v) s fun t => onlySucceeded s t h [] (BitVec.ofNat 32 s.pow.pstate.val)) ∧
      (gives (.getFeatures h 0x07 nsid v) s fun t => onlySucceeded s t h [] (BitVec.ofNat 32 ((g.pairs - 1) * 65537))) ∧
      (∀ x, s.nsFor h.fn nsid = some x → gives (.setFeatures h 0x84 nsid v ⟨e, data⟩) s fun t =>
        t.ns nsid.toNat = some { x with writeProt := bits v 2 0 ≠ 0 } ∧ (∀ m, m ≠ nsid.toNat → t.ns m = s.ns m) ∧
        answered { s with nss := t.nss } t h 0 0 0) ∧
      (∀ p, h.fn = .pf p → ∀ n : Nat, (data.headD 0).toNat = n → n ≤ 68719476736 → gives (.setFeatures h 0x0D nsid v ⟨e, data⟩) s fun t =>
        succeeded s t h [] 0 ∧ t.hmbOn = e ∧ t.hmbPages = [] ∧
        (e = true → t.hmbSusp = false ∧ t.hmbFails = 0 ∧ t.hmbGens = [] ∧ t.hmbSlots = min (n / 4160) 16519104 ∧ s.sec.keyGen < t.hmbKey) ∧
        (e = false → t.hmbSusp = s.hmbSusp ∧ t.hmbFails = s.hmbFails ∧ t.hmbKey = 0)) ∧
      ((∃ p, h.fn = .vf p) ∨ 68719476736 < (data.headD 0).toNat → gives (.setFeatures h 0x0D nsid v ⟨e, data⟩) s fun t =>
        answered s t h 0 0x02 0)) ∧
    (∀ (v : BitVec 32) (d : WatchData) (p : Fin 12), s.watchPart h.fn v = some p →
      (s.watchNs p d = true → d.rsvd = 0 → d.maxDumps.toNat ≤ 64 → gives (.tensorWatchArm h v d) s fun t =>
        t.watchAt p (bits v 1 0) = (if d.maxDumps = 0 then none else some ⟨d, 0, false, 0⟩) ∧
        (∀ i, i ≠ bits v 1 0 → t.watchAt p i = s.watchAt p i) ∧
        t.part p = { s.part p with watches := (t.part p).watches } ∧ (∀ r, r ≠ p → t.part r = s.part r) ∧
        answered { s with parts := t.parts } t h 0 0 0) ∧
      (s.watchNs p d = false ∨ d.rsvd ≠ 0 ∨ 64 < d.maxDumps.toNat → gives (.tensorWatchArm h v d) s fun t =>
        answered s t h 0 0x02 0)) ∧
    (∀ i : Nat,
      (gives (.getLogPage h 0x01 i) s fun t => onlySucceeded s t h (wordsOut h (s.errorData h.fn)) 0) ∧
      (gives (.getLogPage h 0x02 i) s fun t => ∃ l, onlySucceeded s t h (wordsOut h
        ([s.critWarn.toNat, s.pow.tempMax.toNat, s.pow.dirtyLosses.toNat, s.pow.pstate.val] ++ l)) 0) ∧
      (gives (.getLogPage h 0x04 i) s fun t =>
        fnChanged { s with outbox := s.outbox ++ wordsOut h g.changed } t h h.fn { g with changed := [] } 0) ∧
      (gives (.getLogPage h 0x05 i) s fun t => ∃ l, onlySucceeded s t h (wordsOut h l) 0 ∧
        ∀ op ∈ [0xC0, 0xC1, 0xC2, 0xC3], op ∈ l ↔ FnId.isPf h.fn = true) ∧
      (gives (.getLogPage h 0xC4 i) s fun t => onlySucceeded s t h (wordsOut h ((s.seen h.fn).flatMap fun p =>
        (List.range 32).map fun j => (SMap.get (fun _ => (0 : Word)) (s.part p).snapshot j).toNat)) 0) ∧
      (gives (.getLogPage h 0xC1 i) s fun t => onlySucceeded s t h (wordsOut h ((s.seen h.fn).flatMap s.statusEntry ++ match h.fn with
        | .pf _ => []
        | .vf v => [(SMap.get (fun _ => (0 : Word)) s.qosRoll.vfStat v.val).toNat])) 0) ∧
      (FnId.isPf h.fn = true → gives (.getLogPage h 0xC2 i) s fun t =>
        answered { s with eccUnread := [], outbox := s.outbox ++ [.events h s.modLog] } t h 0 0 0) ∧
      (FnId.isPf h.fn = false → ∀ lid : BitVec 8, lid = 0xC0 ∨ lid = 0xC2 ∨ lid = 0xC3 → gives (.getLogPage h lid i) s fun t =>
        answered s t h 1 0x09 0) ∧
      (gives (.getLogPage h 0x22 i) s fun t => ∃ w, onlySucceeded s { t with freeCtr := s.freeCtr } h [.words h [w]] 0) ∧
      (gives (.getLogPage h 0xC6 i) s fun t => answered s t h 1 0x09 0)) ∧
    (∀ qid size x : BitVec 16,
      (∀ c, g.cqAt x.toNat = some c → g.queueOk qid.toNat = true → g.sqAt qid.toNat = none → 2 ≤ size.toNat →
        size.toNat ≤ 4096 → gives (.createIoSq h qid size x) s fun t => fnChanged s t h h.fn (g.setSq qid.toNat (some (size, x))) 0) ∧
      (g.cqAt x.toNat = none → gives (.createIoSq h qid size x) s fun t => answered s t h 1 0x00 0) ∧
      (g.queueOk qid.toNat = true → g.cqAt qid.toNat = none → 2 ≤ size.toNat → x.toNat < g.vectors →
        gives (.createIoCq h qid size x) s fun t => fnChanged s t h h.fn (g.setCq qid.toNat (some (size, x))) 0) ∧
      (g.queueOk qid.toNat = false → gives (.createIoCq h qid size x) s fun t => answered s t h 1 0x01 0) ∧
      (∀ y, g.sqAt qid.toNat = some y → (∀ e ∈ s.heldCmds, sameQueue h.fn qid e = false) →
        gives (.deleteIoSq h qid) s fun t => fnChanged s t h h.fn (g.setSq qid.toNat none) 0) ∧
      (g.sqAt qid.toNat = none → gives (.deleteIoSq h qid) s fun t => answered s t h 1 0x01 0) ∧
      (∀ y, g.cqAt qid.toNat = some y → (∀ e ∈ g.sqs, ∀ z, e.2 = some z → z.2 ≠ qid) →
        gives (.deleteIoCq h qid) s fun t => fnChanged s t h h.fn (g.setCq qid.toNat none) 0) ∧
      (∀ y e z, g.cqAt qid.toNat = some y → (e, some z) ∈ g.sqs → z.2 = qid → gives (.deleteIoCq h qid) s fun t =>
        answered s t h 1 0x0C 0)) ∧
    (∀ sq cid : BitVec 16,
      let mine (x : Held) : Bool := sameCommand h.fn sq cid (heldInstr x) && !heldDispatched x
      (8 ≤ s.abortsOf h.fn → gives (.abort h sq cid) s fun t => answered s t h 1 0x03 0) ∧
      (s.abortsOf h.fn < 8 →
        (∀ x hd, s.heldCmds.find? mine = some x → hdrOf (heldInstr x) = some hd → heldLocks x = [] →
          (∀ p : Fin 12, (s.part p).job.waiter ≠ some hd) → gives (.abort h sq cid) s fun t =>
            t.heldCmds = s.heldCmds.erase x ∧ t.outbox = s.outbox ++ [.completion hd 0 0x07 0, .completion h 0 0 0] ∧
            { t with heldCmds := s.heldCmds, outbox := s.outbox, errLog := s.errLog, fns := s.fns, cmdAt := s.cmdAt } = s) ∧
        (s.heldCmds.find? mine = none → s.waitsIn h.fn sq cid = none → gives (.abort h sq cid) s fun t =>
          onlySucceeded s t h [] 1))) ∧
    (g.events = [] → gives (.asynchronousEventRequest h) s fun t => t.fn h.fn = { g with aers := g.aers ++ [h] } ∧
      { t with fns := s.fns } = s) ∧
    (∀ e es, g.events = e :: es → gives (.asynchronousEventRequest h) s fun t => t.fn h.fn = { g with events := es } ∧
      t.outbox = s.outbox ++ [.asyncEvent h e] ∧ { t with fns := s.fns, outbox := s.outbox } = s) ∧
    (gives (.keepAlive h) s fun t => onlySucceeded s t h [] 0) ∧
    (∀ (nsid : BitVec 32) (e : Bool), (nsid = 0xFFFFFFFF ∨ ∃ v, s.nsFor h.fn nsid = some v) →
      (gives (.directiveSend h nsid e) s fun t => (t.fn h.fn).feat directiveKey = (if e then 1 else 0) ∧
        fnChanged s t h h.fn { g with feats := (t.fn h.fn).feats } 0) ∧
      gives (.directiveReceive h nsid) s fun t => onlySucceeded s t h (wordsOut h [1, (g.feat directiveKey).toNat, 4]) 0)

/-- 13 R282 to R284, 16 R351, R367, 19 R436, R438, R440, R441: the owner's commands on namespaces, firmware and virtual functions. Statuses
the spec does not name, and a refusal while a tile is pinned, are the model's (logs 36, 37). -/
def Obligations.OwnerCommands : Prop :=
  ∀ (s : State) (h : Hdr), ownerTaken s h →
    (∀ (kind : NsKind) (n : BitVec 64), s.san.active = none →
      (0 < n.toNat → s.usedBlocks + n.toNat ≤ capacityBlocks s.variant → ∀ k, s.freeNsid = some k →
        gives (.namespaceManagement h (.create kind n)) s fun t => ∃ v, v.kind = kind ∧ v.blocks = n.toNat ∧ v.attached = [] ∧
          v.keyTenant = none ∧ v.key = s.sec.keyGen + 1 ∧
          nsChanged s t h k (some v) [.pf .a, .pf .b] (BitVec.ofNat 32 k) ∧ (banksIdle s → t.journal = 0)) ∧
      (capacityBlocks s.variant < s.usedBlocks + n.toNat → 0 < n.toNat →
        gives (.namespaceManagement h (.create kind n)) s fun t => answered s t h 1 0x15 0)) ∧
    (∀ (nsid : BitVec 32) v, s.san.active = none → nsid ≠ 0xFFFFFFFF → nsid.toNat < 1024 → s.ns nsid.toNat = some v →
      (s.nsPinned nsid.toNat = true → gives (.namespaceManagement h (.delete nsid)) s fun t => answered s t h 0 0x20 0) ∧
      (s.nsPinned nsid.toNat = false → gives (.namespaceManagement h (.delete nsid)) s fun t => t.ns nsid.toNat = none ∧
        (∀ m, m ≠ nsid.toNat → t.ns m = s.ns m) ∧ (∀ x, x < 2 ^ 38 → t.mapAt nsid.toNat x = 0 ∧ t.buffered nsid.toNat x = none) ∧
        (∀ m x, m ≠ nsid.toNat → x < 2 ^ 38 → t.readUnit m x = s.readUnit m x) ∧ succeededVia s t h [] ∧ t.mem = s.mem)) ∧
    (∀ a, s.san.active ≠ none → gives (.namespaceManagement h a) s fun t => answered s t h 0 0x1D 0) ∧
    (∀ (nsid : BitVec 32) (f : FnId) v, s.ns nsid.toNat = some v →
      (f ∉ v.attached → v.isPrivate f = false → gives (.namespaceAttachment h nsid true f) s fun t => nsChanged s t h nsid.toNat
        (some { v with attached := v.attached ++ [f], keyTenant := some (v.keyTenant.getD (fnTenant f)) }) [f] 0) ∧
      (f ∉ v.attached → v.isPrivate f = true → gives (.namespaceAttachment h nsid true f) s fun t => answered s t h 1 0x19 0) ∧
      (f ∈ v.attached → gives (.namespaceAttachment h nsid false f) s fun t => nsChanged s t h nsid.toNat
        (some { v with attached := v.attached.filter fun e => e != f }) [f] 0) ∧
      (f ∈ v.attached → gives (.namespaceAttachment h nsid true f) s fun t => answered s t h 1 0x18 0) ∧
      (f ∉ v.attached → gives (.namespaceAttachment h nsid false f) s fun t => answered s t h 1 0x1A 0)) ∧
    (∀ (nsid : BitVec 32) (ses : BitVec 3) v, ownerServed s h → nsid ≠ 0xFFFFFFFF →
      nsid.toNat < 1024 → s.ns nsid.toNat = some v →
      (ses.toNat ≤ 2 → s.nsPinned nsid.toNat = false → gives (.formatNvm h nsid ses) s fun t =>
        (∃ k, t.ns nsid.toNat = some { v with key := k } ∧ (ses ≠ 2 → k = v.key) ∧ (ses = 2 → k = s.sec.keyGen + 1)) ∧
        (∀ x, x < 2 ^ 38 → t.readUnit nsid.toNat x = some 0) ∧
        (∀ m x, m ≠ nsid.toNat → x < 2 ^ 38 → t.readUnit m x = s.readUnit m x) ∧ succeededVia s t h [] ∧ t.mem = s.mem ∧
        .operation 0x80 0 0 ∈ t.modLog) ∧
      (2 < ses.toNat → gives (.formatNvm h nsid ses) s fun t =>
        answered { s with modLog := s.modLog ++ [.operation 0x80 0 0x02] } t h 0 0x02 0)) ∧
    (∀ (nsid : BitVec 32) (ses : BitVec 3), s.ownsem ≠ semOf (s.portOf h.fn) → gives (.formatNvm h nsid ses) s fun t =>
      answered s t h 7 0x01 0) ∧
    (∀ img : FwImage,
      (gives (.firmwareImageDownload h img) s fun t => answered { s with sec := { s.sec with staged := some img } } t h 0 0 0) ∧
      (s.sec.staged = some img →
        let x := s.sec.otherSlot
        (s.fwOk img = true → gives (.firmwareCommit h false) s fun t =>
          SMap.get (fun _ => none) t.sec.fw x.val = some img ∧ t.sec.staged = none ∧ t.sec.nextSlot = s.sec.nextSlot ∧
          t.sec.otp = s.sec.otp ∧ answered { s with sec := t.sec } t h 0 0 0) ∧
        (s.fwOk img = true → ownerServed s h → s.sec.locked otpSvn = false →
          gives (.firmwareCommit h true) s fun t => SMap.get (fun _ => none) t.sec.fw x.val = some img ∧ t.sec.nextSlot = x ∧
            t.sec.word otpSvn = s.sec.word otpSvn ||| BitVec.ofNat 64 (2 ^ (max img.svn.toNat s.sec.svn) - 1) ∧
            t.sec.activeSlot = s.sec.activeSlot ∧ succeeded s t h [] 0) ∧
        (s.fwOk img = false → gives (.firmwareCommit h false) s fun t => answered s t h 1 0x07 0))) ∧
    (∀ (v : Fin 1024) (n : Nat), let f := FnId.vf v
      let g := s.fn f
      s.portOf f = s.portOf h.fn →
      (g.online = false → 1 ≤ n → n ≤ 512 → (s.heldBy f).1 + n ≤ 16384 →
        gives (.virtualizationManagement h v (.assignQueues n)) s fun t =>
          fnChanged s t h f { g with pairs := n } (BitVec.ofNat 32 n)) ∧
      (g.online = false → g.pairs ≠ 0 → n = g.pairs + 1 → (s.heldBy f).2 + n ≤ 17408 →
        gives (.virtualizationManagement h v (.assignVectors n)) s fun t =>
          fnChanged s t h f { g with vectors := n } (BitVec.ofNat 32 n)) ∧
      (g.pairs ≠ 0 → g.vectors = g.pairs + 1 → gives (.virtualizationManagement h v .online) s fun t =>
        fnChanged s t h f { g with online := true } 0) ∧
      (gives (.virtualizationManagement h v .offline) s fun t => fnChanged s t h f
        { g with online := false, sqs := [], cqs := [], feats := [], aers := [], events := [] } 0)) ∧
    (∀ (v : Fin 1024) a, s.portOf (.vf v) ≠ s.portOf h.fn → gives (.virtualizationManagement h v a) s fun t =>
      answered s t h 1 0x1F 0)

/-- 15 R338 to R340, 16 R353, 17 R375 to R395, 18 R404, 10 R224: programs, jobs, partitions, bindings, the arbitration record, the
fabric identity, the ends of a job, faults and interference. -/
def Obligations.JobsAndPartitions : Prop :=
  ∀ (s : State) (h : Hdr) (p : BitVec 4) (q : Fin 12), names s h p q →
    let x := s.part q
    let j := x.job
    (serving s h true → s.pow.moduleFault = false → (∀ i : Fin 12, (s.part i).job.waiter ≠ some h) →
      (∀ (cdw13 : W32) (ok : Bool) (d : List Byte) r cl, bits cdw13 31 1 = 0 → x.cfg = some r → s.firstCluster q = some cl →
        awake s (clusterList r) →
        (s.loadStatus q r cl d ok = 0 → s.flips = [] → s.inject = [] → s.traceEn = false → gives (.loadProgram h p cdw13 ok d) s fun t =>
          (t.part q).job.state = .loaded ∧ (t.part q).job.version = imWord d 4 ∧
          (t.part q).job.kofOpt = bit cdw13 0 ∧ (t.part q).job.starts = (startsOf d).filterMap (fun y => (s.startAt cl y).map (·.1)) ∧
          (∀ l1 y l2 m, loadsOf d = l1 ++ y :: l2 → s.loadPlace cl y = some m →
            (∀ z ∈ l2, ∀ n, s.loadPlace cl z = some n → n + z.len ≤ m ∨ m + y.len ≤ n) →
            Memory.bytes t.mem m y.len = (d.drop y.off).take y.len) ∧
          (∀ y ∈ startsOf d, ∀ c o, s.startAt cl y = some (c, o) → (t.core c).startPc = BitVec.ofNat 32 o) ∧
          succeeded s t h [] 0) ∧
        (s.loadStatus q r cl d ok ≠ 0 → gives (.loadProgram h p cdw13 ok d) s fun t =>
          answered s t h 7 (BitVec.ofNat 8 (s.loadStatus q r cl d ok)) 0)) ∧
      (j.state = .loaded → s.traceEn = false → gives (.programActivate h p) s fun t =>
        (t.part q).job = { j with state := .running } ∧ t.mem = s.mem ∧
        ∀ c, j.starts = [c] → (s.cluster c.cl).pstate = 0 → (s.cluster c.cl).zeroising = false → (s.cluster c.cl).quiesce = false →
          (s.core c).mode = .reset → fetchable c (s.core c).startPc = true → (t.core c).mode = .running ∧
            (t.core c).pc = (s.core c).startPc) ∧
      (j.state = .running → gives (.programActivate h p) s fun t => onlySucceeded s t h [] 0) ∧
      (j.state = .loaded ∨ j.state = .running → s.traceEn = false → gives (.programDeactivate h p) s fun t =>
        endBegun s t q .deactivation (some h)) ∧
      (j.state = .none → ∀ i ∈ [Instr.programActivate h p, .programDeactivate h p], gives i s fun t => answered s t h 7 0x07 0) ∧
      (j.state.busy = true → ∀ i ∈ [Instr.programActivate h p, .programDeactivate h p], gives i s fun t =>
        answered s t h 7 0x08 0)) ∧
    (ownerTaken s h → ∀ (nsid : BitVec 10) (lba : BitVec 64),
      (∀ n : Nat, n ≠ 0 → ∀ i ∈ [Instr.jobControlVacate h ⟨p, n⟩ nsid lba, .jobControlRestore h ⟨p, n⟩ nsid lba, .jobControlKill h ⟨p, n⟩],
        serving s h true → gives i s fun t => answered s t h 0 0x02 0) ∧
      (∀ r, x.cfg = some r → j.state = .loaded ∨ j.state = .running → s.traceEn = false →
        (s.ckFits nsid lba.toNat (s.ckBlocks q r) = true → x.requests = [] → gives (.jobControlVacate h ⟨p, 0⟩ nsid lba) s fun t =>
          endBegun s t q .vacate (some h) ∧ (t.part q).job.target = some (nsid, lba)) ∧
        (s.ckFits nsid lba.toNat (s.ckBlocks q r) = false → gives (.jobControlVacate h ⟨p, 0⟩ nsid lba) s fun t =>
          answered s t h 7 0x0C 0) ∧
        gives (.jobControlKill h ⟨p, 0⟩) s fun t => endBegun s t q .kill (some h)) ∧
      (j.state = .none → gives (.jobControlKill h ⟨p, 0⟩) s fun t => answered s t h 7 0x07 0)) ∧
    (ownerTaken s h → serving s h true → s.pow.moduleFault = false → (∀ i : Fin 12, (s.part i).job.waiter ≠ some h) →
      ∀ (nsid : BitVec 10) (lba : BitVec 64) r, x.cfg = some r → awake s (clusterList r) →
      (j.state = .loaded ∨ j.state = .running → gives (.jobControlRestore h ⟨p, 0⟩ nsid lba) s fun t => answered s t h 7 0x02 0) ∧
      (j.state = .none → s.ckFits nsid lba.toNat 1 = true → s.nsReadable nsid.toNat = true →
        (s.readCheckpoint nsid lba.toNat = none → gives (.jobControlRestore h ⟨p, 0⟩ nsid lba) s fun t =>
          answered s t h 7 (if s.ckOver nsid lba.toNat then 0x0C else 0x0A) 0) ∧
        ∀ d, s.readCheckpoint nsid lba.toNat = some d → let im := imageOf d
          (headerOk d = false → gives (.jobControlRestore h ⟨p, 0⟩ nsid lba) s fun t => .completion h 7 0x0A 0 ∈ t.outbox ∧ onlyRead s t) ∧
          (headerOk d = true → im.nCl = (clusterList r).length → im.d1Gib ≤ r.d1Region.gib.toNat → im.binds = s.bindingSection q →
            im.pins = [] → s.flips = [] → s.inject = [] → s.traceEn = false → gives (.jobControlRestore h ⟨p, 0⟩ nsid lba) s fun t =>
              (t.part q).job.state = .running ∧ (t.part q).job.version = im.version ∧ (t.part q).slots = [] ∧
              (∀ cl ∈ clusterList r, (t.cluster cl).quiesce = false ∧ (t.cluster cl).quiesceAbort = false) ∧
              Memory.bytes t.mem (r.d1Region.base.toNat * gib) (r.d1Region.gib.toNat * gib) =
                padTo (r.d1Region.gib.toNat * gib) im.d1 ∧ t.outbox.getLast? = some (.completion h 0 0 0)))) ∧
    (ownerServed s h →
      let op (o sct sc : Byte) : State := { s with modLog := s.modLog ++ [.operation o sct sc] }
      (∀ r : PartRec, j.state = .none →
        (s.recOk q r = true → awake s (clusterList r) → gives (.partitionConfigureSet h p r) s fun t => (t.part q).cfg = some r ∧
          (t.part q).job.state = .none ∧ (t.part q).bindings = x.bindings ∧ (∀ i, i ≠ q → t.part i = s.part i) ∧
          (∀ cl ∈ clusterList r, clusterZeroed t cl) ∧ (x.cfg = none → zeroed t (r.d1Region.base.toNat * gib)
            (r.d1Region.gib.toNat * gib)) ∧ succeeded s t h [] 0 ∧ .operation 0xC0 0 0 ∈ t.modLog ∧ (banksIdle s → t.journal = 0)) ∧
        (s.recOk q r = false → gives (.partitionConfigureSet h p r) s fun t => answered (op 0xC0 0 0x02) t h 0 0x02 0) ∧
        gives (.partitionConfigureClear h ⟨p, 0⟩) s fun t => (t.part q).cfg = none ∧ (t.part q).bindings = [] ∧
          (∀ i, i ≠ q → t.part i = s.part i) ∧ succeeded s t h [] 0 ∧ .operation 0xC0 0 0 ∈ t.modLog ∧
          (∀ cl ∈ s.clustersOf q, clusterZeroed t cl)) ∧
      (∀ n : Nat, n ≠ 0 → gives (.partitionConfigureClear h ⟨p, n⟩) s fun t => answered (op 0xC0 0 0x02) t h 0 0x02 0) ∧
      (j.state ≠ .none → ∀ r : PartRec, (gives (.partitionConfigureSet h p r) s fun t => answered (op 0xC0 7 0x02) t h 7 0x02 0) ∧
        gives (.partitionConfigureClear h ⟨p, 0⟩) s fun t => answered (op 0xC0 7 0x02) t h 7 0x02 0) ∧
      (∀ r : ArbRec,
        (s.anyJob = false → s.arbOk r = true → gives (.partitionArbitrationSet h r) s fun t => t.arb = r ∧ t.parts = s.parts ∧
          (banksIdle s → t.journal = 0) ∧ succeeded s t h [] 0) ∧
        (s.anyJob = false → s.arbOk r = false → gives (.partitionArbitrationSet h r) s fun t => answered (op 0xC0 0 0x02) t h 0 0x02 0) ∧
        (s.anyJob = true → gives (.partitionArbitrationSet h r) s fun t => answered (op 0xC0 7 0x02) t h 7 0x02 0)) ∧
      (∀ fid lmn epoch : BitVec 16,
        (s.anyJob = false → gives (.fabricIdentity h fid lmn epoch) s fun t => t.fab.fid = fid ∧ t.fab.lmn = lmn ∧
          t.fab.epoch = epoch ∧ t.fab.valid = true ∧ t.parts = s.parts ∧ t.mem = s.mem ∧ t.cores = s.cores) ∧
        (s.anyJob = true → gives (.fabricIdentity h fid lmn epoch) s fun t => answered (op 0xC3 7 0x02) t h 7 0x02 0))) ∧
    (ownerTaken s h → j.state = .none → ∀ slot : BitVec 4,
      let put (b : Option Binding) (t : State) : Prop := SMap.get (fun _ => none) (t.part q).bindings slot.toNat = b ∧
        (∀ i, i ≠ slot.toNat → SMap.get (fun _ => none) (t.part q).bindings i = SMap.get (fun _ => none) x.bindings i) ∧
        t.part q = { x with bindings := (t.part q).bindings } ∧ (∀ i, i ≠ q → t.part i = s.part i) ∧ succeeded s t h [] 0
      (∀ r, x.cfg = some r → (gives (.bindingSet h p slot none) s (put none)) ∧ ∀ b,
        (s.bindingOk q b = true → gives (.bindingSet h p slot (some b)) s (put (some b))) ∧
        (s.bindingOk q b = false → gives (.bindingSet h p slot (some b)) s fun t => answered s t h 0 0x02 0)) ∧
      (x.cfg = none → ∀ b, gives (.bindingSet h p slot b) s fun t => answered s t h 7 0x07 0)) ∧
    (∀ cause : EndCause, cause = .deactivation ∨ cause = .kill →
      (j.state = .loaded ∨ j.state = .running → s.traceEn = false → gives (.jobEnd q cause) s fun t =>
        endBegun s t q cause j.waiter) ∧
      (j.state = .none → exec (.jobEnd q cause) s = .next s) ∧
      (s.drained q = true → j.state = .ending → j.ending = some cause → (∃ r, x.cfg = some r) → j.kofOpt = false →
        s.traceEn = false → gives (.jobEndDrained q) s fun t => jobOver s t q cause ∧
          ∀ w, j.waiter = some w → .completion w 0 0 0 ∈ t.outbox)) ∧
    (s.drained q = false → exec (.jobEndDrained q) s = .next s) ∧
    (j.state = .loaded ∨ j.state = .running → s.traceEn = false → gives (.partitionFault q) s fun t =>
      endBegun s t q .partitionFault j.waiter) ∧
    (j.state = .none → exec (.partitionFault q) s = .next s) ∧
    (∀ f : SharedFault, gives (.moduleFault f) s fun t => moduleFaulted s t ∧ t.pow.fatal = (s.pow.fatal || storageLost f)) ∧
    (let cs := s.clustersOf q
      let win := s.time.toNat / 1000000 - 1
      let stall := cs.foldl (fun n c => n + (let g := s.cluster c
        if g.stallWin = win then g.stalls else if g.stallWin = win + 1 then g.stallsWas else 0)) 0
      (s.time.toNat / 1000000 = 0 → exec (.interferenceWindowEnd q) s = .next s) ∧
      (s.time.toNat / 1000000 ≠ 0 → gives (.interferenceWindowEnd q) s fun t =>
        (∀ cl ∈ cs, ∃ w, t.cluster cl = { s.cluster cl with intf := w } ∧ bits w 63 48 = win % 2 ^ 16 ∧
          bits w 31 0 = stall % 2 ^ 32) ∧ (∀ cl, cl ∉ cs → t.cluster cl = s.cluster cl) ∧
        (t.part q).window.toNat = win % 2 ^ 32 ∧ (t.part q).fracs.tail = x.fracs.take 1023 ∧ (t.part q).pcnt = x.pcnt ∧
        { t with clusters := s.clusters, parts := s.parts } = s))

/-- 16 R348, R351, R359, R360, R366 to R368, Table 16-5, 22 R489, R492: resets of functions and ports, links, and the ownership
semaphore. -/
def Obligations.HostResetsAndOwnership : Prop :=
  ∀ (s : State) (p : Port),
    (∀ f : FnId, gives (.controllerReset f) s fun t => functionsReset s t false [f] ∧ t.links = s.links ∧ t.pow = s.pow) ∧
    (∀ v : Fin 1024, gives (.vfFunctionLevelReset v) s fun t => functionsReset s t true [.vf v]) ∧
    (gives (.pfFunctionLevelReset p) s fun t => functionsReset s t true (s.fnsOf p)) ∧
    (s.absent p = false → s.ownsem = semOf p → s.san.active = none → s.anyJob = true → gives (.nvmSubsystemReset p) s fun t =>
      functionsReset s t true (s.fnsOf .a ++ s.fnsOf .b)) ∧
    (s.absent p = false →
      (∀ down : Bool, gives (.portReset p down) s fun t => functionsReset s t true (s.fnsOf p) ∧ (t.port p).linkUp = false ∧
        (t.port p).downAt = some ((s.port p).downAt.getD s.time) ∧ ((t.port p).perst = ((s.port p).perst || !down)) ∧
        ∀ q, q ≠ p → t.port q = s.port q) ∧
      (∀ sel : Bool, (p = .b ∨ sel = s.x16) → gives (.perstRelease p sel) s fun t => (t.port p).perst = false ∧ t.x16 = s.x16 ∧
        t.fns = s.fns ∧ t.heldCmds = s.heldCmds) ∧
      (s.storageOn = true → (s.port p).perst = false → gives (.pcieLinkUp p) s fun t =>
        t.port p = { s.port p with linkUp := true, downAt := none } ∧ (∀ q, q ≠ p → t.port q = s.port q) ∧
        t.ownsem = (if s.ownsem = semOf p ∧ ∃ a, (s.port p).downAt = some a ∧ 100000000 ≤ (s.time - a).toNat then 0 else s.ownsem) ∧
        { t with ports := s.ports, ownsem := s.ownsem } = s) ∧
      (s.ownsem = 0 → gives (.ownsemRead p) s fun t => t.ownsem = semOf p ∧
        t.outbox = s.outbox ++ [.registerData (.bar2 p) ((semOf p).zeroExtend 64)] ∧
        { t with ownsem := s.ownsem, outbox := s.outbox } = s) ∧
      (s.ownsem ≠ 0 → gives (.ownsemRead p) s fun t =>
        t = { s with outbox := s.outbox ++ [.registerData (.bar2 p) (s.ownsem.zeroExtend 64)] })) ∧
    (∀ sel : Bool, p = .a → s.x16 ≠ sel → gives (.perstRelease p sel) s fun t => t.x16 = sel ∧ (t.port .a).perst = false ∧
      (t.port .b).linkUp = false ∧ (t.port .b).downAt = some ((s.port .b).downAt.getD s.time) ∧ functionsReset s t true (s.fnsOf .a ++ s.fnsOf .b)) ∧
    (s.storageOn = false ∨ (s.port p).perst = true → exec (.pcieLinkUp p) s = .next s) ∧
    (∀ v : Word,
      (s.ownsem = semOf p → bits v 1 0 = 0 → gives (.ownsemRelease p v) s fun t => t = { s with ownsem := 0 }) ∧
      (s.ownsem ≠ semOf p ∨ bits v 1 0 ≠ 0 → exec (.ownsemRelease p v) s = .next s)) ∧
    (s.ownsem = semOf p → ∀ a, (s.port p).downAt = some a →
      (100000000 ≤ (s.time - a).toNat → gives .ownsemLinkDownRelease s fun t => t = { s with ownsem := 0 }) ∧
      ((s.time - a).toNat < 100000000 → exec .ownsemLinkDownRelease s = .next s)) ∧
    (s.ownsem = 0 → exec .ownsemLinkDownRelease s = .next s)

/-- 13 R292, R295, R300 to R302, R305 to R309, Tables 13-9a, 13-12, 19 R441: root commits, the hold-up measurement, the host memory buffer,
class bands and sanitize. The buffer sizes of a short bank and the pace of a Block Erase are the model's. -/
def Obligations.RootsHoldUpAndSanitize : Prop :=
  ∀ (s : State),
    (s.ftlUp = true →
      (s.rootInterval ≤ (s.time - s.rootTime).toNat → gives .rootCommit s fun t => rootCommitted s t ∧ (banksIdle s → t.modLog = s.modLog) ∧
        beforeRoots s t = s) ∧
      (0x100000000 ≤ s.journal → gives .journalBoundReached s fun t => rootCommitted s t)) ∧
    (∀ a, s.ftlUp = true → s.rootInterval ≤ (s.time - s.rootTime).toNat → s.rootAt = some a → s.rootBusy (!regionOf a) = true →
      (s.rootBusy (regionOf a) = false → gives .rootCommit s fun t => ∃ b r, t.rootAt = some b ∧ regionOf b = regionOf a ∧
        SMap.get (fun _ => (none : Option RootRec)) t.rootRecs b = some r ∧ r.seq = s.rootSeq + 1 ∧ r.time = s.time ∧
        t.modLog = s.modLog ++ [.rootRetry]) ∧
      (s.rootBusy (regionOf a) = true → gives .rootCommit s fun t => t = { s with modLog := s.modLog ++ [.rootRetry] })) ∧
    (s.ftlUp = false → exec .rootCommit s = .next s ∧ exec .journalBoundReached s = .next s) ∧
    ((s.time - s.rootTime).toNat < s.rootInterval → exec .rootCommit s = .next s) ∧
    (s.journal < 0x100000000 → exec .journalBoundReached s = .next s) ∧
    (∀ n : Nat,
      (holdupNeed s.variant ≤ n → gives (.holdupMeasure n) s fun t =>
        t = { s with pow := { s.pow with holdupOk := true }, bufCap := 262144, critWarn := s.critWarn &&& ~~~16 }) ∧
      (n < holdupNeed s.variant → gives (.holdupMeasure n) s fun t => t.pow = { s.pow with holdupOk := true } ∧
        t.bufCap < 262144 ∧ t.critWarn.getLsbD 4 = true ∧ LogKind.holdupShort ∈ t.modLog)) ∧
    (s.hmbOn = true → s.hmbSusp = false → 16 ≤ s.hmbNow → gives .hmbSuspend s fun t =>
      t = { s with hmbSusp := true, modLog := s.modLog ++ [.hmbSuspended] }) ∧
    (s.hmbOn = false ∨ s.hmbSusp = true ∨ s.hmbNow < 16 → exec .hmbSuspend s = .next s) ∧
    (∀ (w : Requester) (k : Sys2Proof.Class),
      (fromCore w = true → exec (.ftlClassRelease w k) s = .next s) ∧
      (fromCore w = false → gives (.ftlClassRelease w k) s fun t => (banksIdle s → t.journal = 0) ∧ t.cwords = s.cwords ∧ t.nsMap = s.nsMap ∧
        ∀ g, g < groupsOf s.variant → ∀ b ∈ (s.freeList g k).drop (bits s.mediaCtl 15 8), (t.bandAt b).state = .unused)) ∧
    (∀ h : Hdr, ownerServed s h →
      (s.anyJob = false →
        (gives (.sanitizeBlockErase h) s fun t => sanitizeStarted s t h .block) ∧
        (s.sec.epoch + 16 < 1024 → gives (.sanitizeCryptoErase h) s fun t => sanitizeStarted s t h .crypto ∧
          (∀ n v, s.ns n = some v → ∃ k, t.ns n = some { v with key := k } ∧ s.sec.keyGen < k) ∧
          ∀ w, w < 0x44 ∨ 0x54 ≤ w → t.sec.word w = s.sec.word w) ∧
        (1024 ≤ s.sec.epoch + 16 → gives (.sanitizeCryptoErase h) s fun t => answered s t h 0 0x02 0) ∧
        gives (.sanitizeExitFailureMode h) s fun t => t.san = { s.san with failed := false } ∧ rootCommitted s t ∧
          t.outbox = s.outbox ++ [.completion h 0 0 0]) ∧
      (s.anyJob = true → ∀ i ∈ [Instr.sanitizeBlockErase h, .sanitizeCryptoErase h, .sanitizeExitFailureMode h],
        gives i s fun t => answered s t h 0 0x0C 0)) ∧
    (s.san.active = some .crypto → gives .sanitizeProgressCommit s fun t => rootCommitted s t ∧ t.cwords = s.cwords) ∧
    (s.san.active = some .block → gives .sanitizeProgressCommit s fun t => rootCommitted s t ∧
      (∀ d ∈ s.sanDies, (t.die d).sanQuad = min 2760 ((s.die d).sanQuad + 126) ∧ ∀ n, n < 126 → (s.die d).sanQuad + n < 2760 →
        ∀ p : Fin 4, ∀ c, c / 2 ^ 13 = dieBlock d p.val ((s.die d).sanQuad + n) → t.cwAt c = none) ∧
      ∀ d, d ∉ s.sanDies → (t.die d).sanQuad = (s.die d).sanQuad) ∧
    (s.san.active = some .block → s.allErased = false → exec .sanitizeComplete s = .next s) ∧
    (s.san.active ≠ none → (s.san.active = some .block → s.allErased = true) → gives .sanitizeComplete s fun t => t.san = { active := none, failed := false, succeeded := true } ∧
      t.cwords = [] ∧ t.nsMap = [] ∧ rootCommitted s t ∧ (s.san.active = some .block → t.erasedAll = s.erasedAll + 2)) ∧
    (s.san.active = none → exec .sanitizeProgressCommit s = .next s ∧ exec .sanitizeComplete s = .next s)

/-- 19 R431 to R434, R450 to R452, Tables 19-2, 19-3: attestation on a transport, and operations of the management processors on the
configuration flash. The response codes and the order of requests are those of SPDM 1.3 (log 50); contents the spec does not give are
one free word (log 1). -/
def Obligations.AttestationAndConfigurationFlash : Prop :=
  ∀ (s : State),
    (∀ v : SpdmVia, s.spdmUp v = true →
      let x := s.spdmOf v
      let answersIt (i : Instr) (y : Spdm) (code : Byte) : Prop := gives i s fun t => t.spdmOf v = y ∧
        (∀ w, w ≠ v → t.spdmOf w = s.spdmOf w) ∧ (∃ d, t.outbox = s.outbox ++ [.spdm v code d]) ∧
        { t with sec := s.sec, outbox := s.outbox, freeCtr := s.freeCtr } = s ∧
        { t.sec with spdmNvme := s.sec.spdmNvme, spdmI3c := s.sec.spdmI3c, spdmLink := s.sec.spdmLink } = s.sec
      let fails (i : Instr) (e : Nat) : Prop := gives i s fun t =>
        t = { s with outbox := s.outbox ++ [.spdm v 0x7F [BitVec.ofNat 64 e]] }
      answersIt (.getVersion v) { version := true } 0x04 ∧
      (x.version = true → answersIt (.getCapabilities v) { x with caps := true } 0x61) ∧
      (x.version = false → fails (.getCapabilities v) 4) ∧
      (x.caps = true → answersIt (.negotiateAlgorithms v) { x with algs := true } 0x63) ∧
      (x.algs = true → ∀ (slot : BitVec 4) (o l : BitVec 16) (n : BitVec 256) (i : BitVec 8) (r : BitVec 16),
        answersIt (.getDigests v) x 0x01 ∧ (slot = 0 → answersIt (.getCertificate v slot o l) x 0x02 ∧ answersIt (.challenge v slot n) x 0x03) ∧
        (slot ≠ 0 → fails (.getCertificate v slot o l) 1 ∧ fails (.challenge v slot n) 1) ∧
        (s.mayMeasure v i.toNat = true → answersIt (.getMeasurements v i) x 0x60) ∧
        (s.mayMeasure v i.toNat = false → fails (.getMeasurements v i) 1) ∧
        answersIt (.keyExchange v r) { x with handshake := true, session := false } 0x64) ∧
      (x.algs = false → ∀ i, fails (.getDigests v) 4 ∧ fails (.getMeasurements v i) 4) ∧
      (x.handshake = true → answersIt (.finish v true) { x with handshake := false, session := true } 0x65) ∧
      (x.handshake = true → answersIt (.finish v false) { x with handshake := false } 0x7F) ∧
      (x.session = true → answersIt (.spdmKeyUpdate v) x 0x69 ∧ answersIt (.heartbeat v) x 0x68 ∧
        answersIt (.endSession v) { x with session := false } 0x6C) ∧
      (x.session = false → fails (.spdmKeyUpdate v) 4 ∧ fails (.heartbeat v) 4 ∧ fails (.endSession v) 4)) ∧
    (∀ v : SpdmVia, s.spdmUp v = false → exec (.getVersion v) s = .next s ∧ exec (.getDigests v) s = .next s) ∧
    (∀ (p : Fin 2) (a : BitVec 32), s.sec.island = .running → s.mgmt.halted = false →
      let b := a.toNat / 0x4000000
      let o := a.toNat % 0x4000000
      let guarded := (0x3000000 ≤ o ∧ o < 0x3400000) ∨ (o < 0x3000000 ∧ b = s.sec.activeSlot.val)
      let code (i : Instr) (c : Byte) : Prop := gives i s fun t => (t.cflProc p) = { s.cflProc p with code := c } ∧ t.cfl = s.cfl ∧
        t.sec.banks = s.sec.banks ∧ { t with sec := s.sec } = s
      ∀ i n op, (i = .cflProgram p a ∧ n = 256 ∧ op = CflOp.program a.toNat) ∨
          (i = .cflErase p a ∧ n = 4096 ∧ op = CflOp.erase a.toNat) →
        (a.toNat % n ≠ 0 ∨ 0x8000000 ≤ a.toNat → code i 0x04) ∧
        (a.toNat % n = 0 → a.toNat < 0x8000000 →
          ((s.cflProc p).xbank.toNat = b → code i 0x02) ∧
          ((s.cflProc p).xbank.toNat ≠ b → guarded → code i 0x03) ∧
          ((s.cflProc p).xbank.toNat ≠ b → ¬ guarded → (s.cflBank b).op ≠ none → s.cflYields p a.toNat = none → code i 0x01) ∧
          (∀ (q : Fin 2) (o2 : CflOp) (b2 : SMap Byte), (s.cflProc p).xbank.toNat ≠ b → ¬ guarded → (s.cflBank b).op = some (q, o2, b2) →
            p = s.mgmt.active → q ≠ p → (s.cflBank b).at_ = s.cycle → gives i s fun t =>
              (t.cflProc q).busy = false ∧ (t.cflProc q).code = 0x01 ∧ (t.cflBank b).op = some (p, op, (s.cflProc p).buf) ∧
              (t.cflProc p).busy = true ∧ t.cfl = s.cfl ∧ { t with sec := s.sec } = s) ∧
          ((s.cflProc p).xbank.toNat ≠ b → ¬ guarded → (s.cflBank b).op = none → gives i s fun t =>
            t.cflProc p = { s.cflProc p with busy := true } ∧ (t.cflBank b).op = some (p, op, (s.cflProc p).buf) ∧
            t.cfl = s.cfl ∧ { t with sec := s.sec } = s))) ∧
    (∀ (b : Fin 2) (p : Fin 2) (a : Nat) (buf : SMap Byte),
      ((s.cflBank b.val).op = some (p, .program a, buf) → gives (.cflOperationComplete b true) s fun t =>
        (∀ i, i < 256 → t.cflByte (a + i) = SMap.get (fun _ => 0) buf i) ∧
        (∀ i, i < a ∨ a + 256 ≤ i → t.cflByte i = s.cflByte i) ∧ (t.cflBank b.val).op = none ∧
        t.cflProc p = { s.cflProc p with busy := false, code := 0x00 } ∧ t.mem = s.mem) ∧
      ((s.cflBank b.val).op = some (p, .erase a, buf) → gives (.cflOperationComplete b true) s fun t =>
        (∀ i, i < 4096 → t.cflByte (a + i) = 0xFF) ∧ (∀ i, i < a ∨ a + 4096 ≤ i → t.cflByte i = s.cflByte i) ∧
        t.cflProc p = { s.cflProc p with busy := false, code := 0x00 }) ∧
      ((s.cflBank b.val).op = some (p, .erase a, buf) → gives (.cflOperationComplete b false) s fun t =>
        (∀ i, i < a ∨ a + 4096 ≤ i → t.cflByte i = s.cflByte i) ∧
        t.cflProc p = { s.cflProc p with busy := false, code := 0x05 })) ∧
    (∀ b : Fin 2, (s.cflBank b.val).op = none → ∀ ok, exec (.cflOperationComplete b ok) s = .next s)

/-- The model's choice for an empty queue (log 4): one tick of module time and one cycle of every clock pass; CLU_CYCLE counts in cores that
run or wait, HUB_PCNT(p, 0) the clusters of p with a core running (03 Table 3-10, 20 Table 20-2). -/
def Obligations.IdleTickCountsTime : Prop :=
  ∀ s : State, s.pending = [] → ∃ t, step s = .next t ∧ t.time = s.time + 1 ∧ t.cycle = s.cycle + 1 ∧
    (∀ c, t.core c = { s.core c with
      cycles := (s.core c).cycles + if (s.core c).mode = .running ∨ (s.core c).mode = .waiting then 1 else 0 }) ∧
    (∀ p, t.part p = { s.part p with pcnt := (t.part p).pcnt, edge := (t.part p).edge, edgeWin := (t.part p).edgeWin } ∧
      (∀ i, i ≠ 0 → SMap.get (fun _ => 0) (t.part p).pcnt i = SMap.get (fun _ => 0) (s.part p).pcnt i) ∧
      SMap.get (fun _ => 0) (t.part p).pcnt 0 = SMap.get (fun _ => 0) (s.part p).pcnt 0 +
        BitVec.ofNat 64 (((List.finRange 32).filter fun cl => s.clusterRuns cl && s.partOf cl == some p).length)) ∧
    { t with time := s.time, cycle := s.cycle, cores := s.cores, parts := s.parts } = s

/-- The reset state has the invariant. -/
def Obligations.ResetHasTheInvariant : Prop := inv State.reset

/-- Every step keeps the invariant. -/
def Obligations.EveryStepKeepsTheInvariant : Prop := ∀ s t : State, inv s → step s = .next t → inv t

/-- Every step answers a next state, takes just the front command off the queue, and leaves the variant as it is. -/
def Obligations.EveryStepTakesOneCommand : Prop :=
  ∀ s : State, ∃ t, step s = .next t ∧ t.pending = s.pending.tail ∧ t.variant = s.variant

/-- 19 R430: no step clears a bit of the OTP row, unlocks a word of it, or changes a locked word. -/
def Obligations.OtpNeverGoesBack : Prop :=
  ∀ s t : State, step s = .next t → ∀ w, t.sec.word w &&& s.sec.word w = s.sec.word w ∧
    (s.sec.locked w = true → t.sec.locked w = true ∧ t.sec.word w = s.sec.word w)
end

