-- ==== Sys2Proof/Laws/SMap.lean ====
section
/-! SUPPORT. The laws of the sparse tables: reading after writing, and the canonical form that every write keeps. -/

namespace Sys2Proof

variable {α : Type}

theorem SMap.get_ins_same (d : Nat → α) (m : SMap α) (k : Nat) (v : α) : SMap.get d (SMap.ins m k v) k = v := by
  induction m with
  | nil => simp [SMap.ins, SMap.get]
  | cons e m ih =>
    obtain ⟨j, u⟩ := e
    simp only [SMap.ins]
    split
    · simp [SMap.get]
    · split
      · simp [SMap.get]
      · rename_i h
        simp [SMap.get, h, ih]

theorem SMap.get_ins_other (d : Nat → α) (m : SMap α) (k j : Nat) (v : α) (h : j ≠ k) :
    SMap.get d (SMap.ins m k v) j = SMap.get d m j := by
  induction m with
  | nil => simp [SMap.ins, SMap.get, h]
  | cons e m ih =>
    obtain ⟨i, u⟩ := e
    simp only [SMap.ins]
    split
    · simp [SMap.get, h]
    · split
      · rename_i hk
        subst hk
        simp [SMap.get, h]
      · simp [SMap.get, ih]

theorem SMap.get_del_same (d : Nat → α) (m : SMap α) (k : Nat) : SMap.get d (SMap.del m k) k = d k := by
  induction m with
  | nil => rfl
  | cons e m ih =>
    obtain ⟨j, u⟩ := e
    simp only [SMap.del]
    split
    · exact ih
    · rename_i h
      simp [SMap.get, h, ih]

theorem SMap.get_del_other (d : Nat → α) (m : SMap α) (k j : Nat) (h : j ≠ k) :
    SMap.get d (SMap.del m k) j = SMap.get d m j := by
  induction m with
  | nil => rfl
  | cons e m ih =>
    obtain ⟨i, u⟩ := e
    simp only [SMap.del]
    split
    · rename_i hk
      subst hk
      simp [SMap.get, h, ih]
    · simp [SMap.get, ih]

/-- A written key reads what was written. -/
@[simp] theorem SMap.get_set_same [DecidableEq α] (d : Nat → α) (m : SMap α) (k : Nat) (v : α) :
    SMap.get d (SMap.set d m k v) k = v := by
  unfold SMap.set
  split
  · rename_i h
    rw [h]
    exact SMap.get_del_same d m k
  · exact SMap.get_ins_same d m k v

/-- Every other key reads as before. -/
theorem SMap.get_set_other [DecidableEq α] (d : Nat → α) (m : SMap α) (k j : Nat) (v : α) (h : j ≠ k) :
    SMap.get d (SMap.set d m k v) j = SMap.get d m j := by
  unfold SMap.set
  split
  · exact SMap.get_del_other d m k j h
  · exact SMap.get_ins_other d m k j v h

theorem SMap.get_set [DecidableEq α] (d : Nat → α) (m : SMap α) (k j : Nat) (v : α) :
    SMap.get d (SMap.set d m k v) j = if j = k then v else SMap.get d m j := by
  split
  · rename_i h
    rw [h, SMap.get_set_same]
  · rename_i h
    exact SMap.get_set_other d m k j v h

/-! ### The canonical form -/

/-- The first key of a table lies above a bound. -/
def SMap.above (b : Nat) : SMap α → Prop
  | [] => True
  | e :: _ => b < e.1

theorem SMap.wf_cons [DecidableEq α] (d : Nat → α) (j : Nat) (v : α) (m : SMap α) :
    SMap.wf d ((j, v) :: m) = true ↔ v ≠ d j ∧ SMap.above j m ∧ SMap.wf d m = true := by
  cases m with
  | nil => simp [SMap.wf, SMap.above]
  | cons e m =>
    obtain ⟨j', v'⟩ := e
    simp [SMap.wf, SMap.above, and_assoc]

theorem SMap.above_trans {a b : Nat} {m : SMap α} (h : a < b) (hb : SMap.above b m) : SMap.above a m := by
  cases m with
  | nil => trivial
  | cons e m => exact Nat.lt_trans h hb

theorem SMap.above_ins {a k : Nat} {m : SMap α} (v : α) (h : a < k) (hm : SMap.above a m) :
    SMap.above a (SMap.ins m k v) := by
  cases m with
  | nil => exact h
  | cons e m =>
    obtain ⟨j, u⟩ := e
    simp only [SMap.ins]
    split
    · exact h
    · split
      · exact h
      · exact hm

theorem SMap.wf_ins [DecidableEq α] (d : Nat → α) (m : SMap α) (k : Nat) (v : α) (hv : v ≠ d k)
    (h : SMap.wf d m = true) : SMap.wf d (SMap.ins m k v) = true := by
  induction m with
  | nil => simp [SMap.ins, SMap.wf, hv]
  | cons e m ih =>
    obtain ⟨j, u⟩ := e
    have hc := (SMap.wf_cons d j u m).mp h
    simp only [SMap.ins]
    split
    · rename_i hk
      exact (SMap.wf_cons d k v _).mpr ⟨hv, hk, h⟩
    · split
      · rename_i hk
        subst hk
        exact (SMap.wf_cons d k v m).mpr ⟨hv, hc.2⟩
      · rename_i h1 h2
        exact (SMap.wf_cons d j u _).mpr ⟨hc.1, SMap.above_ins v (by omega) hc.2.1, ih hc.2.2⟩

theorem SMap.above_del [DecidableEq α] (d : Nat → α) {a : Nat} (m : SMap α) (k : Nat) (hw : SMap.wf d m = true)
    (hm : SMap.above a m) : SMap.above a (SMap.del m k) := by
  induction m with
  | nil => trivial
  | cons e m ih =>
    obtain ⟨j, u⟩ := e
    have hc := (SMap.wf_cons d j u m).mp hw
    simp only [SMap.del]
    split
    · exact ih hc.2.2 (SMap.above_trans hm hc.2.1)
    · exact hm

theorem SMap.wf_del [DecidableEq α] (d : Nat → α) (m : SMap α) (k : Nat) (h : SMap.wf d m = true) :
    SMap.wf d (SMap.del m k) = true := by
  induction m with
  | nil => rfl
  | cons e m ih =>
    obtain ⟨j, u⟩ := e
    have hc := (SMap.wf_cons d j u m).mp h
    simp only [SMap.del]
    split
    · exact ih hc.2.2
    · exact (SMap.wf_cons d j u _).mpr ⟨hc.1, SMap.above_del d m k hc.2.2 hc.2.1, ih hc.2.2⟩

/-- A write keeps the canonical form. -/
theorem SMap.wf_set [DecidableEq α] (d : Nat → α) (m : SMap α) (k : Nat) (v : α) (h : SMap.wf d m = true) :
    SMap.wf d (SMap.set d m k v) = true := by
  unfold SMap.set
  split
  · exact SMap.wf_del d m k h
  · rename_i hv
    exact SMap.wf_ins d m k v hv h

theorem SMap.above_filter [DecidableEq α] (d : Nat → α) {a : Nat} (p : Nat × α → Bool) (m : SMap α)
    (hw : SMap.wf d m = true) (hm : SMap.above a m) : SMap.above a (m.filter p) := by
  induction m with
  | nil => trivial
  | cons e m ih =>
    obtain ⟨j, u⟩ := e
    have hc := (SMap.wf_cons d j u m).mp hw
    simp only [List.filter]
    split
    · exact hm
    · exact ih hc.2.2 (SMap.above_trans hm hc.2.1)

/-- Leaving entries out keeps the canonical form. -/
theorem SMap.wf_filter [DecidableEq α] (d : Nat → α) (p : Nat × α → Bool) (m : SMap α) (h : SMap.wf d m = true) :
    SMap.wf d (m.filter p) = true := by
  induction m with
  | nil => rfl
  | cons e m ih =>
    obtain ⟨j, u⟩ := e
    have hc := (SMap.wf_cons d j u m).mp h
    simp only [List.filter]
    split
    · exact (SMap.wf_cons d j u _).mpr ⟨hc.1, SMap.above_filter d p m hc.2.2 hc.2.1, ih hc.2.2⟩
    · exact ih hc.2.2

end Sys2Proof
end

