-- ==== Sys2Proof/Laws/Memory.lean ====
section
/-! SUPPORT. The module's memory keeps its canonical form under every operation that writes it, and a byte written reads back
while every other byte reads as before. -/

namespace Sys2Proof.Machine

open Sys2Proof

theorem Memory.byte_put_same (m : Memory) (a : Nat) (b : Byte) : (m.put a b).byte a = b := by
  simp [Memory.put, Memory.byte]

theorem Memory.byte_put_other (m : Memory) (a x : Nat) (b : Byte) (h : x ≠ a) : (m.put a b).byte x = m.byte x := by
  simp [Memory.put, Memory.byte, SMap.get_set_other _ _ _ _ _ h]

theorem Memory.wf_put (m : Memory) (a : Nat) (b : Byte) (h : m.wf = true) : (m.put a b).wf = true :=
  SMap.wf_set _ m a b h

theorem Memory.wf_store (m : Memory) (a : Nat) (d : List (Option Byte)) (h : m.wf = true) : (m.store a d).wf = true := by
  induction d generalizing m a with
  | nil => simpa [Memory.store] using h
  | cons x d ih =>
    cases x with
    | none => simpa [Memory.store] using ih m (a + 1) h
    | some b => simpa [Memory.store] using ih (m.put a b) (a + 1) (Memory.wf_put m a b h)

/-- Bytes outside the range stored to read as before. -/
theorem Memory.byte_store_outside (m : Memory) (a x : Nat) (d : List (Option Byte)) (h : x < a ∨ a + d.length ≤ x) :
    (m.store a d).byte x = m.byte x := by
  induction d generalizing m a with
  | nil => simp [Memory.store]
  | cons y d ih =>
    have h' : x < a + 1 ∨ a + 1 + d.length ≤ x := by
      simp only [List.length_cons] at h
      omega
    cases y with
    | none => simpa [Memory.store] using ih m (a + 1) h'
    | some b =>
      have hx : x ≠ a := by
        simp only [List.length_cons] at h
        omega
      simpa [Memory.store, Memory.byte_put_other m a x b hx] using ih (m.put a b) (a + 1) h'

end Sys2Proof.Machine
end

