-- ==== Sys2Proof/Laws/State.lean ====
section
/-! SUPPORT. What each update of a numbered part of State leaves in every other part and field, and that a part written reads
back. -/

namespace Sys2Proof.Machine

open Sys2Proof

variable (s : State)

theorem CoreId.key_inj {a b : CoreId} (h : a.cl.val * 128 + a.k.val = b.cl.val * 128 + b.k.val) : a = b := by
  obtain ⟨a1, a2⟩ := a
  obtain ⟨b1, b2⟩ := b
  have h1 := a2.isLt
  have h2 := b2.isLt
  simp only at h
  have e1 : a1 = b1 := Fin.ext (by omega)
  have e2 : a2 = b2 := Fin.ext (by omega)
  rw [e1, e2]

theorem DieId.key_inj {a b : DieId} (h : a.ch.val * 16 + a.die.val = b.ch.val * 16 + b.die.val) : a = b := by
  obtain ⟨a1, a2⟩ := a
  obtain ⟨b1, b2⟩ := b
  have h1 := a2.isLt
  have h2 := b2.isLt
  simp only at h
  have e1 : a1 = b1 := Fin.ext (by omega)
  have e2 : a2 = b2 := Fin.ext (by omega)
  rw [e1, e2]

theorem FnId.key_inj {a b : FnId} (h : FnId.key a = FnId.key b) : a = b := by
  cases a with
  | pf p => cases b with
    | pf q => cases p <;> cases q <;> simp_all [FnId.key]
    | vf t => cases p <;> simp [FnId.key] at h <;> omega
  | vf t => cases b with
    | pf q => cases q <;> simp [FnId.key] at h <;> omega
    | vf u =>
      simp only [FnId.key] at h
      rw [Fin.ext (by omega : t.val = u.val)]

/-! ### cores -/

@[simp] theorem State.core_setCore_same (c : CoreId) (v : Core) : (s.setCore c v).core c = v := by
  simp [State.setCore, State.core]
theorem State.core_setCore_other (c d : CoreId) (v : Core) (h : d ≠ c) : (s.setCore c v).core d = s.core d := by
  simp only [State.setCore, State.core]
  exact SMap.get_set_other _ _ _ _ _ (fun e => h (CoreId.key_inj e))
@[simp] theorem State.core_updCore_same (c : CoreId) (f : Core → Core) : (s.updCore c f).core c = f (s.core c) :=
  State.core_setCore_same s c _
theorem State.core_updCore_other (c d : CoreId) (f : Core → Core) (h : d ≠ c) : (s.updCore c f).core d = s.core d :=
  State.core_setCore_other s c d _ h
@[simp] theorem State.cluster_setCore (c : CoreId) (v : Core) (d : Fin 32) : (s.setCore c v).cluster d = s.cluster d := rfl
@[simp] theorem State.cluster_updCore (c : CoreId) (f : Core → Core) (d : Fin 32) : (s.updCore c f).cluster d = s.cluster d := rfl
@[simp] theorem State.part_setCore (c : CoreId) (v : Core) (d : Fin 12) : (s.setCore c v).part d = s.part d := rfl
@[simp] theorem State.part_updCore (c : CoreId) (f : Core → Core) (d : Fin 12) : (s.updCore c f).part d = s.part d := rfl
@[simp] theorem State.link_setCore (c : CoreId) (v : Core) (d : Fin 36) : (s.setCore c v).link d = s.link d := rfl
@[simp] theorem State.link_updCore (c : CoreId) (f : Core → Core) (d : Fin 36) : (s.updCore c f).link d = s.link d := rfl
@[simp] theorem State.fn_setCore (c : CoreId) (v : Core) (d : FnId) : (s.setCore c v).fn d = s.fn d := rfl
@[simp] theorem State.fn_updCore (c : CoreId) (f : Core → Core) (d : FnId) : (s.updCore c f).fn d = s.fn d := rfl
@[simp] theorem State.die_setCore (c : CoreId) (v : Core) (d : DieId) : (s.setCore c v).die d = s.die d := rfl
@[simp] theorem State.die_updCore (c : CoreId) (f : Core → Core) (d : DieId) : (s.updCore c f).die d = s.die d := rfl
@[simp] theorem State.chan_setCore (c : CoreId) (v : Core) (d : Fin 64) : (s.setCore c v).chan d = s.chan d := rfl
@[simp] theorem State.chan_updCore (c : CoreId) (f : Core → Core) (d : Fin 64) : (s.updCore c f).chan d = s.chan d := rfl
@[simp] theorem State.ldpcOf_setCore (c : CoreId) (v : Core) (d : Fin 16) : (s.setCore c v).ldpcOf d = s.ldpcOf d := rfl
@[simp] theorem State.ldpcOf_updCore (c : CoreId) (f : Core → Core) (d : Fin 16) : (s.updCore c f).ldpcOf d = s.ldpcOf d := rfl
@[simp] theorem State.port_setCore (c : CoreId) (v : Core) (d : Port) : (s.setCore c v).port d = s.port d := rfl
@[simp] theorem State.port_updCore (c : CoreId) (f : Core → Core) (d : Port) : (s.updCore c f).port d = s.port d := rfl
@[simp] theorem State.injectOf_setCore (c : CoreId) (v : Core) (d : Fin 3) : (s.setCore c v).injectOf d = s.injectOf d := rfl
@[simp] theorem State.injectOf_updCore (c : CoreId) (f : Core → Core) (d : Fin 3) : (s.updCore c f).injectOf d = s.injectOf d := rfl
@[simp] theorem State.pending_setCore (c : CoreId) (v : Core) : (s.setCore c v).pending = s.pending := rfl
@[simp] theorem State.pending_updCore (c : CoreId) (f : Core → Core) : (s.updCore c f).pending = s.pending := rfl
@[simp] theorem State.time_setCore (c : CoreId) (v : Core) : (s.setCore c v).time = s.time := rfl
@[simp] theorem State.time_updCore (c : CoreId) (f : Core → Core) : (s.updCore c f).time = s.time := rfl
@[simp] theorem State.cycle_setCore (c : CoreId) (v : Core) : (s.setCore c v).cycle = s.cycle := rfl
@[simp] theorem State.cycle_updCore (c : CoreId) (f : Core → Core) : (s.updCore c f).cycle = s.cycle := rfl
@[simp] theorem State.freeCtr_setCore (c : CoreId) (v : Core) : (s.setCore c v).freeCtr = s.freeCtr := rfl
@[simp] theorem State.freeCtr_updCore (c : CoreId) (f : Core → Core) : (s.updCore c f).freeCtr = s.freeCtr := rfl
@[simp] theorem State.variant_setCore (c : CoreId) (v : Core) : (s.setCore c v).variant = s.variant := rfl
@[simp] theorem State.variant_updCore (c : CoreId) (f : Core → Core) : (s.updCore c f).variant = s.variant := rfl
@[simp] theorem State.outbox_setCore (c : CoreId) (v : Core) : (s.setCore c v).outbox = s.outbox := rfl
@[simp] theorem State.outbox_updCore (c : CoreId) (f : Core → Core) : (s.updCore c f).outbox = s.outbox := rfl
@[simp] theorem State.mem_setCore (c : CoreId) (v : Core) : (s.setCore c v).mem = s.mem := rfl
@[simp] theorem State.mem_updCore (c : CoreId) (f : Core → Core) : (s.updCore c f).mem = s.mem := rfl
@[simp] theorem State.cfl_setCore (c : CoreId) (v : Core) : (s.setCore c v).cfl = s.cfl := rfl
@[simp] theorem State.cfl_updCore (c : CoreId) (f : Core → Core) : (s.updCore c f).cfl = s.cfl := rfl
@[simp] theorem State.tags_setCore (c : CoreId) (v : Core) : (s.setCore c v).tags = s.tags := rfl
@[simp] theorem State.tags_updCore (c : CoreId) (f : Core → Core) : (s.updCore c f).tags = s.tags := rfl
@[simp] theorem State.flips_setCore (c : CoreId) (v : Core) : (s.setCore c v).flips = s.flips := rfl
@[simp] theorem State.flips_updCore (c : CoreId) (f : Core → Core) : (s.updCore c f).flips = s.flips := rfl
@[simp] theorem State.nougat_setCore (c : CoreId) (v : Core) : (s.setCore c v).nougat = s.nougat := rfl
@[simp] theorem State.nougat_updCore (c : CoreId) (f : Core → Core) : (s.updCore c f).nougat = s.nougat := rfl
@[simp] theorem State.nss_setCore (c : CoreId) (v : Core) : (s.setCore c v).nss = s.nss := rfl
@[simp] theorem State.nss_updCore (c : CoreId) (f : Core → Core) : (s.updCore c f).nss = s.nss := rfl
@[simp] theorem State.nsMap_setCore (c : CoreId) (v : Core) : (s.setCore c v).nsMap = s.nsMap := rfl
@[simp] theorem State.nsMap_updCore (c : CoreId) (f : Core → Core) : (s.updCore c f).nsMap = s.nsMap := rfl
@[simp] theorem State.mgmt_setCore (c : CoreId) (v : Core) : (s.setCore c v).mgmt = s.mgmt := rfl
@[simp] theorem State.mgmt_updCore (c : CoreId) (f : Core → Core) : (s.updCore c f).mgmt = s.mgmt := rfl
@[simp] theorem State.pow_setCore (c : CoreId) (v : Core) : (s.setCore c v).pow = s.pow := rfl
@[simp] theorem State.pow_updCore (c : CoreId) (f : Core → Core) : (s.updCore c f).pow = s.pow := rfl
@[simp] theorem State.sec_setCore (c : CoreId) (v : Core) : (s.setCore c v).sec = s.sec := rfl
@[simp] theorem State.sec_updCore (c : CoreId) (f : Core → Core) : (s.updCore c f).sec = s.sec := rfl
@[simp] theorem State.fab_setCore (c : CoreId) (v : Core) : (s.setCore c v).fab = s.fab := rfl
@[simp] theorem State.fab_updCore (c : CoreId) (f : Core → Core) : (s.updCore c f).fab = s.fab := rfl
@[simp] theorem State.arb_setCore (c : CoreId) (v : Core) : (s.setCore c v).arb = s.arb := rfl
@[simp] theorem State.arb_updCore (c : CoreId) (f : Core → Core) : (s.updCore c f).arb = s.arb := rfl
@[simp] theorem State.san_setCore (c : CoreId) (v : Core) : (s.setCore c v).san = s.san := rfl
@[simp] theorem State.san_updCore (c : CoreId) (f : Core → Core) : (s.updCore c f).san = s.san := rfl
@[simp] theorem State.modLog_setCore (c : CoreId) (v : Core) : (s.setCore c v).modLog = s.modLog := rfl
@[simp] theorem State.modLog_updCore (c : CoreId) (f : Core → Core) : (s.updCore c f).modLog = s.modLog := rfl
@[simp] theorem State.setAt_updCore (c : CoreId) (f : Core → Core) : (s.updCore c f).setAt = s.setAt := rfl
@[simp] theorem State.buffer_updCore (c : CoreId) (f : Core → Core) : (s.updCore c f).buffer = s.buffer := rfl
@[simp] theorem State.cwords_updCore (c : CoreId) (f : Core → Core) : (s.updCore c f).cwords = s.cwords := rfl
@[simp] theorem State.rootRecs_updCore (c : CoreId) (f : Core → Core) : (s.updCore c f).rootRecs = s.rootRecs := rfl
@[simp] theorem State.locks_updCore (c : CoreId) (f : Core → Core) : (s.updCore c f).locks = s.locks := rfl
@[simp] theorem State.heldCmds_updCore (c : CoreId) (f : Core → Core) : (s.updCore c f).heldCmds = s.heldCmds := rfl

/-! ### clusters -/

@[simp] theorem State.cluster_setCluster_same (c : Fin 32) (v : Cluster) : (s.setCluster c v).cluster c = v := by
  simp [State.setCluster, State.cluster]
theorem State.cluster_setCluster_other (c d : Fin 32) (v : Cluster) (h : d ≠ c) : (s.setCluster c v).cluster d = s.cluster d := by
  simp only [State.setCluster, State.cluster]
  exact SMap.get_set_other _ _ _ _ _ (fun e => h (Fin.ext e))
@[simp] theorem State.cluster_updCluster_same (c : Fin 32) (f : Cluster → Cluster) : (s.updCluster c f).cluster c = f (s.cluster c) :=
  State.cluster_setCluster_same s c _
theorem State.cluster_updCluster_other (c d : Fin 32) (f : Cluster → Cluster) (h : d ≠ c) : (s.updCluster c f).cluster d = s.cluster d :=
  State.cluster_setCluster_other s c d _ h
@[simp] theorem State.core_setCluster (c : Fin 32) (v : Cluster) (d : CoreId) : (s.setCluster c v).core d = s.core d := rfl
@[simp] theorem State.core_updCluster (c : Fin 32) (f : Cluster → Cluster) (d : CoreId) : (s.updCluster c f).core d = s.core d := rfl
@[simp] theorem State.part_setCluster (c : Fin 32) (v : Cluster) (d : Fin 12) : (s.setCluster c v).part d = s.part d := rfl
@[simp] theorem State.part_updCluster (c : Fin 32) (f : Cluster → Cluster) (d : Fin 12) : (s.updCluster c f).part d = s.part d := rfl
@[simp] theorem State.link_setCluster (c : Fin 32) (v : Cluster) (d : Fin 36) : (s.setCluster c v).link d = s.link d := rfl
@[simp] theorem State.link_updCluster (c : Fin 32) (f : Cluster → Cluster) (d : Fin 36) : (s.updCluster c f).link d = s.link d := rfl
@[simp] theorem State.fn_setCluster (c : Fin 32) (v : Cluster) (d : FnId) : (s.setCluster c v).fn d = s.fn d := rfl
@[simp] theorem State.fn_updCluster (c : Fin 32) (f : Cluster → Cluster) (d : FnId) : (s.updCluster c f).fn d = s.fn d := rfl
@[simp] theorem State.die_setCluster (c : Fin 32) (v : Cluster) (d : DieId) : (s.setCluster c v).die d = s.die d := rfl
@[simp] theorem State.die_updCluster (c : Fin 32) (f : Cluster → Cluster) (d : DieId) : (s.updCluster c f).die d = s.die d := rfl
@[simp] theorem State.chan_setCluster (c : Fin 32) (v : Cluster) (d : Fin 64) : (s.setCluster c v).chan d = s.chan d := rfl
@[simp] theorem State.chan_updCluster (c : Fin 32) (f : Cluster → Cluster) (d : Fin 64) : (s.updCluster c f).chan d = s.chan d := rfl
@[simp] theorem State.ldpcOf_setCluster (c : Fin 32) (v : Cluster) (d : Fin 16) : (s.setCluster c v).ldpcOf d = s.ldpcOf d := rfl
@[simp] theorem State.ldpcOf_updCluster (c : Fin 32) (f : Cluster → Cluster) (d : Fin 16) : (s.updCluster c f).ldpcOf d = s.ldpcOf d := rfl
@[simp] theorem State.port_setCluster (c : Fin 32) (v : Cluster) (d : Port) : (s.setCluster c v).port d = s.port d := rfl
@[simp] theorem State.port_updCluster (c : Fin 32) (f : Cluster → Cluster) (d : Port) : (s.updCluster c f).port d = s.port d := rfl
@[simp] theorem State.injectOf_setCluster (c : Fin 32) (v : Cluster) (d : Fin 3) : (s.setCluster c v).injectOf d = s.injectOf d := rfl
@[simp] theorem State.injectOf_updCluster (c : Fin 32) (f : Cluster → Cluster) (d : Fin 3) : (s.updCluster c f).injectOf d = s.injectOf d := rfl
@[simp] theorem State.pending_setCluster (c : Fin 32) (v : Cluster) : (s.setCluster c v).pending = s.pending := rfl
@[simp] theorem State.pending_updCluster (c : Fin 32) (f : Cluster → Cluster) : (s.updCluster c f).pending = s.pending := rfl
@[simp] theorem State.time_setCluster (c : Fin 32) (v : Cluster) : (s.setCluster c v).time = s.time := rfl
@[simp] theorem State.time_updCluster (c : Fin 32) (f : Cluster → Cluster) : (s.updCluster c f).time = s.time := rfl
@[simp] theorem State.cycle_setCluster (c : Fin 32) (v : Cluster) : (s.setCluster c v).cycle = s.cycle := rfl
@[simp] theorem State.cycle_updCluster (c : Fin 32) (f : Cluster → Cluster) : (s.updCluster c f).cycle = s.cycle := rfl
@[simp] theorem State.freeCtr_setCluster (c : Fin 32) (v : Cluster) : (s.setCluster c v).freeCtr = s.freeCtr := rfl
@[simp] theorem State.freeCtr_updCluster (c : Fin 32) (f : Cluster → Cluster) : (s.updCluster c f).freeCtr = s.freeCtr := rfl
@[simp] theorem State.variant_setCluster (c : Fin 32) (v : Cluster) : (s.setCluster c v).variant = s.variant := rfl
@[simp] theorem State.variant_updCluster (c : Fin 32) (f : Cluster → Cluster) : (s.updCluster c f).variant = s.variant := rfl
@[simp] theorem State.outbox_setCluster (c : Fin 32) (v : Cluster) : (s.setCluster c v).outbox = s.outbox := rfl
@[simp] theorem State.outbox_updCluster (c : Fin 32) (f : Cluster → Cluster) : (s.updCluster c f).outbox = s.outbox := rfl
@[simp] theorem State.mem_setCluster (c : Fin 32) (v : Cluster) : (s.setCluster c v).mem = s.mem := rfl
@[simp] theorem State.mem_updCluster (c : Fin 32) (f : Cluster → Cluster) : (s.updCluster c f).mem = s.mem := rfl
@[simp] theorem State.cfl_setCluster (c : Fin 32) (v : Cluster) : (s.setCluster c v).cfl = s.cfl := rfl
@[simp] theorem State.cfl_updCluster (c : Fin 32) (f : Cluster → Cluster) : (s.updCluster c f).cfl = s.cfl := rfl
@[simp] theorem State.tags_setCluster (c : Fin 32) (v : Cluster) : (s.setCluster c v).tags = s.tags := rfl
@[simp] theorem State.tags_updCluster (c : Fin 32) (f : Cluster → Cluster) : (s.updCluster c f).tags = s.tags := rfl
@[simp] theorem State.flips_setCluster (c : Fin 32) (v : Cluster) : (s.setCluster c v).flips = s.flips := rfl
@[simp] theorem State.flips_updCluster (c : Fin 32) (f : Cluster → Cluster) : (s.updCluster c f).flips = s.flips := rfl
@[simp] theorem State.nougat_setCluster (c : Fin 32) (v : Cluster) : (s.setCluster c v).nougat = s.nougat := rfl
@[simp] theorem State.nougat_updCluster (c : Fin 32) (f : Cluster → Cluster) : (s.updCluster c f).nougat = s.nougat := rfl
@[simp] theorem State.nss_setCluster (c : Fin 32) (v : Cluster) : (s.setCluster c v).nss = s.nss := rfl
@[simp] theorem State.nss_updCluster (c : Fin 32) (f : Cluster → Cluster) : (s.updCluster c f).nss = s.nss := rfl
@[simp] theorem State.nsMap_setCluster (c : Fin 32) (v : Cluster) : (s.setCluster c v).nsMap = s.nsMap := rfl
@[simp] theorem State.nsMap_updCluster (c : Fin 32) (f : Cluster → Cluster) : (s.updCluster c f).nsMap = s.nsMap := rfl
@[simp] theorem State.mgmt_setCluster (c : Fin 32) (v : Cluster) : (s.setCluster c v).mgmt = s.mgmt := rfl
@[simp] theorem State.mgmt_updCluster (c : Fin 32) (f : Cluster → Cluster) : (s.updCluster c f).mgmt = s.mgmt := rfl
@[simp] theorem State.pow_setCluster (c : Fin 32) (v : Cluster) : (s.setCluster c v).pow = s.pow := rfl
@[simp] theorem State.pow_updCluster (c : Fin 32) (f : Cluster → Cluster) : (s.updCluster c f).pow = s.pow := rfl
@[simp] theorem State.sec_setCluster (c : Fin 32) (v : Cluster) : (s.setCluster c v).sec = s.sec := rfl
@[simp] theorem State.sec_updCluster (c : Fin 32) (f : Cluster → Cluster) : (s.updCluster c f).sec = s.sec := rfl
@[simp] theorem State.fab_setCluster (c : Fin 32) (v : Cluster) : (s.setCluster c v).fab = s.fab := rfl
@[simp] theorem State.fab_updCluster (c : Fin 32) (f : Cluster → Cluster) : (s.updCluster c f).fab = s.fab := rfl
@[simp] theorem State.arb_setCluster (c : Fin 32) (v : Cluster) : (s.setCluster c v).arb = s.arb := rfl
@[simp] theorem State.arb_updCluster (c : Fin 32) (f : Cluster → Cluster) : (s.updCluster c f).arb = s.arb := rfl
@[simp] theorem State.san_setCluster (c : Fin 32) (v : Cluster) : (s.setCluster c v).san = s.san := rfl
@[simp] theorem State.san_updCluster (c : Fin 32) (f : Cluster → Cluster) : (s.updCluster c f).san = s.san := rfl
@[simp] theorem State.modLog_setCluster (c : Fin 32) (v : Cluster) : (s.setCluster c v).modLog = s.modLog := rfl
@[simp] theorem State.modLog_updCluster (c : Fin 32) (f : Cluster → Cluster) : (s.updCluster c f).modLog = s.modLog := rfl
@[simp] theorem State.setAt_updCluster (c : Fin 32) (f : Cluster → Cluster) : (s.updCluster c f).setAt = s.setAt := rfl
@[simp] theorem State.buffer_updCluster (c : Fin 32) (f : Cluster → Cluster) : (s.updCluster c f).buffer = s.buffer := rfl
@[simp] theorem State.cwords_updCluster (c : Fin 32) (f : Cluster → Cluster) : (s.updCluster c f).cwords = s.cwords := rfl
@[simp] theorem State.rootRecs_updCluster (c : Fin 32) (f : Cluster → Cluster) : (s.updCluster c f).rootRecs = s.rootRecs := rfl
@[simp] theorem State.locks_updCluster (c : Fin 32) (f : Cluster → Cluster) : (s.updCluster c f).locks = s.locks := rfl
@[simp] theorem State.heldCmds_updCluster (c : Fin 32) (f : Cluster → Cluster) : (s.updCluster c f).heldCmds = s.heldCmds := rfl

/-! ### parts -/

@[simp] theorem State.part_setPart_same (c : Fin 12) (v : Partition) : (s.setPart c v).part c = v := by
  simp [State.setPart, State.part]
theorem State.part_setPart_other (c d : Fin 12) (v : Partition) (h : d ≠ c) : (s.setPart c v).part d = s.part d := by
  simp only [State.setPart, State.part]
  exact SMap.get_set_other _ _ _ _ _ (fun e => h (Fin.ext e))
@[simp] theorem State.part_updPart_same (c : Fin 12) (f : Partition → Partition) : (s.updPart c f).part c = f (s.part c) :=
  State.part_setPart_same s c _
theorem State.part_updPart_other (c d : Fin 12) (f : Partition → Partition) (h : d ≠ c) : (s.updPart c f).part d = s.part d :=
  State.part_setPart_other s c d _ h
@[simp] theorem State.core_setPart (c : Fin 12) (v : Partition) (d : CoreId) : (s.setPart c v).core d = s.core d := rfl
@[simp] theorem State.core_updPart (c : Fin 12) (f : Partition → Partition) (d : CoreId) : (s.updPart c f).core d = s.core d := rfl
@[simp] theorem State.cluster_setPart (c : Fin 12) (v : Partition) (d : Fin 32) : (s.setPart c v).cluster d = s.cluster d := rfl
@[simp] theorem State.cluster_updPart (c : Fin 12) (f : Partition → Partition) (d : Fin 32) : (s.updPart c f).cluster d = s.cluster d := rfl
@[simp] theorem State.link_setPart (c : Fin 12) (v : Partition) (d : Fin 36) : (s.setPart c v).link d = s.link d := rfl
@[simp] theorem State.link_updPart (c : Fin 12) (f : Partition → Partition) (d : Fin 36) : (s.updPart c f).link d = s.link d := rfl
@[simp] theorem State.fn_setPart (c : Fin 12) (v : Partition) (d : FnId) : (s.setPart c v).fn d = s.fn d := rfl
@[simp] theorem State.fn_updPart (c : Fin 12) (f : Partition → Partition) (d : FnId) : (s.updPart c f).fn d = s.fn d := rfl
@[simp] theorem State.die_setPart (c : Fin 12) (v : Partition) (d : DieId) : (s.setPart c v).die d = s.die d := rfl
@[simp] theorem State.die_updPart (c : Fin 12) (f : Partition → Partition) (d : DieId) : (s.updPart c f).die d = s.die d := rfl
@[simp] theorem State.chan_setPart (c : Fin 12) (v : Partition) (d : Fin 64) : (s.setPart c v).chan d = s.chan d := rfl
@[simp] theorem State.chan_updPart (c : Fin 12) (f : Partition → Partition) (d : Fin 64) : (s.updPart c f).chan d = s.chan d := rfl
@[simp] theorem State.ldpcOf_setPart (c : Fin 12) (v : Partition) (d : Fin 16) : (s.setPart c v).ldpcOf d = s.ldpcOf d := rfl
@[simp] theorem State.ldpcOf_updPart (c : Fin 12) (f : Partition → Partition) (d : Fin 16) : (s.updPart c f).ldpcOf d = s.ldpcOf d := rfl
@[simp] theorem State.port_setPart (c : Fin 12) (v : Partition) (d : Port) : (s.setPart c v).port d = s.port d := rfl
@[simp] theorem State.port_updPart (c : Fin 12) (f : Partition → Partition) (d : Port) : (s.updPart c f).port d = s.port d := rfl
@[simp] theorem State.injectOf_setPart (c : Fin 12) (v : Partition) (d : Fin 3) : (s.setPart c v).injectOf d = s.injectOf d := rfl
@[simp] theorem State.injectOf_updPart (c : Fin 12) (f : Partition → Partition) (d : Fin 3) : (s.updPart c f).injectOf d = s.injectOf d := rfl
@[simp] theorem State.pending_setPart (c : Fin 12) (v : Partition) : (s.setPart c v).pending = s.pending := rfl
@[simp] theorem State.pending_updPart (c : Fin 12) (f : Partition → Partition) : (s.updPart c f).pending = s.pending := rfl
@[simp] theorem State.time_setPart (c : Fin 12) (v : Partition) : (s.setPart c v).time = s.time := rfl
@[simp] theorem State.time_updPart (c : Fin 12) (f : Partition → Partition) : (s.updPart c f).time = s.time := rfl
@[simp] theorem State.cycle_setPart (c : Fin 12) (v : Partition) : (s.setPart c v).cycle = s.cycle := rfl
@[simp] theorem State.cycle_updPart (c : Fin 12) (f : Partition → Partition) : (s.updPart c f).cycle = s.cycle := rfl
@[simp] theorem State.freeCtr_setPart (c : Fin 12) (v : Partition) : (s.setPart c v).freeCtr = s.freeCtr := rfl
@[simp] theorem State.freeCtr_updPart (c : Fin 12) (f : Partition → Partition) : (s.updPart c f).freeCtr = s.freeCtr := rfl
@[simp] theorem State.variant_setPart (c : Fin 12) (v : Partition) : (s.setPart c v).variant = s.variant := rfl
@[simp] theorem State.variant_updPart (c : Fin 12) (f : Partition → Partition) : (s.updPart c f).variant = s.variant := rfl
@[simp] theorem State.outbox_setPart (c : Fin 12) (v : Partition) : (s.setPart c v).outbox = s.outbox := rfl
@[simp] theorem State.outbox_updPart (c : Fin 12) (f : Partition → Partition) : (s.updPart c f).outbox = s.outbox := rfl
@[simp] theorem State.mem_setPart (c : Fin 12) (v : Partition) : (s.setPart c v).mem = s.mem := rfl
@[simp] theorem State.mem_updPart (c : Fin 12) (f : Partition → Partition) : (s.updPart c f).mem = s.mem := rfl
@[simp] theorem State.cfl_setPart (c : Fin 12) (v : Partition) : (s.setPart c v).cfl = s.cfl := rfl
@[simp] theorem State.cfl_updPart (c : Fin 12) (f : Partition → Partition) : (s.updPart c f).cfl = s.cfl := rfl
@[simp] theorem State.tags_setPart (c : Fin 12) (v : Partition) : (s.setPart c v).tags = s.tags := rfl
@[simp] theorem State.tags_updPart (c : Fin 12) (f : Partition → Partition) : (s.updPart c f).tags = s.tags := rfl
@[simp] theorem State.flips_setPart (c : Fin 12) (v : Partition) : (s.setPart c v).flips = s.flips := rfl
@[simp] theorem State.flips_updPart (c : Fin 12) (f : Partition → Partition) : (s.updPart c f).flips = s.flips := rfl
@[simp] theorem State.nougat_setPart (c : Fin 12) (v : Partition) : (s.setPart c v).nougat = s.nougat := rfl
@[simp] theorem State.nougat_updPart (c : Fin 12) (f : Partition → Partition) : (s.updPart c f).nougat = s.nougat := rfl
@[simp] theorem State.nss_setPart (c : Fin 12) (v : Partition) : (s.setPart c v).nss = s.nss := rfl
@[simp] theorem State.nss_updPart (c : Fin 12) (f : Partition → Partition) : (s.updPart c f).nss = s.nss := rfl
@[simp] theorem State.nsMap_setPart (c : Fin 12) (v : Partition) : (s.setPart c v).nsMap = s.nsMap := rfl
@[simp] theorem State.nsMap_updPart (c : Fin 12) (f : Partition → Partition) : (s.updPart c f).nsMap = s.nsMap := rfl
@[simp] theorem State.mgmt_setPart (c : Fin 12) (v : Partition) : (s.setPart c v).mgmt = s.mgmt := rfl
@[simp] theorem State.mgmt_updPart (c : Fin 12) (f : Partition → Partition) : (s.updPart c f).mgmt = s.mgmt := rfl
@[simp] theorem State.pow_setPart (c : Fin 12) (v : Partition) : (s.setPart c v).pow = s.pow := rfl
@[simp] theorem State.pow_updPart (c : Fin 12) (f : Partition → Partition) : (s.updPart c f).pow = s.pow := rfl
@[simp] theorem State.sec_setPart (c : Fin 12) (v : Partition) : (s.setPart c v).sec = s.sec := rfl
@[simp] theorem State.sec_updPart (c : Fin 12) (f : Partition → Partition) : (s.updPart c f).sec = s.sec := rfl
@[simp] theorem State.fab_setPart (c : Fin 12) (v : Partition) : (s.setPart c v).fab = s.fab := rfl
@[simp] theorem State.fab_updPart (c : Fin 12) (f : Partition → Partition) : (s.updPart c f).fab = s.fab := rfl
@[simp] theorem State.arb_setPart (c : Fin 12) (v : Partition) : (s.setPart c v).arb = s.arb := rfl
@[simp] theorem State.arb_updPart (c : Fin 12) (f : Partition → Partition) : (s.updPart c f).arb = s.arb := rfl
@[simp] theorem State.san_setPart (c : Fin 12) (v : Partition) : (s.setPart c v).san = s.san := rfl
@[simp] theorem State.san_updPart (c : Fin 12) (f : Partition → Partition) : (s.updPart c f).san = s.san := rfl
@[simp] theorem State.modLog_setPart (c : Fin 12) (v : Partition) : (s.setPart c v).modLog = s.modLog := rfl
@[simp] theorem State.modLog_updPart (c : Fin 12) (f : Partition → Partition) : (s.updPart c f).modLog = s.modLog := rfl
@[simp] theorem State.setAt_updPart (c : Fin 12) (f : Partition → Partition) : (s.updPart c f).setAt = s.setAt := rfl
@[simp] theorem State.buffer_updPart (c : Fin 12) (f : Partition → Partition) : (s.updPart c f).buffer = s.buffer := rfl
@[simp] theorem State.cwords_updPart (c : Fin 12) (f : Partition → Partition) : (s.updPart c f).cwords = s.cwords := rfl
@[simp] theorem State.rootRecs_updPart (c : Fin 12) (f : Partition → Partition) : (s.updPart c f).rootRecs = s.rootRecs := rfl
@[simp] theorem State.locks_updPart (c : Fin 12) (f : Partition → Partition) : (s.updPart c f).locks = s.locks := rfl
@[simp] theorem State.heldCmds_updPart (c : Fin 12) (f : Partition → Partition) : (s.updPart c f).heldCmds = s.heldCmds := rfl

/-! ### links -/

@[simp] theorem State.link_setLink_same (c : Fin 36) (v : Link) : (s.setLink c v).link c = v := by
  simp [State.setLink, State.link]
theorem State.link_setLink_other (c d : Fin 36) (v : Link) (h : d ≠ c) : (s.setLink c v).link d = s.link d := by
  simp only [State.setLink, State.link]
  exact SMap.get_set_other _ _ _ _ _ (fun e => h (Fin.ext e))
@[simp] theorem State.link_updLink_same (c : Fin 36) (f : Link → Link) : (s.updLink c f).link c = f (s.link c) :=
  State.link_setLink_same s c _
theorem State.link_updLink_other (c d : Fin 36) (f : Link → Link) (h : d ≠ c) : (s.updLink c f).link d = s.link d :=
  State.link_setLink_other s c d _ h
@[simp] theorem State.core_setLink (c : Fin 36) (v : Link) (d : CoreId) : (s.setLink c v).core d = s.core d := rfl
@[simp] theorem State.core_updLink (c : Fin 36) (f : Link → Link) (d : CoreId) : (s.updLink c f).core d = s.core d := rfl
@[simp] theorem State.cluster_setLink (c : Fin 36) (v : Link) (d : Fin 32) : (s.setLink c v).cluster d = s.cluster d := rfl
@[simp] theorem State.cluster_updLink (c : Fin 36) (f : Link → Link) (d : Fin 32) : (s.updLink c f).cluster d = s.cluster d := rfl
@[simp] theorem State.part_setLink (c : Fin 36) (v : Link) (d : Fin 12) : (s.setLink c v).part d = s.part d := rfl
@[simp] theorem State.part_updLink (c : Fin 36) (f : Link → Link) (d : Fin 12) : (s.updLink c f).part d = s.part d := rfl
@[simp] theorem State.fn_setLink (c : Fin 36) (v : Link) (d : FnId) : (s.setLink c v).fn d = s.fn d := rfl
@[simp] theorem State.fn_updLink (c : Fin 36) (f : Link → Link) (d : FnId) : (s.updLink c f).fn d = s.fn d := rfl
@[simp] theorem State.die_setLink (c : Fin 36) (v : Link) (d : DieId) : (s.setLink c v).die d = s.die d := rfl
@[simp] theorem State.die_updLink (c : Fin 36) (f : Link → Link) (d : DieId) : (s.updLink c f).die d = s.die d := rfl
@[simp] theorem State.chan_setLink (c : Fin 36) (v : Link) (d : Fin 64) : (s.setLink c v).chan d = s.chan d := rfl
@[simp] theorem State.chan_updLink (c : Fin 36) (f : Link → Link) (d : Fin 64) : (s.updLink c f).chan d = s.chan d := rfl
@[simp] theorem State.ldpcOf_setLink (c : Fin 36) (v : Link) (d : Fin 16) : (s.setLink c v).ldpcOf d = s.ldpcOf d := rfl
@[simp] theorem State.ldpcOf_updLink (c : Fin 36) (f : Link → Link) (d : Fin 16) : (s.updLink c f).ldpcOf d = s.ldpcOf d := rfl
@[simp] theorem State.port_setLink (c : Fin 36) (v : Link) (d : Port) : (s.setLink c v).port d = s.port d := rfl
@[simp] theorem State.port_updLink (c : Fin 36) (f : Link → Link) (d : Port) : (s.updLink c f).port d = s.port d := rfl
@[simp] theorem State.injectOf_setLink (c : Fin 36) (v : Link) (d : Fin 3) : (s.setLink c v).injectOf d = s.injectOf d := rfl
@[simp] theorem State.injectOf_updLink (c : Fin 36) (f : Link → Link) (d : Fin 3) : (s.updLink c f).injectOf d = s.injectOf d := rfl
@[simp] theorem State.pending_setLink (c : Fin 36) (v : Link) : (s.setLink c v).pending = s.pending := rfl
@[simp] theorem State.pending_updLink (c : Fin 36) (f : Link → Link) : (s.updLink c f).pending = s.pending := rfl
@[simp] theorem State.time_setLink (c : Fin 36) (v : Link) : (s.setLink c v).time = s.time := rfl
@[simp] theorem State.time_updLink (c : Fin 36) (f : Link → Link) : (s.updLink c f).time = s.time := rfl
@[simp] theorem State.cycle_setLink (c : Fin 36) (v : Link) : (s.setLink c v).cycle = s.cycle := rfl
@[simp] theorem State.cycle_updLink (c : Fin 36) (f : Link → Link) : (s.updLink c f).cycle = s.cycle := rfl
@[simp] theorem State.freeCtr_setLink (c : Fin 36) (v : Link) : (s.setLink c v).freeCtr = s.freeCtr := rfl
@[simp] theorem State.freeCtr_updLink (c : Fin 36) (f : Link → Link) : (s.updLink c f).freeCtr = s.freeCtr := rfl
@[simp] theorem State.variant_setLink (c : Fin 36) (v : Link) : (s.setLink c v).variant = s.variant := rfl
@[simp] theorem State.variant_updLink (c : Fin 36) (f : Link → Link) : (s.updLink c f).variant = s.variant := rfl
@[simp] theorem State.outbox_setLink (c : Fin 36) (v : Link) : (s.setLink c v).outbox = s.outbox := rfl
@[simp] theorem State.outbox_updLink (c : Fin 36) (f : Link → Link) : (s.updLink c f).outbox = s.outbox := rfl
@[simp] theorem State.mem_setLink (c : Fin 36) (v : Link) : (s.setLink c v).mem = s.mem := rfl
@[simp] theorem State.mem_updLink (c : Fin 36) (f : Link → Link) : (s.updLink c f).mem = s.mem := rfl
@[simp] theorem State.cfl_setLink (c : Fin 36) (v : Link) : (s.setLink c v).cfl = s.cfl := rfl
@[simp] theorem State.cfl_updLink (c : Fin 36) (f : Link → Link) : (s.updLink c f).cfl = s.cfl := rfl
@[simp] theorem State.tags_setLink (c : Fin 36) (v : Link) : (s.setLink c v).tags = s.tags := rfl
@[simp] theorem State.tags_updLink (c : Fin 36) (f : Link → Link) : (s.updLink c f).tags = s.tags := rfl
@[simp] theorem State.flips_setLink (c : Fin 36) (v : Link) : (s.setLink c v).flips = s.flips := rfl
@[simp] theorem State.flips_updLink (c : Fin 36) (f : Link → Link) : (s.updLink c f).flips = s.flips := rfl
@[simp] theorem State.nougat_setLink (c : Fin 36) (v : Link) : (s.setLink c v).nougat = s.nougat := rfl
@[simp] theorem State.nougat_updLink (c : Fin 36) (f : Link → Link) : (s.updLink c f).nougat = s.nougat := rfl
@[simp] theorem State.nss_setLink (c : Fin 36) (v : Link) : (s.setLink c v).nss = s.nss := rfl
@[simp] theorem State.nss_updLink (c : Fin 36) (f : Link → Link) : (s.updLink c f).nss = s.nss := rfl
@[simp] theorem State.nsMap_setLink (c : Fin 36) (v : Link) : (s.setLink c v).nsMap = s.nsMap := rfl
@[simp] theorem State.nsMap_updLink (c : Fin 36) (f : Link → Link) : (s.updLink c f).nsMap = s.nsMap := rfl
@[simp] theorem State.mgmt_setLink (c : Fin 36) (v : Link) : (s.setLink c v).mgmt = s.mgmt := rfl
@[simp] theorem State.mgmt_updLink (c : Fin 36) (f : Link → Link) : (s.updLink c f).mgmt = s.mgmt := rfl
@[simp] theorem State.pow_setLink (c : Fin 36) (v : Link) : (s.setLink c v).pow = s.pow := rfl
@[simp] theorem State.pow_updLink (c : Fin 36) (f : Link → Link) : (s.updLink c f).pow = s.pow := rfl
@[simp] theorem State.sec_setLink (c : Fin 36) (v : Link) : (s.setLink c v).sec = s.sec := rfl
@[simp] theorem State.sec_updLink (c : Fin 36) (f : Link → Link) : (s.updLink c f).sec = s.sec := rfl
@[simp] theorem State.fab_setLink (c : Fin 36) (v : Link) : (s.setLink c v).fab = s.fab := rfl
@[simp] theorem State.fab_updLink (c : Fin 36) (f : Link → Link) : (s.updLink c f).fab = s.fab := rfl
@[simp] theorem State.arb_setLink (c : Fin 36) (v : Link) : (s.setLink c v).arb = s.arb := rfl
@[simp] theorem State.arb_updLink (c : Fin 36) (f : Link → Link) : (s.updLink c f).arb = s.arb := rfl
@[simp] theorem State.san_setLink (c : Fin 36) (v : Link) : (s.setLink c v).san = s.san := rfl
@[simp] theorem State.san_updLink (c : Fin 36) (f : Link → Link) : (s.updLink c f).san = s.san := rfl
@[simp] theorem State.modLog_setLink (c : Fin 36) (v : Link) : (s.setLink c v).modLog = s.modLog := rfl
@[simp] theorem State.modLog_updLink (c : Fin 36) (f : Link → Link) : (s.updLink c f).modLog = s.modLog := rfl
@[simp] theorem State.setAt_updLink (c : Fin 36) (f : Link → Link) : (s.updLink c f).setAt = s.setAt := rfl
@[simp] theorem State.buffer_updLink (c : Fin 36) (f : Link → Link) : (s.updLink c f).buffer = s.buffer := rfl
@[simp] theorem State.cwords_updLink (c : Fin 36) (f : Link → Link) : (s.updLink c f).cwords = s.cwords := rfl
@[simp] theorem State.rootRecs_updLink (c : Fin 36) (f : Link → Link) : (s.updLink c f).rootRecs = s.rootRecs := rfl
@[simp] theorem State.locks_updLink (c : Fin 36) (f : Link → Link) : (s.updLink c f).locks = s.locks := rfl
@[simp] theorem State.heldCmds_updLink (c : Fin 36) (f : Link → Link) : (s.updLink c f).heldCmds = s.heldCmds := rfl

/-! ### fns -/

@[simp] theorem State.fn_setFn_same (c : FnId) (v : Fn) : (s.setFn c v).fn c = v := by
  simp [State.setFn, State.fn]
theorem State.fn_setFn_other (c d : FnId) (v : Fn) (h : d ≠ c) : (s.setFn c v).fn d = s.fn d := by
  simp only [State.setFn, State.fn]
  exact SMap.get_set_other _ _ _ _ _ (fun e => h (FnId.key_inj e))
@[simp] theorem State.fn_updFn_same (c : FnId) (f : Fn → Fn) : (s.updFn c f).fn c = f (s.fn c) :=
  State.fn_setFn_same s c _
theorem State.fn_updFn_other (c d : FnId) (f : Fn → Fn) (h : d ≠ c) : (s.updFn c f).fn d = s.fn d :=
  State.fn_setFn_other s c d _ h
@[simp] theorem State.core_setFn (c : FnId) (v : Fn) (d : CoreId) : (s.setFn c v).core d = s.core d := rfl
@[simp] theorem State.core_updFn (c : FnId) (f : Fn → Fn) (d : CoreId) : (s.updFn c f).core d = s.core d := rfl
@[simp] theorem State.cluster_setFn (c : FnId) (v : Fn) (d : Fin 32) : (s.setFn c v).cluster d = s.cluster d := rfl
@[simp] theorem State.cluster_updFn (c : FnId) (f : Fn → Fn) (d : Fin 32) : (s.updFn c f).cluster d = s.cluster d := rfl
@[simp] theorem State.part_setFn (c : FnId) (v : Fn) (d : Fin 12) : (s.setFn c v).part d = s.part d := rfl
@[simp] theorem State.part_updFn (c : FnId) (f : Fn → Fn) (d : Fin 12) : (s.updFn c f).part d = s.part d := rfl
@[simp] theorem State.link_setFn (c : FnId) (v : Fn) (d : Fin 36) : (s.setFn c v).link d = s.link d := rfl
@[simp] theorem State.link_updFn (c : FnId) (f : Fn → Fn) (d : Fin 36) : (s.updFn c f).link d = s.link d := rfl
@[simp] theorem State.die_setFn (c : FnId) (v : Fn) (d : DieId) : (s.setFn c v).die d = s.die d := rfl
@[simp] theorem State.die_updFn (c : FnId) (f : Fn → Fn) (d : DieId) : (s.updFn c f).die d = s.die d := rfl
@[simp] theorem State.chan_setFn (c : FnId) (v : Fn) (d : Fin 64) : (s.setFn c v).chan d = s.chan d := rfl
@[simp] theorem State.chan_updFn (c : FnId) (f : Fn → Fn) (d : Fin 64) : (s.updFn c f).chan d = s.chan d := rfl
@[simp] theorem State.ldpcOf_setFn (c : FnId) (v : Fn) (d : Fin 16) : (s.setFn c v).ldpcOf d = s.ldpcOf d := rfl
@[simp] theorem State.ldpcOf_updFn (c : FnId) (f : Fn → Fn) (d : Fin 16) : (s.updFn c f).ldpcOf d = s.ldpcOf d := rfl
@[simp] theorem State.port_setFn (c : FnId) (v : Fn) (d : Port) : (s.setFn c v).port d = s.port d := rfl
@[simp] theorem State.port_updFn (c : FnId) (f : Fn → Fn) (d : Port) : (s.updFn c f).port d = s.port d := rfl
@[simp] theorem State.injectOf_setFn (c : FnId) (v : Fn) (d : Fin 3) : (s.setFn c v).injectOf d = s.injectOf d := rfl
@[simp] theorem State.injectOf_updFn (c : FnId) (f : Fn → Fn) (d : Fin 3) : (s.updFn c f).injectOf d = s.injectOf d := rfl
@[simp] theorem State.pending_setFn (c : FnId) (v : Fn) : (s.setFn c v).pending = s.pending := rfl
@[simp] theorem State.pending_updFn (c : FnId) (f : Fn → Fn) : (s.updFn c f).pending = s.pending := rfl
@[simp] theorem State.time_setFn (c : FnId) (v : Fn) : (s.setFn c v).time = s.time := rfl
@[simp] theorem State.time_updFn (c : FnId) (f : Fn → Fn) : (s.updFn c f).time = s.time := rfl
@[simp] theorem State.cycle_setFn (c : FnId) (v : Fn) : (s.setFn c v).cycle = s.cycle := rfl
@[simp] theorem State.cycle_updFn (c : FnId) (f : Fn → Fn) : (s.updFn c f).cycle = s.cycle := rfl
@[simp] theorem State.freeCtr_setFn (c : FnId) (v : Fn) : (s.setFn c v).freeCtr = s.freeCtr := rfl
@[simp] theorem State.freeCtr_updFn (c : FnId) (f : Fn → Fn) : (s.updFn c f).freeCtr = s.freeCtr := rfl
@[simp] theorem State.variant_setFn (c : FnId) (v : Fn) : (s.setFn c v).variant = s.variant := rfl
@[simp] theorem State.variant_updFn (c : FnId) (f : Fn → Fn) : (s.updFn c f).variant = s.variant := rfl
@[simp] theorem State.outbox_setFn (c : FnId) (v : Fn) : (s.setFn c v).outbox = s.outbox := rfl
@[simp] theorem State.outbox_updFn (c : FnId) (f : Fn → Fn) : (s.updFn c f).outbox = s.outbox := rfl
@[simp] theorem State.mem_setFn (c : FnId) (v : Fn) : (s.setFn c v).mem = s.mem := rfl
@[simp] theorem State.mem_updFn (c : FnId) (f : Fn → Fn) : (s.updFn c f).mem = s.mem := rfl
@[simp] theorem State.cfl_setFn (c : FnId) (v : Fn) : (s.setFn c v).cfl = s.cfl := rfl
@[simp] theorem State.cfl_updFn (c : FnId) (f : Fn → Fn) : (s.updFn c f).cfl = s.cfl := rfl
@[simp] theorem State.tags_setFn (c : FnId) (v : Fn) : (s.setFn c v).tags = s.tags := rfl
@[simp] theorem State.tags_updFn (c : FnId) (f : Fn → Fn) : (s.updFn c f).tags = s.tags := rfl
@[simp] theorem State.flips_setFn (c : FnId) (v : Fn) : (s.setFn c v).flips = s.flips := rfl
@[simp] theorem State.flips_updFn (c : FnId) (f : Fn → Fn) : (s.updFn c f).flips = s.flips := rfl
@[simp] theorem State.nougat_setFn (c : FnId) (v : Fn) : (s.setFn c v).nougat = s.nougat := rfl
@[simp] theorem State.nougat_updFn (c : FnId) (f : Fn → Fn) : (s.updFn c f).nougat = s.nougat := rfl
@[simp] theorem State.nss_setFn (c : FnId) (v : Fn) : (s.setFn c v).nss = s.nss := rfl
@[simp] theorem State.nss_updFn (c : FnId) (f : Fn → Fn) : (s.updFn c f).nss = s.nss := rfl
@[simp] theorem State.nsMap_setFn (c : FnId) (v : Fn) : (s.setFn c v).nsMap = s.nsMap := rfl
@[simp] theorem State.nsMap_updFn (c : FnId) (f : Fn → Fn) : (s.updFn c f).nsMap = s.nsMap := rfl
@[simp] theorem State.mgmt_setFn (c : FnId) (v : Fn) : (s.setFn c v).mgmt = s.mgmt := rfl
@[simp] theorem State.mgmt_updFn (c : FnId) (f : Fn → Fn) : (s.updFn c f).mgmt = s.mgmt := rfl
@[simp] theorem State.pow_setFn (c : FnId) (v : Fn) : (s.setFn c v).pow = s.pow := rfl
@[simp] theorem State.pow_updFn (c : FnId) (f : Fn → Fn) : (s.updFn c f).pow = s.pow := rfl
@[simp] theorem State.sec_setFn (c : FnId) (v : Fn) : (s.setFn c v).sec = s.sec := rfl
@[simp] theorem State.sec_updFn (c : FnId) (f : Fn → Fn) : (s.updFn c f).sec = s.sec := rfl
@[simp] theorem State.fab_setFn (c : FnId) (v : Fn) : (s.setFn c v).fab = s.fab := rfl
@[simp] theorem State.fab_updFn (c : FnId) (f : Fn → Fn) : (s.updFn c f).fab = s.fab := rfl
@[simp] theorem State.arb_setFn (c : FnId) (v : Fn) : (s.setFn c v).arb = s.arb := rfl
@[simp] theorem State.arb_updFn (c : FnId) (f : Fn → Fn) : (s.updFn c f).arb = s.arb := rfl
@[simp] theorem State.san_setFn (c : FnId) (v : Fn) : (s.setFn c v).san = s.san := rfl
@[simp] theorem State.san_updFn (c : FnId) (f : Fn → Fn) : (s.updFn c f).san = s.san := rfl
@[simp] theorem State.modLog_setFn (c : FnId) (v : Fn) : (s.setFn c v).modLog = s.modLog := rfl
@[simp] theorem State.modLog_updFn (c : FnId) (f : Fn → Fn) : (s.updFn c f).modLog = s.modLog := rfl
@[simp] theorem State.setAt_updFn (c : FnId) (f : Fn → Fn) : (s.updFn c f).setAt = s.setAt := rfl
@[simp] theorem State.buffer_updFn (c : FnId) (f : Fn → Fn) : (s.updFn c f).buffer = s.buffer := rfl
@[simp] theorem State.cwords_updFn (c : FnId) (f : Fn → Fn) : (s.updFn c f).cwords = s.cwords := rfl
@[simp] theorem State.rootRecs_updFn (c : FnId) (f : Fn → Fn) : (s.updFn c f).rootRecs = s.rootRecs := rfl
@[simp] theorem State.locks_updFn (c : FnId) (f : Fn → Fn) : (s.updFn c f).locks = s.locks := rfl
@[simp] theorem State.heldCmds_updFn (c : FnId) (f : Fn → Fn) : (s.updFn c f).heldCmds = s.heldCmds := rfl

/-! ### dies -/

@[simp] theorem State.die_setDie_same (c : DieId) (v : Die) : (s.setDie c v).die c = v := by
  simp [State.setDie, State.die]
theorem State.die_setDie_other (c d : DieId) (v : Die) (h : d ≠ c) : (s.setDie c v).die d = s.die d := by
  simp only [State.setDie, State.die]
  exact SMap.get_set_other _ _ _ _ _ (fun e => h (DieId.key_inj e))
@[simp] theorem State.die_updDie_same (c : DieId) (f : Die → Die) : (s.updDie c f).die c = f (s.die c) :=
  State.die_setDie_same s c _
theorem State.die_updDie_other (c d : DieId) (f : Die → Die) (h : d ≠ c) : (s.updDie c f).die d = s.die d :=
  State.die_setDie_other s c d _ h
@[simp] theorem State.core_setDie (c : DieId) (v : Die) (d : CoreId) : (s.setDie c v).core d = s.core d := rfl
@[simp] theorem State.core_updDie (c : DieId) (f : Die → Die) (d : CoreId) : (s.updDie c f).core d = s.core d := rfl
@[simp] theorem State.cluster_setDie (c : DieId) (v : Die) (d : Fin 32) : (s.setDie c v).cluster d = s.cluster d := rfl
@[simp] theorem State.cluster_updDie (c : DieId) (f : Die → Die) (d : Fin 32) : (s.updDie c f).cluster d = s.cluster d := rfl
@[simp] theorem State.part_setDie (c : DieId) (v : Die) (d : Fin 12) : (s.setDie c v).part d = s.part d := rfl
@[simp] theorem State.part_updDie (c : DieId) (f : Die → Die) (d : Fin 12) : (s.updDie c f).part d = s.part d := rfl
@[simp] theorem State.link_setDie (c : DieId) (v : Die) (d : Fin 36) : (s.setDie c v).link d = s.link d := rfl
@[simp] theorem State.link_updDie (c : DieId) (f : Die → Die) (d : Fin 36) : (s.updDie c f).link d = s.link d := rfl
@[simp] theorem State.fn_setDie (c : DieId) (v : Die) (d : FnId) : (s.setDie c v).fn d = s.fn d := rfl
@[simp] theorem State.fn_updDie (c : DieId) (f : Die → Die) (d : FnId) : (s.updDie c f).fn d = s.fn d := rfl
@[simp] theorem State.chan_setDie (c : DieId) (v : Die) (d : Fin 64) : (s.setDie c v).chan d = s.chan d := rfl
@[simp] theorem State.chan_updDie (c : DieId) (f : Die → Die) (d : Fin 64) : (s.updDie c f).chan d = s.chan d := rfl
@[simp] theorem State.ldpcOf_setDie (c : DieId) (v : Die) (d : Fin 16) : (s.setDie c v).ldpcOf d = s.ldpcOf d := rfl
@[simp] theorem State.ldpcOf_updDie (c : DieId) (f : Die → Die) (d : Fin 16) : (s.updDie c f).ldpcOf d = s.ldpcOf d := rfl
@[simp] theorem State.port_setDie (c : DieId) (v : Die) (d : Port) : (s.setDie c v).port d = s.port d := rfl
@[simp] theorem State.port_updDie (c : DieId) (f : Die → Die) (d : Port) : (s.updDie c f).port d = s.port d := rfl
@[simp] theorem State.injectOf_setDie (c : DieId) (v : Die) (d : Fin 3) : (s.setDie c v).injectOf d = s.injectOf d := rfl
@[simp] theorem State.injectOf_updDie (c : DieId) (f : Die → Die) (d : Fin 3) : (s.updDie c f).injectOf d = s.injectOf d := rfl
@[simp] theorem State.pending_setDie (c : DieId) (v : Die) : (s.setDie c v).pending = s.pending := rfl
@[simp] theorem State.pending_updDie (c : DieId) (f : Die → Die) : (s.updDie c f).pending = s.pending := rfl
@[simp] theorem State.time_setDie (c : DieId) (v : Die) : (s.setDie c v).time = s.time := rfl
@[simp] theorem State.time_updDie (c : DieId) (f : Die → Die) : (s.updDie c f).time = s.time := rfl
@[simp] theorem State.cycle_setDie (c : DieId) (v : Die) : (s.setDie c v).cycle = s.cycle := rfl
@[simp] theorem State.cycle_updDie (c : DieId) (f : Die → Die) : (s.updDie c f).cycle = s.cycle := rfl
@[simp] theorem State.freeCtr_setDie (c : DieId) (v : Die) : (s.setDie c v).freeCtr = s.freeCtr := rfl
@[simp] theorem State.freeCtr_updDie (c : DieId) (f : Die → Die) : (s.updDie c f).freeCtr = s.freeCtr := rfl
@[simp] theorem State.variant_setDie (c : DieId) (v : Die) : (s.setDie c v).variant = s.variant := rfl
@[simp] theorem State.variant_updDie (c : DieId) (f : Die → Die) : (s.updDie c f).variant = s.variant := rfl
@[simp] theorem State.outbox_setDie (c : DieId) (v : Die) : (s.setDie c v).outbox = s.outbox := rfl
@[simp] theorem State.outbox_updDie (c : DieId) (f : Die → Die) : (s.updDie c f).outbox = s.outbox := rfl
@[simp] theorem State.mem_setDie (c : DieId) (v : Die) : (s.setDie c v).mem = s.mem := rfl
@[simp] theorem State.mem_updDie (c : DieId) (f : Die → Die) : (s.updDie c f).mem = s.mem := rfl
@[simp] theorem State.cfl_setDie (c : DieId) (v : Die) : (s.setDie c v).cfl = s.cfl := rfl
@[simp] theorem State.cfl_updDie (c : DieId) (f : Die → Die) : (s.updDie c f).cfl = s.cfl := rfl
@[simp] theorem State.tags_setDie (c : DieId) (v : Die) : (s.setDie c v).tags = s.tags := rfl
@[simp] theorem State.tags_updDie (c : DieId) (f : Die → Die) : (s.updDie c f).tags = s.tags := rfl
@[simp] theorem State.flips_setDie (c : DieId) (v : Die) : (s.setDie c v).flips = s.flips := rfl
@[simp] theorem State.flips_updDie (c : DieId) (f : Die → Die) : (s.updDie c f).flips = s.flips := rfl
@[simp] theorem State.nougat_setDie (c : DieId) (v : Die) : (s.setDie c v).nougat = s.nougat := rfl
@[simp] theorem State.nougat_updDie (c : DieId) (f : Die → Die) : (s.updDie c f).nougat = s.nougat := rfl
@[simp] theorem State.nss_setDie (c : DieId) (v : Die) : (s.setDie c v).nss = s.nss := rfl
@[simp] theorem State.nss_updDie (c : DieId) (f : Die → Die) : (s.updDie c f).nss = s.nss := rfl
@[simp] theorem State.nsMap_setDie (c : DieId) (v : Die) : (s.setDie c v).nsMap = s.nsMap := rfl
@[simp] theorem State.nsMap_updDie (c : DieId) (f : Die → Die) : (s.updDie c f).nsMap = s.nsMap := rfl
@[simp] theorem State.mgmt_setDie (c : DieId) (v : Die) : (s.setDie c v).mgmt = s.mgmt := rfl
@[simp] theorem State.mgmt_updDie (c : DieId) (f : Die → Die) : (s.updDie c f).mgmt = s.mgmt := rfl
@[simp] theorem State.pow_setDie (c : DieId) (v : Die) : (s.setDie c v).pow = s.pow := rfl
@[simp] theorem State.pow_updDie (c : DieId) (f : Die → Die) : (s.updDie c f).pow = s.pow := rfl
@[simp] theorem State.sec_setDie (c : DieId) (v : Die) : (s.setDie c v).sec = s.sec := rfl
@[simp] theorem State.sec_updDie (c : DieId) (f : Die → Die) : (s.updDie c f).sec = s.sec := rfl
@[simp] theorem State.fab_setDie (c : DieId) (v : Die) : (s.setDie c v).fab = s.fab := rfl
@[simp] theorem State.fab_updDie (c : DieId) (f : Die → Die) : (s.updDie c f).fab = s.fab := rfl
@[simp] theorem State.arb_setDie (c : DieId) (v : Die) : (s.setDie c v).arb = s.arb := rfl
@[simp] theorem State.arb_updDie (c : DieId) (f : Die → Die) : (s.updDie c f).arb = s.arb := rfl
@[simp] theorem State.san_setDie (c : DieId) (v : Die) : (s.setDie c v).san = s.san := rfl
@[simp] theorem State.san_updDie (c : DieId) (f : Die → Die) : (s.updDie c f).san = s.san := rfl
@[simp] theorem State.modLog_setDie (c : DieId) (v : Die) : (s.setDie c v).modLog = s.modLog := rfl
@[simp] theorem State.modLog_updDie (c : DieId) (f : Die → Die) : (s.updDie c f).modLog = s.modLog := rfl
@[simp] theorem State.setAt_updDie (c : DieId) (f : Die → Die) : (s.updDie c f).setAt = s.setAt := rfl
@[simp] theorem State.buffer_updDie (c : DieId) (f : Die → Die) : (s.updDie c f).buffer = s.buffer := rfl
@[simp] theorem State.cwords_updDie (c : DieId) (f : Die → Die) : (s.updDie c f).cwords = s.cwords := rfl
@[simp] theorem State.rootRecs_updDie (c : DieId) (f : Die → Die) : (s.updDie c f).rootRecs = s.rootRecs := rfl
@[simp] theorem State.locks_updDie (c : DieId) (f : Die → Die) : (s.updDie c f).locks = s.locks := rfl
@[simp] theorem State.heldCmds_updDie (c : DieId) (f : Die → Die) : (s.updDie c f).heldCmds = s.heldCmds := rfl

/-! ### chans -/

@[simp] theorem State.chan_setChan_same (c : Fin 64) (v : Channel) : (s.setChan c v).chan c = v := by
  simp [State.setChan, State.chan]
theorem State.chan_setChan_other (c d : Fin 64) (v : Channel) (h : d ≠ c) : (s.setChan c v).chan d = s.chan d := by
  simp only [State.setChan, State.chan]
  exact SMap.get_set_other _ _ _ _ _ (fun e => h (Fin.ext e))
@[simp] theorem State.chan_updChan_same (c : Fin 64) (f : Channel → Channel) : (s.updChan c f).chan c = f (s.chan c) :=
  State.chan_setChan_same s c _
theorem State.chan_updChan_other (c d : Fin 64) (f : Channel → Channel) (h : d ≠ c) : (s.updChan c f).chan d = s.chan d :=
  State.chan_setChan_other s c d _ h
@[simp] theorem State.core_setChan (c : Fin 64) (v : Channel) (d : CoreId) : (s.setChan c v).core d = s.core d := rfl
@[simp] theorem State.core_updChan (c : Fin 64) (f : Channel → Channel) (d : CoreId) : (s.updChan c f).core d = s.core d := rfl
@[simp] theorem State.cluster_setChan (c : Fin 64) (v : Channel) (d : Fin 32) : (s.setChan c v).cluster d = s.cluster d := rfl
@[simp] theorem State.cluster_updChan (c : Fin 64) (f : Channel → Channel) (d : Fin 32) : (s.updChan c f).cluster d = s.cluster d := rfl
@[simp] theorem State.part_setChan (c : Fin 64) (v : Channel) (d : Fin 12) : (s.setChan c v).part d = s.part d := rfl
@[simp] theorem State.part_updChan (c : Fin 64) (f : Channel → Channel) (d : Fin 12) : (s.updChan c f).part d = s.part d := rfl
@[simp] theorem State.link_setChan (c : Fin 64) (v : Channel) (d : Fin 36) : (s.setChan c v).link d = s.link d := rfl
@[simp] theorem State.link_updChan (c : Fin 64) (f : Channel → Channel) (d : Fin 36) : (s.updChan c f).link d = s.link d := rfl
@[simp] theorem State.fn_setChan (c : Fin 64) (v : Channel) (d : FnId) : (s.setChan c v).fn d = s.fn d := rfl
@[simp] theorem State.fn_updChan (c : Fin 64) (f : Channel → Channel) (d : FnId) : (s.updChan c f).fn d = s.fn d := rfl
@[simp] theorem State.die_setChan (c : Fin 64) (v : Channel) (d : DieId) : (s.setChan c v).die d = s.die d := rfl
@[simp] theorem State.die_updChan (c : Fin 64) (f : Channel → Channel) (d : DieId) : (s.updChan c f).die d = s.die d := rfl
@[simp] theorem State.ldpcOf_setChan (c : Fin 64) (v : Channel) (d : Fin 16) : (s.setChan c v).ldpcOf d = s.ldpcOf d := rfl
@[simp] theorem State.ldpcOf_updChan (c : Fin 64) (f : Channel → Channel) (d : Fin 16) : (s.updChan c f).ldpcOf d = s.ldpcOf d := rfl
@[simp] theorem State.port_setChan (c : Fin 64) (v : Channel) (d : Port) : (s.setChan c v).port d = s.port d := rfl
@[simp] theorem State.port_updChan (c : Fin 64) (f : Channel → Channel) (d : Port) : (s.updChan c f).port d = s.port d := rfl
@[simp] theorem State.injectOf_setChan (c : Fin 64) (v : Channel) (d : Fin 3) : (s.setChan c v).injectOf d = s.injectOf d := rfl
@[simp] theorem State.injectOf_updChan (c : Fin 64) (f : Channel → Channel) (d : Fin 3) : (s.updChan c f).injectOf d = s.injectOf d := rfl
@[simp] theorem State.pending_setChan (c : Fin 64) (v : Channel) : (s.setChan c v).pending = s.pending := rfl
@[simp] theorem State.pending_updChan (c : Fin 64) (f : Channel → Channel) : (s.updChan c f).pending = s.pending := rfl
@[simp] theorem State.time_setChan (c : Fin 64) (v : Channel) : (s.setChan c v).time = s.time := rfl
@[simp] theorem State.time_updChan (c : Fin 64) (f : Channel → Channel) : (s.updChan c f).time = s.time := rfl
@[simp] theorem State.cycle_setChan (c : Fin 64) (v : Channel) : (s.setChan c v).cycle = s.cycle := rfl
@[simp] theorem State.cycle_updChan (c : Fin 64) (f : Channel → Channel) : (s.updChan c f).cycle = s.cycle := rfl
@[simp] theorem State.freeCtr_setChan (c : Fin 64) (v : Channel) : (s.setChan c v).freeCtr = s.freeCtr := rfl
@[simp] theorem State.freeCtr_updChan (c : Fin 64) (f : Channel → Channel) : (s.updChan c f).freeCtr = s.freeCtr := rfl
@[simp] theorem State.variant_setChan (c : Fin 64) (v : Channel) : (s.setChan c v).variant = s.variant := rfl
@[simp] theorem State.variant_updChan (c : Fin 64) (f : Channel → Channel) : (s.updChan c f).variant = s.variant := rfl
@[simp] theorem State.outbox_setChan (c : Fin 64) (v : Channel) : (s.setChan c v).outbox = s.outbox := rfl
@[simp] theorem State.outbox_updChan (c : Fin 64) (f : Channel → Channel) : (s.updChan c f).outbox = s.outbox := rfl
@[simp] theorem State.mem_setChan (c : Fin 64) (v : Channel) : (s.setChan c v).mem = s.mem := rfl
@[simp] theorem State.mem_updChan (c : Fin 64) (f : Channel → Channel) : (s.updChan c f).mem = s.mem := rfl
@[simp] theorem State.cfl_setChan (c : Fin 64) (v : Channel) : (s.setChan c v).cfl = s.cfl := rfl
@[simp] theorem State.cfl_updChan (c : Fin 64) (f : Channel → Channel) : (s.updChan c f).cfl = s.cfl := rfl
@[simp] theorem State.tags_setChan (c : Fin 64) (v : Channel) : (s.setChan c v).tags = s.tags := rfl
@[simp] theorem State.tags_updChan (c : Fin 64) (f : Channel → Channel) : (s.updChan c f).tags = s.tags := rfl
@[simp] theorem State.flips_setChan (c : Fin 64) (v : Channel) : (s.setChan c v).flips = s.flips := rfl
@[simp] theorem State.flips_updChan (c : Fin 64) (f : Channel → Channel) : (s.updChan c f).flips = s.flips := rfl
@[simp] theorem State.nougat_setChan (c : Fin 64) (v : Channel) : (s.setChan c v).nougat = s.nougat := rfl
@[simp] theorem State.nougat_updChan (c : Fin 64) (f : Channel → Channel) : (s.updChan c f).nougat = s.nougat := rfl
@[simp] theorem State.nss_setChan (c : Fin 64) (v : Channel) : (s.setChan c v).nss = s.nss := rfl
@[simp] theorem State.nss_updChan (c : Fin 64) (f : Channel → Channel) : (s.updChan c f).nss = s.nss := rfl
@[simp] theorem State.nsMap_setChan (c : Fin 64) (v : Channel) : (s.setChan c v).nsMap = s.nsMap := rfl
@[simp] theorem State.nsMap_updChan (c : Fin 64) (f : Channel → Channel) : (s.updChan c f).nsMap = s.nsMap := rfl
@[simp] theorem State.mgmt_setChan (c : Fin 64) (v : Channel) : (s.setChan c v).mgmt = s.mgmt := rfl
@[simp] theorem State.mgmt_updChan (c : Fin 64) (f : Channel → Channel) : (s.updChan c f).mgmt = s.mgmt := rfl
@[simp] theorem State.pow_setChan (c : Fin 64) (v : Channel) : (s.setChan c v).pow = s.pow := rfl
@[simp] theorem State.pow_updChan (c : Fin 64) (f : Channel → Channel) : (s.updChan c f).pow = s.pow := rfl
@[simp] theorem State.sec_setChan (c : Fin 64) (v : Channel) : (s.setChan c v).sec = s.sec := rfl
@[simp] theorem State.sec_updChan (c : Fin 64) (f : Channel → Channel) : (s.updChan c f).sec = s.sec := rfl
@[simp] theorem State.fab_setChan (c : Fin 64) (v : Channel) : (s.setChan c v).fab = s.fab := rfl
@[simp] theorem State.fab_updChan (c : Fin 64) (f : Channel → Channel) : (s.updChan c f).fab = s.fab := rfl
@[simp] theorem State.arb_setChan (c : Fin 64) (v : Channel) : (s.setChan c v).arb = s.arb := rfl
@[simp] theorem State.arb_updChan (c : Fin 64) (f : Channel → Channel) : (s.updChan c f).arb = s.arb := rfl
@[simp] theorem State.san_setChan (c : Fin 64) (v : Channel) : (s.setChan c v).san = s.san := rfl
@[simp] theorem State.san_updChan (c : Fin 64) (f : Channel → Channel) : (s.updChan c f).san = s.san := rfl
@[simp] theorem State.modLog_setChan (c : Fin 64) (v : Channel) : (s.setChan c v).modLog = s.modLog := rfl
@[simp] theorem State.modLog_updChan (c : Fin 64) (f : Channel → Channel) : (s.updChan c f).modLog = s.modLog := rfl
@[simp] theorem State.setAt_updChan (c : Fin 64) (f : Channel → Channel) : (s.updChan c f).setAt = s.setAt := rfl
@[simp] theorem State.buffer_updChan (c : Fin 64) (f : Channel → Channel) : (s.updChan c f).buffer = s.buffer := rfl
@[simp] theorem State.cwords_updChan (c : Fin 64) (f : Channel → Channel) : (s.updChan c f).cwords = s.cwords := rfl
@[simp] theorem State.rootRecs_updChan (c : Fin 64) (f : Channel → Channel) : (s.updChan c f).rootRecs = s.rootRecs := rfl
@[simp] theorem State.locks_updChan (c : Fin 64) (f : Channel → Channel) : (s.updChan c f).locks = s.locks := rfl
@[simp] theorem State.heldCmds_updChan (c : Fin 64) (f : Channel → Channel) : (s.updChan c f).heldCmds = s.heldCmds := rfl

/-! ### ldpc -/

@[simp] theorem State.ldpcOf_setLdpcOf_same (c : Fin 16) (v : Ldpc) : (s.setLdpcOf c v).ldpcOf c = v := by
  simp [State.setLdpcOf, State.ldpcOf]
theorem State.ldpcOf_setLdpcOf_other (c d : Fin 16) (v : Ldpc) (h : d ≠ c) : (s.setLdpcOf c v).ldpcOf d = s.ldpcOf d := by
  simp only [State.setLdpcOf, State.ldpcOf]
  exact SMap.get_set_other _ _ _ _ _ (fun e => h (Fin.ext e))
@[simp] theorem State.ldpcOf_updLdpcOf_same (c : Fin 16) (f : Ldpc → Ldpc) : (s.updLdpcOf c f).ldpcOf c = f (s.ldpcOf c) :=
  State.ldpcOf_setLdpcOf_same s c _
theorem State.ldpcOf_updLdpcOf_other (c d : Fin 16) (f : Ldpc → Ldpc) (h : d ≠ c) : (s.updLdpcOf c f).ldpcOf d = s.ldpcOf d :=
  State.ldpcOf_setLdpcOf_other s c d _ h
@[simp] theorem State.core_setLdpcOf (c : Fin 16) (v : Ldpc) (d : CoreId) : (s.setLdpcOf c v).core d = s.core d := rfl
@[simp] theorem State.core_updLdpcOf (c : Fin 16) (f : Ldpc → Ldpc) (d : CoreId) : (s.updLdpcOf c f).core d = s.core d := rfl
@[simp] theorem State.cluster_setLdpcOf (c : Fin 16) (v : Ldpc) (d : Fin 32) : (s.setLdpcOf c v).cluster d = s.cluster d := rfl
@[simp] theorem State.cluster_updLdpcOf (c : Fin 16) (f : Ldpc → Ldpc) (d : Fin 32) : (s.updLdpcOf c f).cluster d = s.cluster d := rfl
@[simp] theorem State.part_setLdpcOf (c : Fin 16) (v : Ldpc) (d : Fin 12) : (s.setLdpcOf c v).part d = s.part d := rfl
@[simp] theorem State.part_updLdpcOf (c : Fin 16) (f : Ldpc → Ldpc) (d : Fin 12) : (s.updLdpcOf c f).part d = s.part d := rfl
@[simp] theorem State.link_setLdpcOf (c : Fin 16) (v : Ldpc) (d : Fin 36) : (s.setLdpcOf c v).link d = s.link d := rfl
@[simp] theorem State.link_updLdpcOf (c : Fin 16) (f : Ldpc → Ldpc) (d : Fin 36) : (s.updLdpcOf c f).link d = s.link d := rfl
@[simp] theorem State.fn_setLdpcOf (c : Fin 16) (v : Ldpc) (d : FnId) : (s.setLdpcOf c v).fn d = s.fn d := rfl
@[simp] theorem State.fn_updLdpcOf (c : Fin 16) (f : Ldpc → Ldpc) (d : FnId) : (s.updLdpcOf c f).fn d = s.fn d := rfl
@[simp] theorem State.die_setLdpcOf (c : Fin 16) (v : Ldpc) (d : DieId) : (s.setLdpcOf c v).die d = s.die d := rfl
@[simp] theorem State.die_updLdpcOf (c : Fin 16) (f : Ldpc → Ldpc) (d : DieId) : (s.updLdpcOf c f).die d = s.die d := rfl
@[simp] theorem State.chan_setLdpcOf (c : Fin 16) (v : Ldpc) (d : Fin 64) : (s.setLdpcOf c v).chan d = s.chan d := rfl
@[simp] theorem State.chan_updLdpcOf (c : Fin 16) (f : Ldpc → Ldpc) (d : Fin 64) : (s.updLdpcOf c f).chan d = s.chan d := rfl
@[simp] theorem State.port_setLdpcOf (c : Fin 16) (v : Ldpc) (d : Port) : (s.setLdpcOf c v).port d = s.port d := rfl
@[simp] theorem State.port_updLdpcOf (c : Fin 16) (f : Ldpc → Ldpc) (d : Port) : (s.updLdpcOf c f).port d = s.port d := rfl
@[simp] theorem State.injectOf_setLdpcOf (c : Fin 16) (v : Ldpc) (d : Fin 3) : (s.setLdpcOf c v).injectOf d = s.injectOf d := rfl
@[simp] theorem State.injectOf_updLdpcOf (c : Fin 16) (f : Ldpc → Ldpc) (d : Fin 3) : (s.updLdpcOf c f).injectOf d = s.injectOf d := rfl
@[simp] theorem State.pending_setLdpcOf (c : Fin 16) (v : Ldpc) : (s.setLdpcOf c v).pending = s.pending := rfl
@[simp] theorem State.pending_updLdpcOf (c : Fin 16) (f : Ldpc → Ldpc) : (s.updLdpcOf c f).pending = s.pending := rfl
@[simp] theorem State.time_setLdpcOf (c : Fin 16) (v : Ldpc) : (s.setLdpcOf c v).time = s.time := rfl
@[simp] theorem State.time_updLdpcOf (c : Fin 16) (f : Ldpc → Ldpc) : (s.updLdpcOf c f).time = s.time := rfl
@[simp] theorem State.cycle_setLdpcOf (c : Fin 16) (v : Ldpc) : (s.setLdpcOf c v).cycle = s.cycle := rfl
@[simp] theorem State.cycle_updLdpcOf (c : Fin 16) (f : Ldpc → Ldpc) : (s.updLdpcOf c f).cycle = s.cycle := rfl
@[simp] theorem State.freeCtr_setLdpcOf (c : Fin 16) (v : Ldpc) : (s.setLdpcOf c v).freeCtr = s.freeCtr := rfl
@[simp] theorem State.freeCtr_updLdpcOf (c : Fin 16) (f : Ldpc → Ldpc) : (s.updLdpcOf c f).freeCtr = s.freeCtr := rfl
@[simp] theorem State.variant_setLdpcOf (c : Fin 16) (v : Ldpc) : (s.setLdpcOf c v).variant = s.variant := rfl
@[simp] theorem State.variant_updLdpcOf (c : Fin 16) (f : Ldpc → Ldpc) : (s.updLdpcOf c f).variant = s.variant := rfl
@[simp] theorem State.outbox_setLdpcOf (c : Fin 16) (v : Ldpc) : (s.setLdpcOf c v).outbox = s.outbox := rfl
@[simp] theorem State.outbox_updLdpcOf (c : Fin 16) (f : Ldpc → Ldpc) : (s.updLdpcOf c f).outbox = s.outbox := rfl
@[simp] theorem State.mem_setLdpcOf (c : Fin 16) (v : Ldpc) : (s.setLdpcOf c v).mem = s.mem := rfl
@[simp] theorem State.mem_updLdpcOf (c : Fin 16) (f : Ldpc → Ldpc) : (s.updLdpcOf c f).mem = s.mem := rfl
@[simp] theorem State.cfl_setLdpcOf (c : Fin 16) (v : Ldpc) : (s.setLdpcOf c v).cfl = s.cfl := rfl
@[simp] theorem State.cfl_updLdpcOf (c : Fin 16) (f : Ldpc → Ldpc) : (s.updLdpcOf c f).cfl = s.cfl := rfl
@[simp] theorem State.tags_setLdpcOf (c : Fin 16) (v : Ldpc) : (s.setLdpcOf c v).tags = s.tags := rfl
@[simp] theorem State.tags_updLdpcOf (c : Fin 16) (f : Ldpc → Ldpc) : (s.updLdpcOf c f).tags = s.tags := rfl
@[simp] theorem State.flips_setLdpcOf (c : Fin 16) (v : Ldpc) : (s.setLdpcOf c v).flips = s.flips := rfl
@[simp] theorem State.flips_updLdpcOf (c : Fin 16) (f : Ldpc → Ldpc) : (s.updLdpcOf c f).flips = s.flips := rfl
@[simp] theorem State.nougat_setLdpcOf (c : Fin 16) (v : Ldpc) : (s.setLdpcOf c v).nougat = s.nougat := rfl
@[simp] theorem State.nougat_updLdpcOf (c : Fin 16) (f : Ldpc → Ldpc) : (s.updLdpcOf c f).nougat = s.nougat := rfl
@[simp] theorem State.nss_setLdpcOf (c : Fin 16) (v : Ldpc) : (s.setLdpcOf c v).nss = s.nss := rfl
@[simp] theorem State.nss_updLdpcOf (c : Fin 16) (f : Ldpc → Ldpc) : (s.updLdpcOf c f).nss = s.nss := rfl
@[simp] theorem State.nsMap_setLdpcOf (c : Fin 16) (v : Ldpc) : (s.setLdpcOf c v).nsMap = s.nsMap := rfl
@[simp] theorem State.nsMap_updLdpcOf (c : Fin 16) (f : Ldpc → Ldpc) : (s.updLdpcOf c f).nsMap = s.nsMap := rfl
@[simp] theorem State.mgmt_setLdpcOf (c : Fin 16) (v : Ldpc) : (s.setLdpcOf c v).mgmt = s.mgmt := rfl
@[simp] theorem State.mgmt_updLdpcOf (c : Fin 16) (f : Ldpc → Ldpc) : (s.updLdpcOf c f).mgmt = s.mgmt := rfl
@[simp] theorem State.pow_setLdpcOf (c : Fin 16) (v : Ldpc) : (s.setLdpcOf c v).pow = s.pow := rfl
@[simp] theorem State.pow_updLdpcOf (c : Fin 16) (f : Ldpc → Ldpc) : (s.updLdpcOf c f).pow = s.pow := rfl
@[simp] theorem State.sec_setLdpcOf (c : Fin 16) (v : Ldpc) : (s.setLdpcOf c v).sec = s.sec := rfl
@[simp] theorem State.sec_updLdpcOf (c : Fin 16) (f : Ldpc → Ldpc) : (s.updLdpcOf c f).sec = s.sec := rfl
@[simp] theorem State.fab_setLdpcOf (c : Fin 16) (v : Ldpc) : (s.setLdpcOf c v).fab = s.fab := rfl
@[simp] theorem State.fab_updLdpcOf (c : Fin 16) (f : Ldpc → Ldpc) : (s.updLdpcOf c f).fab = s.fab := rfl
@[simp] theorem State.arb_setLdpcOf (c : Fin 16) (v : Ldpc) : (s.setLdpcOf c v).arb = s.arb := rfl
@[simp] theorem State.arb_updLdpcOf (c : Fin 16) (f : Ldpc → Ldpc) : (s.updLdpcOf c f).arb = s.arb := rfl
@[simp] theorem State.san_setLdpcOf (c : Fin 16) (v : Ldpc) : (s.setLdpcOf c v).san = s.san := rfl
@[simp] theorem State.san_updLdpcOf (c : Fin 16) (f : Ldpc → Ldpc) : (s.updLdpcOf c f).san = s.san := rfl
@[simp] theorem State.modLog_setLdpcOf (c : Fin 16) (v : Ldpc) : (s.setLdpcOf c v).modLog = s.modLog := rfl
@[simp] theorem State.modLog_updLdpcOf (c : Fin 16) (f : Ldpc → Ldpc) : (s.updLdpcOf c f).modLog = s.modLog := rfl
@[simp] theorem State.setAt_updLdpcOf (c : Fin 16) (f : Ldpc → Ldpc) : (s.updLdpcOf c f).setAt = s.setAt := rfl
@[simp] theorem State.buffer_updLdpcOf (c : Fin 16) (f : Ldpc → Ldpc) : (s.updLdpcOf c f).buffer = s.buffer := rfl
@[simp] theorem State.cwords_updLdpcOf (c : Fin 16) (f : Ldpc → Ldpc) : (s.updLdpcOf c f).cwords = s.cwords := rfl
@[simp] theorem State.rootRecs_updLdpcOf (c : Fin 16) (f : Ldpc → Ldpc) : (s.updLdpcOf c f).rootRecs = s.rootRecs := rfl
@[simp] theorem State.locks_updLdpcOf (c : Fin 16) (f : Ldpc → Ldpc) : (s.updLdpcOf c f).locks = s.locks := rfl
@[simp] theorem State.heldCmds_updLdpcOf (c : Fin 16) (f : Ldpc → Ldpc) : (s.updLdpcOf c f).heldCmds = s.heldCmds := rfl

/-! ### ports -/

@[simp] theorem State.port_setPort_same (c : Port) (v : PortSt) : (s.setPort c v).port c = v := by
  simp [State.setPort, State.port]
theorem State.port_setPort_other (c d : Port) (v : PortSt) (h : d ≠ c) : (s.setPort c v).port d = s.port d := by
  simp only [State.setPort, State.port]
  exact SMap.get_set_other _ _ _ _ _ (by cases c <;> cases d <;> simp_all)
@[simp] theorem State.port_updPort_same (c : Port) (f : PortSt → PortSt) : (s.updPort c f).port c = f (s.port c) :=
  State.port_setPort_same s c _
theorem State.port_updPort_other (c d : Port) (f : PortSt → PortSt) (h : d ≠ c) : (s.updPort c f).port d = s.port d :=
  State.port_setPort_other s c d _ h
@[simp] theorem State.core_setPort (c : Port) (v : PortSt) (d : CoreId) : (s.setPort c v).core d = s.core d := rfl
@[simp] theorem State.core_updPort (c : Port) (f : PortSt → PortSt) (d : CoreId) : (s.updPort c f).core d = s.core d := rfl
@[simp] theorem State.cluster_setPort (c : Port) (v : PortSt) (d : Fin 32) : (s.setPort c v).cluster d = s.cluster d := rfl
@[simp] theorem State.cluster_updPort (c : Port) (f : PortSt → PortSt) (d : Fin 32) : (s.updPort c f).cluster d = s.cluster d := rfl
@[simp] theorem State.part_setPort (c : Port) (v : PortSt) (d : Fin 12) : (s.setPort c v).part d = s.part d := rfl
@[simp] theorem State.part_updPort (c : Port) (f : PortSt → PortSt) (d : Fin 12) : (s.updPort c f).part d = s.part d := rfl
@[simp] theorem State.link_setPort (c : Port) (v : PortSt) (d : Fin 36) : (s.setPort c v).link d = s.link d := rfl
@[simp] theorem State.link_updPort (c : Port) (f : PortSt → PortSt) (d : Fin 36) : (s.updPort c f).link d = s.link d := rfl
@[simp] theorem State.fn_setPort (c : Port) (v : PortSt) (d : FnId) : (s.setPort c v).fn d = s.fn d := rfl
@[simp] theorem State.fn_updPort (c : Port) (f : PortSt → PortSt) (d : FnId) : (s.updPort c f).fn d = s.fn d := rfl
@[simp] theorem State.die_setPort (c : Port) (v : PortSt) (d : DieId) : (s.setPort c v).die d = s.die d := rfl
@[simp] theorem State.die_updPort (c : Port) (f : PortSt → PortSt) (d : DieId) : (s.updPort c f).die d = s.die d := rfl
@[simp] theorem State.chan_setPort (c : Port) (v : PortSt) (d : Fin 64) : (s.setPort c v).chan d = s.chan d := rfl
@[simp] theorem State.chan_updPort (c : Port) (f : PortSt → PortSt) (d : Fin 64) : (s.updPort c f).chan d = s.chan d := rfl
@[simp] theorem State.ldpcOf_setPort (c : Port) (v : PortSt) (d : Fin 16) : (s.setPort c v).ldpcOf d = s.ldpcOf d := rfl
@[simp] theorem State.ldpcOf_updPort (c : Port) (f : PortSt → PortSt) (d : Fin 16) : (s.updPort c f).ldpcOf d = s.ldpcOf d := rfl
@[simp] theorem State.injectOf_setPort (c : Port) (v : PortSt) (d : Fin 3) : (s.setPort c v).injectOf d = s.injectOf d := rfl
@[simp] theorem State.injectOf_updPort (c : Port) (f : PortSt → PortSt) (d : Fin 3) : (s.updPort c f).injectOf d = s.injectOf d := rfl
@[simp] theorem State.pending_setPort (c : Port) (v : PortSt) : (s.setPort c v).pending = s.pending := rfl
@[simp] theorem State.pending_updPort (c : Port) (f : PortSt → PortSt) : (s.updPort c f).pending = s.pending := rfl
@[simp] theorem State.time_setPort (c : Port) (v : PortSt) : (s.setPort c v).time = s.time := rfl
@[simp] theorem State.time_updPort (c : Port) (f : PortSt → PortSt) : (s.updPort c f).time = s.time := rfl
@[simp] theorem State.cycle_setPort (c : Port) (v : PortSt) : (s.setPort c v).cycle = s.cycle := rfl
@[simp] theorem State.cycle_updPort (c : Port) (f : PortSt → PortSt) : (s.updPort c f).cycle = s.cycle := rfl
@[simp] theorem State.freeCtr_setPort (c : Port) (v : PortSt) : (s.setPort c v).freeCtr = s.freeCtr := rfl
@[simp] theorem State.freeCtr_updPort (c : Port) (f : PortSt → PortSt) : (s.updPort c f).freeCtr = s.freeCtr := rfl
@[simp] theorem State.variant_setPort (c : Port) (v : PortSt) : (s.setPort c v).variant = s.variant := rfl
@[simp] theorem State.variant_updPort (c : Port) (f : PortSt → PortSt) : (s.updPort c f).variant = s.variant := rfl
@[simp] theorem State.outbox_setPort (c : Port) (v : PortSt) : (s.setPort c v).outbox = s.outbox := rfl
@[simp] theorem State.outbox_updPort (c : Port) (f : PortSt → PortSt) : (s.updPort c f).outbox = s.outbox := rfl
@[simp] theorem State.mem_setPort (c : Port) (v : PortSt) : (s.setPort c v).mem = s.mem := rfl
@[simp] theorem State.mem_updPort (c : Port) (f : PortSt → PortSt) : (s.updPort c f).mem = s.mem := rfl
@[simp] theorem State.cfl_setPort (c : Port) (v : PortSt) : (s.setPort c v).cfl = s.cfl := rfl
@[simp] theorem State.cfl_updPort (c : Port) (f : PortSt → PortSt) : (s.updPort c f).cfl = s.cfl := rfl
@[simp] theorem State.tags_setPort (c : Port) (v : PortSt) : (s.setPort c v).tags = s.tags := rfl
@[simp] theorem State.tags_updPort (c : Port) (f : PortSt → PortSt) : (s.updPort c f).tags = s.tags := rfl
@[simp] theorem State.flips_setPort (c : Port) (v : PortSt) : (s.setPort c v).flips = s.flips := rfl
@[simp] theorem State.flips_updPort (c : Port) (f : PortSt → PortSt) : (s.updPort c f).flips = s.flips := rfl
@[simp] theorem State.nougat_setPort (c : Port) (v : PortSt) : (s.setPort c v).nougat = s.nougat := rfl
@[simp] theorem State.nougat_updPort (c : Port) (f : PortSt → PortSt) : (s.updPort c f).nougat = s.nougat := rfl
@[simp] theorem State.nss_setPort (c : Port) (v : PortSt) : (s.setPort c v).nss = s.nss := rfl
@[simp] theorem State.nss_updPort (c : Port) (f : PortSt → PortSt) : (s.updPort c f).nss = s.nss := rfl
@[simp] theorem State.nsMap_setPort (c : Port) (v : PortSt) : (s.setPort c v).nsMap = s.nsMap := rfl
@[simp] theorem State.nsMap_updPort (c : Port) (f : PortSt → PortSt) : (s.updPort c f).nsMap = s.nsMap := rfl
@[simp] theorem State.mgmt_setPort (c : Port) (v : PortSt) : (s.setPort c v).mgmt = s.mgmt := rfl
@[simp] theorem State.mgmt_updPort (c : Port) (f : PortSt → PortSt) : (s.updPort c f).mgmt = s.mgmt := rfl
@[simp] theorem State.pow_setPort (c : Port) (v : PortSt) : (s.setPort c v).pow = s.pow := rfl
@[simp] theorem State.pow_updPort (c : Port) (f : PortSt → PortSt) : (s.updPort c f).pow = s.pow := rfl
@[simp] theorem State.sec_setPort (c : Port) (v : PortSt) : (s.setPort c v).sec = s.sec := rfl
@[simp] theorem State.sec_updPort (c : Port) (f : PortSt → PortSt) : (s.updPort c f).sec = s.sec := rfl
@[simp] theorem State.fab_setPort (c : Port) (v : PortSt) : (s.setPort c v).fab = s.fab := rfl
@[simp] theorem State.fab_updPort (c : Port) (f : PortSt → PortSt) : (s.updPort c f).fab = s.fab := rfl
@[simp] theorem State.arb_setPort (c : Port) (v : PortSt) : (s.setPort c v).arb = s.arb := rfl
@[simp] theorem State.arb_updPort (c : Port) (f : PortSt → PortSt) : (s.updPort c f).arb = s.arb := rfl
@[simp] theorem State.san_setPort (c : Port) (v : PortSt) : (s.setPort c v).san = s.san := rfl
@[simp] theorem State.san_updPort (c : Port) (f : PortSt → PortSt) : (s.updPort c f).san = s.san := rfl
@[simp] theorem State.modLog_setPort (c : Port) (v : PortSt) : (s.setPort c v).modLog = s.modLog := rfl
@[simp] theorem State.modLog_updPort (c : Port) (f : PortSt → PortSt) : (s.updPort c f).modLog = s.modLog := rfl
@[simp] theorem State.setAt_updPort (c : Port) (f : PortSt → PortSt) : (s.updPort c f).setAt = s.setAt := rfl
@[simp] theorem State.buffer_updPort (c : Port) (f : PortSt → PortSt) : (s.updPort c f).buffer = s.buffer := rfl
@[simp] theorem State.cwords_updPort (c : Port) (f : PortSt → PortSt) : (s.updPort c f).cwords = s.cwords := rfl
@[simp] theorem State.rootRecs_updPort (c : Port) (f : PortSt → PortSt) : (s.updPort c f).rootRecs = s.rootRecs := rfl
@[simp] theorem State.locks_updPort (c : Port) (f : PortSt → PortSt) : (s.updPort c f).locks = s.locks := rfl
@[simp] theorem State.heldCmds_updPort (c : Port) (f : PortSt → PortSt) : (s.updPort c f).heldCmds = s.heldCmds := rfl

/-! ### inject -/

@[simp] theorem State.injectOf_setInjectOf_same (c : Fin 3) (v : Inject) : (s.setInjectOf c v).injectOf c = v := by
  simp [State.setInjectOf, State.injectOf]
theorem State.injectOf_setInjectOf_other (c d : Fin 3) (v : Inject) (h : d ≠ c) : (s.setInjectOf c v).injectOf d = s.injectOf d := by
  simp only [State.setInjectOf, State.injectOf]
  exact SMap.get_set_other _ _ _ _ _ (fun e => h (Fin.ext e))
@[simp] theorem State.injectOf_updInjectOf_same (c : Fin 3) (f : Inject → Inject) : (s.updInjectOf c f).injectOf c = f (s.injectOf c) :=
  State.injectOf_setInjectOf_same s c _
theorem State.injectOf_updInjectOf_other (c d : Fin 3) (f : Inject → Inject) (h : d ≠ c) : (s.updInjectOf c f).injectOf d = s.injectOf d :=
  State.injectOf_setInjectOf_other s c d _ h
@[simp] theorem State.core_setInjectOf (c : Fin 3) (v : Inject) (d : CoreId) : (s.setInjectOf c v).core d = s.core d := rfl
@[simp] theorem State.core_updInjectOf (c : Fin 3) (f : Inject → Inject) (d : CoreId) : (s.updInjectOf c f).core d = s.core d := rfl
@[simp] theorem State.cluster_setInjectOf (c : Fin 3) (v : Inject) (d : Fin 32) : (s.setInjectOf c v).cluster d = s.cluster d := rfl
@[simp] theorem State.cluster_updInjectOf (c : Fin 3) (f : Inject → Inject) (d : Fin 32) : (s.updInjectOf c f).cluster d = s.cluster d := rfl
@[simp] theorem State.part_setInjectOf (c : Fin 3) (v : Inject) (d : Fin 12) : (s.setInjectOf c v).part d = s.part d := rfl
@[simp] theorem State.part_updInjectOf (c : Fin 3) (f : Inject → Inject) (d : Fin 12) : (s.updInjectOf c f).part d = s.part d := rfl
@[simp] theorem State.link_setInjectOf (c : Fin 3) (v : Inject) (d : Fin 36) : (s.setInjectOf c v).link d = s.link d := rfl
@[simp] theorem State.link_updInjectOf (c : Fin 3) (f : Inject → Inject) (d : Fin 36) : (s.updInjectOf c f).link d = s.link d := rfl
@[simp] theorem State.fn_setInjectOf (c : Fin 3) (v : Inject) (d : FnId) : (s.setInjectOf c v).fn d = s.fn d := rfl
@[simp] theorem State.fn_updInjectOf (c : Fin 3) (f : Inject → Inject) (d : FnId) : (s.updInjectOf c f).fn d = s.fn d := rfl
@[simp] theorem State.die_setInjectOf (c : Fin 3) (v : Inject) (d : DieId) : (s.setInjectOf c v).die d = s.die d := rfl
@[simp] theorem State.die_updInjectOf (c : Fin 3) (f : Inject → Inject) (d : DieId) : (s.updInjectOf c f).die d = s.die d := rfl
@[simp] theorem State.chan_setInjectOf (c : Fin 3) (v : Inject) (d : Fin 64) : (s.setInjectOf c v).chan d = s.chan d := rfl
@[simp] theorem State.chan_updInjectOf (c : Fin 3) (f : Inject → Inject) (d : Fin 64) : (s.updInjectOf c f).chan d = s.chan d := rfl
@[simp] theorem State.ldpcOf_setInjectOf (c : Fin 3) (v : Inject) (d : Fin 16) : (s.setInjectOf c v).ldpcOf d = s.ldpcOf d := rfl
@[simp] theorem State.ldpcOf_updInjectOf (c : Fin 3) (f : Inject → Inject) (d : Fin 16) : (s.updInjectOf c f).ldpcOf d = s.ldpcOf d := rfl
@[simp] theorem State.port_setInjectOf (c : Fin 3) (v : Inject) (d : Port) : (s.setInjectOf c v).port d = s.port d := rfl
@[simp] theorem State.port_updInjectOf (c : Fin 3) (f : Inject → Inject) (d : Port) : (s.updInjectOf c f).port d = s.port d := rfl
@[simp] theorem State.pending_setInjectOf (c : Fin 3) (v : Inject) : (s.setInjectOf c v).pending = s.pending := rfl
@[simp] theorem State.pending_updInjectOf (c : Fin 3) (f : Inject → Inject) : (s.updInjectOf c f).pending = s.pending := rfl
@[simp] theorem State.time_setInjectOf (c : Fin 3) (v : Inject) : (s.setInjectOf c v).time = s.time := rfl
@[simp] theorem State.time_updInjectOf (c : Fin 3) (f : Inject → Inject) : (s.updInjectOf c f).time = s.time := rfl
@[simp] theorem State.cycle_setInjectOf (c : Fin 3) (v : Inject) : (s.setInjectOf c v).cycle = s.cycle := rfl
@[simp] theorem State.cycle_updInjectOf (c : Fin 3) (f : Inject → Inject) : (s.updInjectOf c f).cycle = s.cycle := rfl
@[simp] theorem State.freeCtr_setInjectOf (c : Fin 3) (v : Inject) : (s.setInjectOf c v).freeCtr = s.freeCtr := rfl
@[simp] theorem State.freeCtr_updInjectOf (c : Fin 3) (f : Inject → Inject) : (s.updInjectOf c f).freeCtr = s.freeCtr := rfl
@[simp] theorem State.variant_setInjectOf (c : Fin 3) (v : Inject) : (s.setInjectOf c v).variant = s.variant := rfl
@[simp] theorem State.variant_updInjectOf (c : Fin 3) (f : Inject → Inject) : (s.updInjectOf c f).variant = s.variant := rfl
@[simp] theorem State.outbox_setInjectOf (c : Fin 3) (v : Inject) : (s.setInjectOf c v).outbox = s.outbox := rfl
@[simp] theorem State.outbox_updInjectOf (c : Fin 3) (f : Inject → Inject) : (s.updInjectOf c f).outbox = s.outbox := rfl
@[simp] theorem State.mem_setInjectOf (c : Fin 3) (v : Inject) : (s.setInjectOf c v).mem = s.mem := rfl
@[simp] theorem State.mem_updInjectOf (c : Fin 3) (f : Inject → Inject) : (s.updInjectOf c f).mem = s.mem := rfl
@[simp] theorem State.cfl_setInjectOf (c : Fin 3) (v : Inject) : (s.setInjectOf c v).cfl = s.cfl := rfl
@[simp] theorem State.cfl_updInjectOf (c : Fin 3) (f : Inject → Inject) : (s.updInjectOf c f).cfl = s.cfl := rfl
@[simp] theorem State.tags_setInjectOf (c : Fin 3) (v : Inject) : (s.setInjectOf c v).tags = s.tags := rfl
@[simp] theorem State.tags_updInjectOf (c : Fin 3) (f : Inject → Inject) : (s.updInjectOf c f).tags = s.tags := rfl
@[simp] theorem State.flips_setInjectOf (c : Fin 3) (v : Inject) : (s.setInjectOf c v).flips = s.flips := rfl
@[simp] theorem State.flips_updInjectOf (c : Fin 3) (f : Inject → Inject) : (s.updInjectOf c f).flips = s.flips := rfl
@[simp] theorem State.nougat_setInjectOf (c : Fin 3) (v : Inject) : (s.setInjectOf c v).nougat = s.nougat := rfl
@[simp] theorem State.nougat_updInjectOf (c : Fin 3) (f : Inject → Inject) : (s.updInjectOf c f).nougat = s.nougat := rfl
@[simp] theorem State.nss_setInjectOf (c : Fin 3) (v : Inject) : (s.setInjectOf c v).nss = s.nss := rfl
@[simp] theorem State.nss_updInjectOf (c : Fin 3) (f : Inject → Inject) : (s.updInjectOf c f).nss = s.nss := rfl
@[simp] theorem State.nsMap_setInjectOf (c : Fin 3) (v : Inject) : (s.setInjectOf c v).nsMap = s.nsMap := rfl
@[simp] theorem State.nsMap_updInjectOf (c : Fin 3) (f : Inject → Inject) : (s.updInjectOf c f).nsMap = s.nsMap := rfl
@[simp] theorem State.mgmt_setInjectOf (c : Fin 3) (v : Inject) : (s.setInjectOf c v).mgmt = s.mgmt := rfl
@[simp] theorem State.mgmt_updInjectOf (c : Fin 3) (f : Inject → Inject) : (s.updInjectOf c f).mgmt = s.mgmt := rfl
@[simp] theorem State.pow_setInjectOf (c : Fin 3) (v : Inject) : (s.setInjectOf c v).pow = s.pow := rfl
@[simp] theorem State.pow_updInjectOf (c : Fin 3) (f : Inject → Inject) : (s.updInjectOf c f).pow = s.pow := rfl
@[simp] theorem State.sec_setInjectOf (c : Fin 3) (v : Inject) : (s.setInjectOf c v).sec = s.sec := rfl
@[simp] theorem State.sec_updInjectOf (c : Fin 3) (f : Inject → Inject) : (s.updInjectOf c f).sec = s.sec := rfl
@[simp] theorem State.fab_setInjectOf (c : Fin 3) (v : Inject) : (s.setInjectOf c v).fab = s.fab := rfl
@[simp] theorem State.fab_updInjectOf (c : Fin 3) (f : Inject → Inject) : (s.updInjectOf c f).fab = s.fab := rfl
@[simp] theorem State.arb_setInjectOf (c : Fin 3) (v : Inject) : (s.setInjectOf c v).arb = s.arb := rfl
@[simp] theorem State.arb_updInjectOf (c : Fin 3) (f : Inject → Inject) : (s.updInjectOf c f).arb = s.arb := rfl
@[simp] theorem State.san_setInjectOf (c : Fin 3) (v : Inject) : (s.setInjectOf c v).san = s.san := rfl
@[simp] theorem State.san_updInjectOf (c : Fin 3) (f : Inject → Inject) : (s.updInjectOf c f).san = s.san := rfl
@[simp] theorem State.modLog_setInjectOf (c : Fin 3) (v : Inject) : (s.setInjectOf c v).modLog = s.modLog := rfl
@[simp] theorem State.modLog_updInjectOf (c : Fin 3) (f : Inject → Inject) : (s.updInjectOf c f).modLog = s.modLog := rfl
@[simp] theorem State.setAt_updInjectOf (c : Fin 3) (f : Inject → Inject) : (s.updInjectOf c f).setAt = s.setAt := rfl
@[simp] theorem State.buffer_updInjectOf (c : Fin 3) (f : Inject → Inject) : (s.updInjectOf c f).buffer = s.buffer := rfl
@[simp] theorem State.cwords_updInjectOf (c : Fin 3) (f : Inject → Inject) : (s.updInjectOf c f).cwords = s.cwords := rfl
@[simp] theorem State.rootRecs_updInjectOf (c : Fin 3) (f : Inject → Inject) : (s.updInjectOf c f).rootRecs = s.rootRecs := rfl
@[simp] theorem State.locks_updInjectOf (c : Fin 3) (f : Inject → Inject) : (s.updInjectOf c f).locks = s.locks := rfl
@[simp] theorem State.heldCmds_updInjectOf (c : Fin 3) (f : Inject → Inject) : (s.updInjectOf c f).heldCmds = s.heldCmds := rfl

/-! ### The outbox, the log and the free-value counter -/

@[simp] theorem State.core_drawn (d : CoreId) : s.drawn.core d = s.core d := rfl
@[simp] theorem State.cluster_drawn (d : Fin 32) : s.drawn.cluster d = s.cluster d := rfl
@[simp] theorem State.part_drawn (d : Fin 12) : s.drawn.part d = s.part d := rfl
@[simp] theorem State.link_drawn (d : Fin 36) : s.drawn.link d = s.link d := rfl
@[simp] theorem State.fn_drawn (d : FnId) : s.drawn.fn d = s.fn d := rfl
@[simp] theorem State.die_drawn (d : DieId) : s.drawn.die d = s.die d := rfl
@[simp] theorem State.chan_drawn (d : Fin 64) : s.drawn.chan d = s.chan d := rfl
@[simp] theorem State.ldpcOf_drawn (d : Fin 16) : s.drawn.ldpcOf d = s.ldpcOf d := rfl
@[simp] theorem State.port_drawn (d : Port) : s.drawn.port d = s.port d := rfl
@[simp] theorem State.injectOf_drawn (d : Fin 3) : s.drawn.injectOf d = s.injectOf d := rfl
@[simp] theorem State.pending_drawn  : s.drawn.pending = s.pending := rfl
@[simp] theorem State.time_drawn  : s.drawn.time = s.time := rfl
@[simp] theorem State.cycle_drawn  : s.drawn.cycle = s.cycle := rfl
@[simp] theorem State.variant_drawn  : s.drawn.variant = s.variant := rfl
@[simp] theorem State.outbox_drawn  : s.drawn.outbox = s.outbox := rfl
@[simp] theorem State.mem_drawn  : s.drawn.mem = s.mem := rfl
@[simp] theorem State.cfl_drawn  : s.drawn.cfl = s.cfl := rfl
@[simp] theorem State.tags_drawn  : s.drawn.tags = s.tags := rfl
@[simp] theorem State.flips_drawn  : s.drawn.flips = s.flips := rfl
@[simp] theorem State.nougat_drawn  : s.drawn.nougat = s.nougat := rfl
@[simp] theorem State.nss_drawn  : s.drawn.nss = s.nss := rfl
@[simp] theorem State.nsMap_drawn  : s.drawn.nsMap = s.nsMap := rfl
@[simp] theorem State.mgmt_drawn  : s.drawn.mgmt = s.mgmt := rfl
@[simp] theorem State.pow_drawn  : s.drawn.pow = s.pow := rfl
@[simp] theorem State.sec_drawn  : s.drawn.sec = s.sec := rfl
@[simp] theorem State.fab_drawn  : s.drawn.fab = s.fab := rfl
@[simp] theorem State.arb_drawn  : s.drawn.arb = s.arb := rfl
@[simp] theorem State.san_drawn  : s.drawn.san = s.san := rfl
@[simp] theorem State.modLog_drawn  : s.drawn.modLog = s.modLog := rfl
@[simp] theorem State.setAt_drawn  : s.drawn.setAt = s.setAt := rfl
@[simp] theorem State.buffer_drawn  : s.drawn.buffer = s.buffer := rfl
@[simp] theorem State.cwords_drawn  : s.drawn.cwords = s.cwords := rfl
@[simp] theorem State.rootRecs_drawn  : s.drawn.rootRecs = s.rootRecs := rfl
@[simp] theorem State.locks_drawn  : s.drawn.locks = s.locks := rfl
@[simp] theorem State.heldCmds_drawn  : s.drawn.heldCmds = s.heldCmds := rfl
@[simp] theorem State.core_emit (o : Out) (d : CoreId) : (s.emit o).core d = s.core d := rfl
@[simp] theorem State.cluster_emit (o : Out) (d : Fin 32) : (s.emit o).cluster d = s.cluster d := rfl
@[simp] theorem State.part_emit (o : Out) (d : Fin 12) : (s.emit o).part d = s.part d := rfl
@[simp] theorem State.link_emit (o : Out) (d : Fin 36) : (s.emit o).link d = s.link d := rfl
@[simp] theorem State.fn_emit (o : Out) (d : FnId) : (s.emit o).fn d = s.fn d := rfl
@[simp] theorem State.die_emit (o : Out) (d : DieId) : (s.emit o).die d = s.die d := rfl
@[simp] theorem State.chan_emit (o : Out) (d : Fin 64) : (s.emit o).chan d = s.chan d := rfl
@[simp] theorem State.ldpcOf_emit (o : Out) (d : Fin 16) : (s.emit o).ldpcOf d = s.ldpcOf d := rfl
@[simp] theorem State.port_emit (o : Out) (d : Port) : (s.emit o).port d = s.port d := rfl
@[simp] theorem State.injectOf_emit (o : Out) (d : Fin 3) : (s.emit o).injectOf d = s.injectOf d := rfl
@[simp] theorem State.pending_emit (o : Out) : (s.emit o).pending = s.pending := rfl
@[simp] theorem State.time_emit (o : Out) : (s.emit o).time = s.time := rfl
@[simp] theorem State.cycle_emit (o : Out) : (s.emit o).cycle = s.cycle := rfl
@[simp] theorem State.freeCtr_emit (o : Out) : (s.emit o).freeCtr = s.freeCtr := rfl
@[simp] theorem State.variant_emit (o : Out) : (s.emit o).variant = s.variant := rfl
@[simp] theorem State.mem_emit (o : Out) : (s.emit o).mem = s.mem := rfl
@[simp] theorem State.cfl_emit (o : Out) : (s.emit o).cfl = s.cfl := rfl
@[simp] theorem State.tags_emit (o : Out) : (s.emit o).tags = s.tags := rfl
@[simp] theorem State.flips_emit (o : Out) : (s.emit o).flips = s.flips := rfl
@[simp] theorem State.nougat_emit (o : Out) : (s.emit o).nougat = s.nougat := rfl
@[simp] theorem State.nss_emit (o : Out) : (s.emit o).nss = s.nss := rfl
@[simp] theorem State.nsMap_emit (o : Out) : (s.emit o).nsMap = s.nsMap := rfl
@[simp] theorem State.mgmt_emit (o : Out) : (s.emit o).mgmt = s.mgmt := rfl
@[simp] theorem State.pow_emit (o : Out) : (s.emit o).pow = s.pow := rfl
@[simp] theorem State.sec_emit (o : Out) : (s.emit o).sec = s.sec := rfl
@[simp] theorem State.fab_emit (o : Out) : (s.emit o).fab = s.fab := rfl
@[simp] theorem State.arb_emit (o : Out) : (s.emit o).arb = s.arb := rfl
@[simp] theorem State.san_emit (o : Out) : (s.emit o).san = s.san := rfl
@[simp] theorem State.modLog_emit (o : Out) : (s.emit o).modLog = s.modLog := rfl
@[simp] theorem State.setAt_emit (o : Out) : (s.emit o).setAt = s.setAt := rfl
@[simp] theorem State.buffer_emit (o : Out) : (s.emit o).buffer = s.buffer := rfl
@[simp] theorem State.cwords_emit (o : Out) : (s.emit o).cwords = s.cwords := rfl
@[simp] theorem State.rootRecs_emit (o : Out) : (s.emit o).rootRecs = s.rootRecs := rfl
@[simp] theorem State.locks_emit (o : Out) : (s.emit o).locks = s.locks := rfl
@[simp] theorem State.heldCmds_emit (o : Out) : (s.emit o).heldCmds = s.heldCmds := rfl
@[simp] theorem State.core_log (k : LogKind) (d : CoreId) : (s.log k).core d = s.core d := rfl
@[simp] theorem State.cluster_log (k : LogKind) (d : Fin 32) : (s.log k).cluster d = s.cluster d := rfl
@[simp] theorem State.part_log (k : LogKind) (d : Fin 12) : (s.log k).part d = s.part d := rfl
@[simp] theorem State.link_log (k : LogKind) (d : Fin 36) : (s.log k).link d = s.link d := rfl
@[simp] theorem State.fn_log (k : LogKind) (d : FnId) : (s.log k).fn d = s.fn d := rfl
@[simp] theorem State.die_log (k : LogKind) (d : DieId) : (s.log k).die d = s.die d := rfl
@[simp] theorem State.chan_log (k : LogKind) (d : Fin 64) : (s.log k).chan d = s.chan d := rfl
@[simp] theorem State.ldpcOf_log (k : LogKind) (d : Fin 16) : (s.log k).ldpcOf d = s.ldpcOf d := rfl
@[simp] theorem State.port_log (k : LogKind) (d : Port) : (s.log k).port d = s.port d := rfl
@[simp] theorem State.injectOf_log (k : LogKind) (d : Fin 3) : (s.log k).injectOf d = s.injectOf d := rfl
@[simp] theorem State.pending_log (k : LogKind) : (s.log k).pending = s.pending := rfl
@[simp] theorem State.time_log (k : LogKind) : (s.log k).time = s.time := rfl
@[simp] theorem State.cycle_log (k : LogKind) : (s.log k).cycle = s.cycle := rfl
@[simp] theorem State.freeCtr_log (k : LogKind) : (s.log k).freeCtr = s.freeCtr := rfl
@[simp] theorem State.variant_log (k : LogKind) : (s.log k).variant = s.variant := rfl
@[simp] theorem State.outbox_log (k : LogKind) : (s.log k).outbox = s.outbox := rfl
@[simp] theorem State.mem_log (k : LogKind) : (s.log k).mem = s.mem := rfl
@[simp] theorem State.cfl_log (k : LogKind) : (s.log k).cfl = s.cfl := rfl
@[simp] theorem State.tags_log (k : LogKind) : (s.log k).tags = s.tags := rfl
@[simp] theorem State.flips_log (k : LogKind) : (s.log k).flips = s.flips := rfl
@[simp] theorem State.nougat_log (k : LogKind) : (s.log k).nougat = s.nougat := rfl
@[simp] theorem State.nss_log (k : LogKind) : (s.log k).nss = s.nss := rfl
@[simp] theorem State.nsMap_log (k : LogKind) : (s.log k).nsMap = s.nsMap := rfl
@[simp] theorem State.mgmt_log (k : LogKind) : (s.log k).mgmt = s.mgmt := rfl
@[simp] theorem State.pow_log (k : LogKind) : (s.log k).pow = s.pow := rfl
@[simp] theorem State.sec_log (k : LogKind) : (s.log k).sec = s.sec := rfl
@[simp] theorem State.fab_log (k : LogKind) : (s.log k).fab = s.fab := rfl
@[simp] theorem State.arb_log (k : LogKind) : (s.log k).arb = s.arb := rfl
@[simp] theorem State.san_log (k : LogKind) : (s.log k).san = s.san := rfl
@[simp] theorem State.freeCtr_drawn : s.drawn.freeCtr = s.freeCtr + 1 := rfl
@[simp] theorem State.outbox_emit (o : Out) : (s.emit o).outbox = s.outbox ++ [o] := rfl
@[simp] theorem State.modLog_log (k : LogKind) : (s.log k).modLog = s.modLog ++ [k] := rfl
@[simp] theorem State.setAt_log (k : LogKind) : (s.log k).setAt = s.setAt := rfl
@[simp] theorem State.buffer_log (k : LogKind) : (s.log k).buffer = s.buffer := rfl
@[simp] theorem State.cwords_log (k : LogKind) : (s.log k).cwords = s.cwords := rfl
@[simp] theorem State.rootRecs_log (k : LogKind) : (s.log k).rootRecs = s.rootRecs := rfl
@[simp] theorem State.locks_log (k : LogKind) : (s.log k).locks = s.locks := rfl
@[simp] theorem State.heldCmds_log (k : LogKind) : (s.log k).heldCmds = s.heldCmds := rfl

end Sys2Proof.Machine
end

