-- ==== Sys2Proof/Laws/MemoryOps.lean ====
section
/-! SUPPORT. Every operation of the module that writes its memory keeps the canonical form; and where no error is stored and no
injection is armed, a read delivers the bytes of memory and changes nothing, and a write stores its bytes alone. -/

namespace Sys2Proof.Machine

open Sys2Proof

/-! ### What leaves memory alone -/

@[simp] theorem State.mem_setFlips (s : State) (a : Nat) (f : List Flip) : (s.setFlips a f).mem = s.mem := rfl

@[simp] theorem State.mem_dropWriteback (s : State) (b : Nat) : (s.dropWriteback b).mem = s.mem := by
  unfold State.dropWriteback
  split
  · split <;> rfl
  · rfl

@[simp] theorem State.mem_disarm (s : State) (l : List (Fin 3)) : (s.disarm l).mem = s.mem := by
  unfold State.disarm
  induction l generalizing s with
  | nil => rfl
  | cons m l ih => rw [List.foldl_cons, ih, State.mem_updInjectOf]

@[simp] theorem State.mem_count (s : State) (p : Option (Fin 12)) (i n : Nat) : (s.count p i n).mem = s.mem := by
  cases p <;> rfl

@[simp] theorem State.mem_saveMap (s : State) : s.saveMap.mem = s.mem := by
  have f (l : List MapSlot) (p : MapSlot → Unit4K) (t : State) : (l.foldl (fun (t : State) m =>
      match m.since with
      | some _ => t.bufferMeta .mapPage (m.page / 2 ^ 29) (m.page % 2 ^ 29) (p m)
      | none => t) t).mem = t.mem := by
    induction l generalizing t with
    | nil => rfl
    | cons m l ih =>
      rw [List.foldl_cons, ih]
      split <;> rfl
  exact f s.mapCache (fun m => s.mapPage m.page) s

@[simp] theorem State.mem_putRoot (s : State) (a : Nat) (r : RootRec) : (s.putRoot a r).mem = s.mem := by
  simp only [State.putRoot, State.cflStore, State.dropRecords]

@[simp] theorem State.mem_writeRoot (s : State) (b : Bool) : (s.writeRoot b).mem = s.mem := State.mem_putRoot _ _ _

@[simp] theorem State.mem_commitRoot (s : State) : s.commitRoot.mem = s.mem := by
  unfold State.commitRoot
  simp only
  repeat' split
  all_goals simp

@[simp] theorem State.mem_markDevice (s : State) (g dev : Nat) : (s.markDevice g dev).mem = s.mem := by
  unfold State.markDevice
  simp only [State.mem_commitRoot]

@[simp] theorem State.mem_setTag (s : State) (a : Nat) (full : Bool) : (s.setTag a full).mem = s.mem := rfl

/-! ### The canonical form -/

theorem State.wf_storeWord (s : State) (b : Nat) (d : List (Option Byte)) (h : Memory.wf s.mem = true) :
    Memory.wf (s.storeWord b d).1.mem = true := by
  have e := Memory.wf_store s.mem b d h
  have m := State.mem_dropWriteback s b
  unfold State.storeWord
  simp only
  split <;> simpa [m] using e

theorem wf_storeWhole (fuel : Nat) (s : State) (a : Nat) (d : List Byte) (f : List (Fin 3))
    (h : Memory.wf s.mem = true) : Memory.wf (storeWhole fuel s a d f).mem = true := by
  induction fuel generalizing s a d f with
  | zero => rw [storeWhole, State.mem_disarm]; exact h
  | succ n ih =>
    unfold storeWhole
    split
    · rw [State.mem_disarm]; exact h
    · exact ih _ _ _ _ (State.wf_storeWord _ _ _ h)

theorem State.mem_traceHead (t : State) (v : Word) : ({ t with traceHead := v } : State).mem = t.mem := rfl

theorem State.wf_trace (s : State) (k : Nat) (p : Option (Fin 12)) (cl co : Nat) (a1 a2 : Word) (h : Memory.wf s.mem = true) :
    Memory.wf (s.trace k p cl co a1 a2).mem = true := by
  unfold State.trace
  split
  · rw [State.mem_traceHead]
    exact wf_storeWhole 32 s _ _ _ h
  · exact h

theorem State.wf_eccRecord (s : State) (src : EccSource) (k a : Nat) (syn : Word) (dev : Nat) (h : Memory.wf s.mem = true) :
    Memory.wf (s.eccRecord src k a syn dev).mem = true := by
  unfold State.eccRecord
  exact State.wf_trace _ _ _ _ _ _ _ (by rw [State.mem_log]; exact h)

theorem State.wf_eccCount (s : State) (src : EccSource) (a : Nat) (d : Decoded) (h : Memory.wf s.mem = true) :
    Memory.wf (s.eccCount src a d).mem = true := by
  unfold State.eccCount
  cases d.cls with
  | good => exact h
  | data => simpa using h
  | check => simpa using h
  | bad => exact State.wf_eccRecord _ _ _ _ _ _ (by simpa using h)

theorem State.wf_autoMark (s : State) (src : EccSource) (a : Nat) (l : List Decoded) (h : Memory.wf s.mem = true) :
    Memory.wf (s.autoMark src a l).mem = true := by
  unfold State.autoMark
  split
  · split
    · exact State.wf_eccRecord _ _ _ _ _ _ (by simpa using h)
    · exact h
  · exact h

theorem State.wf_rewrite (s : State) (b : Nat) (d : Decoded) (h : Memory.wf s.mem = true) :
    Memory.wf (s.rewrite b d).mem = true := by
  unfold State.rewrite
  rw [State.mem_disarm]
  exact State.wf_storeWord _ _ _ h

theorem State.wf_afterRead (s : State) (src : EccSource) (a : Nat) (d : Decoded) (h : Memory.wf s.mem = true) :
    Memory.wf (s.afterRead src a d).mem = true := by
  have e := State.wf_eccCount s src a d h
  unfold State.afterRead
  cases locate a with
  | d1 => simp only; split; exact State.wf_rewrite _ _ _ e; exact e
  | d2 => simp only; split; exact State.wf_rewrite _ _ _ e; exact e
  | sram cl o => simp only; split <;> simpa using e
  | unpopulated => exact e

/-- What keeps the form in each step of a fold keeps it. -/
theorem wf_foldl {α : Type} (f : State → α → State) (hf : ∀ t x, Memory.wf t.mem = true → Memory.wf (f t x).mem = true)
    (l : List α) (s : State) (h : Memory.wf s.mem = true) : Memory.wf (l.foldl f s).mem = true := by
  induction l generalizing s with
  | nil => exact h
  | cons x l ih => exact ih _ (hf s x h)

theorem State.wf_readRaw (s : State) (src : EccSource) (a n : Nat) (h : Memory.wf s.mem = true) :
    Memory.wf (s.readRaw src a n).st.mem = true := by
  unfold State.readRaw State.afterReads
  simp only
  split
  · exact h
  · exact wf_foldl _ (fun t x ht => State.wf_autoMark _ _ _ _ ht) _ _ (wf_foldl _ (fun t x ht => State.wf_afterRead _ _ _ _ ht) _ _ h)

theorem State.wf_rmwRead (s : State) (b : Nat) (d : Decoded) (h : Memory.wf s.mem = true) :
    Memory.wf (s.rmwRead b d).mem = true := by
  have e := State.wf_eccCount s .rmw b d h
  unfold State.rmwRead
  simp only
  repeat' split
  · exact h
  · exact State.wf_autoMark _ _ _ _ e
  · exact e

theorem State.wf_writeWord (s : State) (b : Nat) (d : List (Option Byte)) (h : Memory.wf s.mem = true) :
    Memory.wf (s.writeWord b d).st.mem = true := by
  have e := State.wf_rmwRead s b (s.decodeAt b) h
  unfold State.writeWord
  split
  · exact h
  · split
    · exact State.wf_storeWord _ _ _ h
    · simp only
      split
      · exact e
      · exact State.wf_storeWord _ _ _ e

theorem wf_writeLoop (fuel : Nat) (s : State) (a : Nat) (d : List (Option Byte)) (h : Memory.wf s.mem = true) :
    Memory.wf (writeLoop fuel s a d).st.mem = true := by
  induction fuel generalizing s a d with
  | zero => exact h
  | succ k ih =>
    unfold writeLoop
    split
    · exact h
    · exact ih _ _ _ (State.wf_writeWord _ _ _ h)

theorem State.wf_writeRaw (s : State) (a : Nat) (d : List (Option Byte)) (h : Memory.wf s.mem = true) :
    Memory.wf (s.writeRaw a d).1.mem = true := by
  unfold State.writeRaw
  rw [State.mem_disarm]
  exact wf_writeLoop _ _ _ _ h

theorem State.mem_fireOnFill (s : State) (a n : Nat) (m : Fin 3) : (s.fireOnFill a n m).mem = s.mem := by
  have f (l : List Nat) (t : State) (j : List Flip) : (l.foldl (fun t w => t.setFlips w j) t).mem = t.mem := by
    induction l generalizing t with
    | nil => rfl
    | cons w l ih => rw [List.foldl_cons, ih, State.mem_setFlips]
  unfold State.fireOnFill
  simp only
  split
  · rfl
  · rw [State.mem_disarm, f]

theorem State.wf_clearRange (s : State) (a n : Nat) (h : Memory.wf s.mem = true) : Memory.wf (s.clearRange a n).mem = true :=
  SMap.wf_filter _ _ _ h

theorem State.wf_zeroFill (s : State) (a n : Nat) (h : Memory.wf s.mem = true) : Memory.wf (s.zeroFill a n).mem = true := by
  unfold State.zeroFill
  rw [State.mem_fireOnFill, State.mem_fireOnFill, State.mem_fireOnFill]
  exact State.wf_clearRange s a n h

theorem State.wf_repairTag (s : State) (a : Nat) (h : Memory.wf s.mem = true) : Memory.wf (s.repairTag a).mem = true := by
  unfold State.repairTag
  simp only
  split
  · exact h
  · exact State.wf_eccCount _ _ _ _ (by simpa using h)

/-- Reset memory has the form. -/
theorem State.wf_reset : Memory.wf State.reset.mem = true := rfl

end Sys2Proof.Machine
end

