-- ==== Sys2Proof/Laws/CleanMemory.lean ====
section
/-! SUPPORT. A memory without stored errors and armed injections: a read delivers the bytes and changes nothing; a write stores the
bytes given and no other. -/

namespace Sys2Proof.Machine

open Sys2Proof

/-! ### Decoding a word that holds no error -/

def cleanWord : Decoded := ⟨.good, 0, 0, none⟩

theorem sramDecode_clean : sramDecode [] = cleanWord := by decide +kernel

theorem d1Decode_clean : d1Decode [] = cleanWord := by decide +kernel

theorem gfMulPow_zero (n poly k : Nat) : gfMulPow n poly k 0 = 0 := by
  induction k with
  | zero => rfl
  | succ k ih =>
    have h : gfStep n poly 0 = 0 := by
      have : 0 < 2 ^ n := Nat.two_pow_pos n
      unfold gfStep
      simp
    rw [gfMulPow, h, ih]

theorem errorAt_clean (p : Nat) : errorAt [] p = 0 := rfl

theorem gf8Mul_zero (y : Nat) : gf8Mul 0 y = 0 := by
  have f (l : List Nat) : l.foldl (fun z i => if y.testBit i then z ^^^ gfMulPow 8 d2Poly i 0 else z) 0 = 0 := by
    induction l with
    | nil => rfl
    | cons i l ih =>
      rw [List.foldl_cons, gfMulPow_zero]
      simpa using ih
  exact f _

theorem d2Decode_clean (marks : List Nat) : d2Decode marks [] = cleanWord := by
  have e : (((List.range 18).filter (fun p => !marks.contains p)).map (fun p => (p, errorAt [] p % 256))).filter
      (fun e => e.2 ≠ 0) = [] := by
    rw [List.filter_eq_nil_iff]
    intro x hx
    obtain ⟨p, -, rfl⟩ := List.mem_map.mp hx
    simp [errorAt_clean]
  unfold d2Decode
  simp only [e, List.map_nil, List.foldl_nil]
  have s (j : Nat) : gfSyndrome 8 d2Poly j [] = 0 := rfl
  match marks with
  | [] => simp [s, cleanWord]
  | [m] => simp [s, gfMulPow_zero, cleanWord]
  | m :: m' :: _ =>
    have r : List.range 256 = 0 :: (List.range 255).map Nat.succ := List.range_succ_eq_map
    simp only [s, gf8Mul_zero, r, Nat.xor_self, List.find?_cons, decide_true]
    simp [cleanWord]

/-- Where no error is stored, every word decodes without one. -/
theorem State.decodeAt_clean (s : State) (a : Nat) (h : s.flips = []) : s.decodeAt a = cleanWord := by
  have f (k : Nat) : SMap.get (fun _ => ([] : List Flip)) s.flips k = [] := by rw [h]; rfl
  unfold State.decodeAt State.flipsAt
  cases locate a with
  | d1 => simp only [f, d1Decode_clean]
  | d2 =>
    have l : s.d2Line a = (List.range 16).map fun _ => cleanWord := by
      simp only [State.d2Line, f, d2Decode_clean]
    have d : d2Devices (s.d2Line a) = [] := by rw [l]; decide +kernel
    have g (b : Nat) : (s.d2Line a).getD b ⟨.good, 0, 0, none⟩ = cleanWord := by
      rw [l, List.map_const', List.getD, List.getElem?_replicate]
      split <;> rfl
    simp only [d2Beat, d, g, List.length_nil]
    rfl
  | sram cl o => simp only [f, sramDecode_clean]
  | unpopulated => simp only [f, sramDecode_clean]

/-! ### Reading -/

theorem maskedBytes_clean (m : Memory) (b i n : Nat) : maskedBytes m b 0 i n = Memory.bytes m (b + i) n := by
  induction n generalizing i with
  | zero => rfl
  | succ n ih =>
    rw [maskedBytes, Memory.bytes, ih, Nat.zero_div]
    simp [Nat.add_assoc]

theorem Memory.bytes_add (m : Memory) (a i j : Nat) : Memory.bytes m a (i + j) = Memory.bytes m a i ++ Memory.bytes m (a + i) j := by
  induction i generalizing a with
  | zero => simp [Memory.bytes]
  | succ i ih =>
    rw [Nat.succ_add, Memory.bytes, Memory.bytes, ih, List.cons_append, show a + 1 + i = a + (i + 1) by omega]

theorem codeSize_pos (a : Nat) : 0 < codeSize a := by
  unfold codeSize
  split <;> decide

theorem State.readLoop_clean (s : State) (fuel a n : Nat) (h : s.flips = []) (hn : n ≤ fuel) :
    (s.readLoop fuel a n).1 = Memory.bytes s.mem a n ∧ ∀ w ∈ (s.readLoop fuel a n).2, w.2 = cleanWord := by
  induction fuel generalizing a n with
  | zero =>
    obtain rfl : n = 0 := Nat.le_zero.mp hn
    exact ⟨rfl, fun w hw => absurd hw List.not_mem_nil⟩
  | succ k ih =>
    unfold State.readLoop
    split
    · rename_i hz
      rw [hz]
      exact ⟨rfl, fun w hw => absurd hw List.not_mem_nil⟩
    · rename_i hz
      have hp := codeSize_pos a
      have hm := Nat.mod_lt a hp
      have hle : a % codeSize a ≤ a := Nat.mod_le _ _
      obtain ⟨i1, i2⟩ := ih (a + min n (codeSize a - a % codeSize a)) (n - min n (codeSize a - a % codeSize a)) (by omega)
      simp only [State.decodeAt_clean s a h]
      refine ⟨?_, fun w hw => ?_⟩
      · rw [i1, show cleanWord.mask = 0 from rfl, maskedBytes_clean]
        have : a - a % codeSize a + a % codeSize a = a := Nat.sub_add_cancel hle
        rw [this, ← Memory.bytes_add]
        have : min n (codeSize a - a % codeSize a) + (n - min n (codeSize a - a % codeSize a)) = n := by omega
        rw [this]
      · rcases List.mem_cons.mp hw with e | e
        · rw [e]
        · exact i2 w e

/-- A read of a memory without errors delivers its bytes and changes nothing. -/
theorem State.readRaw_clean (s : State) (src : EccSource) (a n : Nat) (h : s.flips = []) :
    s.readRaw src a n = ⟨s, Memory.bytes s.mem a n, []⟩ := by
  obtain ⟨h1, h2⟩ := State.readLoop_clean s n a n h (Nat.le_refl n)
  have hb : badWords (s.readLoop n a n).2 = [] := by
    unfold badWords
    rw [List.filter_eq_nil_iff.mpr fun w hw => by rw [h2 w hw]; decide]
    rfl
  unfold State.readRaw State.afterReads
  simp only [h1, hb, h, List.isEmpty_nil, if_true]

theorem State.readMem_clean (s : State) (a n : Nat) (h : s.flips = []) :
    s.readMem a n = ⟨s, Memory.bytes s.mem a n, []⟩ := by
  unfold State.readMem
  rw [State.readRaw_clean s _ a n h]
  rfl

/-! ### Writing -/

/-- What byte x holds after bytes d are stored from a on. -/
def storedByte (m : Memory) (a : Nat) (d : List (Option Byte)) (x : Nat) : Byte :=
  if a ≤ x then
    match d[x - a]? with
    | some (some v) => v
    | _ => m.byte x
  else m.byte x

theorem Memory.byte_store (m : Memory) (a : Nat) (d : List (Option Byte)) (x : Nat) :
    (m.store a d).byte x = storedByte m a d x := by
  induction d generalizing m a with
  | nil =>
    unfold storedByte Memory.store
    split <;> rfl
  | cons y d ih =>
    have step (m' : Memory) (hx : x ≠ a → m'.byte x = m.byte x) (hy : x = a → m'.byte x = y.getD (m.byte a)) :
        storedByte m' (a + 1) d x = storedByte m a (y :: d) x := by
      unfold storedByte
      by_cases h : x = a
      · subst h
        rw [if_neg (by omega), if_pos (Nat.le_refl _), Nat.sub_self, hy rfl]
        cases y <;> rfl
      · by_cases h2 : a ≤ x
        · have e : x - a = (x - (a + 1)) + 1 := by omega
          rw [if_pos (show a + 1 ≤ x by omega), if_pos h2, e, List.getElem?_cons_succ, hx h]
        · rw [if_neg (by omega), if_neg h2, hx h]
    cases y with
    | none =>
      rw [Memory.store, ih]
      exact step m (fun _ => rfl) (fun h => by rw [h]; rfl)
    | some b =>
      rw [Memory.store, ih]
      exact step _ (fun h => Memory.byte_put_other m a x b h) (fun h => by rw [h]; exact Memory.byte_put_same m a b)

theorem mergeWord_get (m : Memory) (b i : Nat) (d : List (Option Byte)) (j : Nat) :
    (mergeWord m b 0 i d)[j]? = (d[j]?).map fun y => some (y.getD (m.byte (b + i + j))) := by
  induction d generalizing i j with
  | nil => cases j <;> rfl
  | cons y d ih =>
    cases j with
    | zero => cases y <;> simp [mergeWord]
    | succ j => cases y <;> simp [mergeWord, ih, show b + (i + 1) + j = b + i + (j + 1) by omega]

/-- Merging a word that holds no error stores what is given and leaves the rest. -/
theorem storedByte_merge (m : Memory) (b : Nat) (d : List (Option Byte)) (x : Nat) :
    storedByte m b (mergeWord m b 0 0 d) x = storedByte m b d x := by
  unfold storedByte
  split
  · rename_i h
    rw [mergeWord_get]
    cases d[x - b]? with
    | none => rfl
    | some y =>
      cases y with
      | none => simp [Nat.add_sub_cancel' h]
      | some v => rfl
  · rfl

/-- No error is stored and no injection armed. -/
def State.clean (s : State) : Prop := s.flips = [] ∧ s.inject = []

/-- A store of d from a on and nothing else, but for write-backs that it abandons. -/
def stored (s t : State) (a : Nat) (d : List (Option Byte)) : Prop :=
  (∀ x, Memory.byte t.mem x = storedByte s.mem a d x) ∧ { t with mem := s.mem, clusters := s.clusters } = s ∧
    ∀ cl, { t.cluster cl with writebacks := (s.cluster cl).writebacks } = s.cluster cl

theorem State.injectionAt_clean (s : State) (a : Nat) (h : s.inject = []) : s.injectionAt a = none := by
  have f (m : Fin 3) : s.injectOf m = {} := by
    unfold State.injectOf
    rw [h]
    rfl
  unfold State.injectionAt
  cases locate a <;> simp [f]

theorem State.dropWriteback_stored (s : State) (b : Nat) : ∃ c, s.dropWriteback b = { s with clusters := c } ∧
    ∀ cl, { (s.dropWriteback b).cluster cl with writebacks := (s.cluster cl).writebacks } = s.cluster cl := by
  unfold State.dropWriteback
  split
  · rename_i c o _
    split
    · refine ⟨_, rfl, fun cl => ?_⟩
      by_cases e : cl = c
      · subst e
        simp
      · rw [State.cluster_updCluster_other _ _ _ _ e]
    · exact ⟨_, rfl, fun _ => rfl⟩
  · exact ⟨_, rfl, fun _ => rfl⟩

theorem State.storeWord_clean (s : State) (b : Nat) (d : List (Option Byte)) (h : s.clean) :
    (s.storeWord b d).2 = [] ∧ stored s (s.storeWord b d).1 b d := by
  obtain ⟨c, h1, h2⟩ := State.dropWriteback_stored s b
  have k : SMap.set (fun _ => ([] : List Flip)) [] (b / codeSize b) [] = [] := by simp [SMap.set, SMap.del]
  have e : s.storeWord b d = ({ s with clusters := c, mem := Memory.store s.mem b d }, []) := by
    have hi := State.injectionAt_clean (s.dropWriteback b) b (by rw [h1]; exact h.2)
    unfold State.storeWord
    simp only [hi]
    rw [h1]
    unfold State.setFlips
    simp only [h.1, k]
  rw [h1] at h2
  rw [e]
  exact ⟨rfl, fun x => Memory.byte_store s.mem b d x, rfl, h2⟩

theorem stored_clean {s t : State} {a : Nat} {d : List (Option Byte)} (h : stored s t a d) (c : s.clean) : t.clean := by
  have e := h.2.1
  have f1 := congrArg State.flips e
  have f2 := congrArg State.inject e
  exact ⟨Eq.trans f1 c.1, Eq.trans f2 c.2⟩

theorem stored_trans {s t u : State} {a b c : Nat} {d e f : List (Option Byte)} (h : stored s t a d) (g : stored t u b e)
    (hx : ∀ x, storedByte t.mem b e x = storedByte s.mem c f x) : stored s u c f := by
  refine ⟨fun x => (g.1 x).trans (hx x), ?_, fun cl => ?_⟩
  · have e1 := h.2.1
    have e2 := congrArg (fun v : State => { v with mem := s.mem, clusters := s.clusters }) g.2.1
    exact e2.trans e1
  · have e1 := h.2.2 cl
    have e2 := congrArg (fun v : Cluster => { v with writebacks := (s.cluster cl).writebacks }) (g.2.2 cl)
    exact e2.trans e1

theorem storedByte_none (m : Memory) (a : Nat) (d : List (Option Byte)) (x : Nat) (h : ∀ y ∈ d, y = none) :
    storedByte m a d x = m.byte x := by
  unfold storedByte
  split
  · cases e : d[x - a]? with
    | none => rfl
    | some y =>
      obtain rfl := h y (List.mem_of_getElem? e)
      rfl
  · rfl

theorem stored_none (s : State) (a : Nat) (d : List (Option Byte)) (h : ∀ y ∈ d, y = none) : stored s s a d :=
  ⟨fun x => (storedByte_none s.mem a d x h).symm, rfl, fun _ => rfl⟩

theorem State.writeWord_clean (s : State) (b : Nat) (d : List (Option Byte)) (h : s.clean) :
    (s.writeWord b d).ues = [] ∧ (s.writeWord b d).fired = [] ∧ stored s (s.writeWord b d).st b d := by
  have hf : s.rmwRead b (s.decodeAt b) = s := by simp [State.rmwRead, h.1]
  unfold State.writeWord
  split
  · rename_i e
    refine ⟨rfl, rfl, stored_none s b d fun y hy => ?_⟩
    have := List.all_eq_true.mp e y hy
    simpa using this
  · split
    · exact ⟨rfl, State.storeWord_clean s b d h⟩
    · simp only [hf]
      simp only [State.decodeAt_clean s b h.1, cleanWord, reduceCtorEq, if_false]
      obtain ⟨e1, e2, e3⟩ := State.storeWord_clean s b (mergeWord s.mem b 0 0 d) h
      exact ⟨trivial, e1, fun x => (e2 x).trans (storedByte_merge s.mem b d x), e3⟩

/-- Storing a part, then the rest. -/
theorem storedByte_append (m m' : Memory) (a i j k : Nat) (d : List (Option Byte)) (hk : k ≤ d.length) (hi : i ≤ a)
    (hm : ∀ x, m'.byte x = storedByte m (a - i) (List.replicate i none ++ d.take k ++ List.replicate j none) x) (x : Nat) :
    storedByte m' (a + k) (d.drop k) x = storedByte m a d x := by
  have first : m'.byte x = if a ≤ x ∧ x < a + k then (match d[x - a]? with
      | some (some v) => v
      | _ => m.byte x) else m.byte x := by
    rw [hm x]
    unfold storedByte
    by_cases h1 : a ≤ x ∧ x < a + k
    · rw [if_pos h1, if_pos (by omega), List.append_assoc, List.getElem?_append_right (by simp; omega), List.length_replicate,
        List.getElem?_append_left (by rw [List.length_take]; omega), List.getElem?_take, if_pos (by omega),
        show x - (a - i) - i = x - a by omega]
    · rw [if_neg h1]
      split
      · rename_i h2
        by_cases h3 : x < a
        · rw [List.append_assoc, List.getElem?_append_left (by simp; omega), List.getElem?_replicate, if_pos (by omega)]
        · rw [List.getElem?_append_right (by simp; omega), List.getElem?_replicate]
          by_cases h4 : x - (a - i) - (List.replicate i none ++ List.take k d).length < j
          · rw [if_pos h4]
          · rw [if_neg h4]
      · rfl
  unfold storedByte
  by_cases h1 : a + k ≤ x
  · rw [if_pos h1, if_pos (show a ≤ x by omega), List.getElem?_drop, show k + (x - (a + k)) = x - a by omega, first, if_neg (by omega)]
  · rw [if_neg h1, first]
    by_cases h2 : a ≤ x
    · rw [if_pos ⟨h2, by omega⟩, if_pos h2]
    · rw [if_neg (by omega), if_neg h2]

theorem writeLoop_clean (fuel : Nat) (s : State) (a : Nat) (d : List (Option Byte)) (h : s.clean) (hn : d.length ≤ fuel) :
    (writeLoop fuel s a d).ues = [] ∧ (writeLoop fuel s a d).fired = [] ∧ stored s (writeLoop fuel s a d).st a d := by
  induction fuel generalizing s a d with
  | zero =>
    obtain rfl : d = [] := List.eq_nil_of_length_eq_zero (Nat.le_zero.mp hn)
    exact ⟨rfl, rfl, stored_none s a [] fun y hy => absurd hy (List.not_mem_nil)⟩
  | succ n ih =>
    cases d with
    | nil => exact ⟨rfl, rfl, stored_none s a [] fun y hy => absurd hy (List.not_mem_nil)⟩
    | cons y d =>
      have hp := codeSize_pos a
      have hm := Nat.mod_lt a hp
      have hle : a % codeSize a ≤ a := Nat.mod_le _ _
      obtain ⟨k, hk⟩ : ∃ k, k = min (y :: d).length (codeSize a - a % codeSize a) := ⟨_, rfl⟩
      have hk1 : 1 ≤ k := by rw [hk, List.length_cons]; omega
      have hk2 : k ≤ (y :: d).length := by omega
      obtain ⟨w, hw⟩ : ∃ w, w = s.writeWord (a - a % codeSize a) (List.replicate (a % codeSize a) none ++ (y :: d).take k ++
        List.replicate (codeSize a - a % codeSize a - k) none) := ⟨_, rfl⟩
      have c := State.writeWord_clean s (a - a % codeSize a) (List.replicate (a % codeSize a) none ++ (y :: d).take k ++
        List.replicate (codeSize a - a % codeSize a - k) none) h
      rw [← hw] at c
      obtain ⟨c1, c2, c3⟩ := c
      obtain ⟨r1, r2, r3⟩ := ih w.st (a + k) ((y :: d).drop k) (stored_clean c3 h)
        (by rw [List.length_drop]; rw [List.length_cons] at *; omega)
      have e : writeLoop (n + 1) s a (y :: d) = ⟨(writeLoop n w.st (a + k) ((y :: d).drop k)).st,
          w.ues ++ (writeLoop n w.st (a + k) ((y :: d).drop k)).ues, w.fired ++ (writeLoop n w.st (a + k) ((y :: d).drop k)).fired⟩ := by
        rw [hw, hk]
        rfl
      rw [e]
      refine ⟨by simp [c1, r1], by simp [c2, r2], stored_trans c3 r3 fun x => ?_⟩
      exact storedByte_append s.mem w.st.mem a _ _ k (y :: d) hk2 hle c3.1 x

/-- A write to a memory without errors and armed injections stores its bytes and no other. -/
theorem State.writeRaw_clean (s : State) (a : Nat) (d : List (Option Byte)) (h : s.clean) :
    (s.writeRaw a d).2 = [] ∧ stored s (s.writeRaw a d).1 a d := by
  obtain ⟨h1, h2, h3⟩ := writeLoop_clean d.length s a d h (Nat.le_refl _)
  unfold State.writeRaw
  simp only [h1, h2]
  exact ⟨trivial, h3⟩

theorem State.writeMem_clean (s : State) (a : Nat) (d : List (Option Byte)) (h : s.clean) : stored s (s.writeMem a d) a d := by
  obtain ⟨h1, h2⟩ := State.writeRaw_clean s a d h
  unfold State.writeMem
  simp only [h1]
  exact h2

end Sys2Proof.Machine
end

