-- ==== Sys2Proof/Laws/Exceptions.lean ====
section
/-! SUPPORT. Taking an exception, case by case: to the handler, to FAULTED, or recorded while the core halts (02 R60 to R65). -/

namespace Sys2Proof.Machine

open Sys2Proof

theorem Core.record_handler (k : Core) (cause : Byte) (addr : Option Nat) (pc : W32) :
    (k.record cause addr pc).handler = k.handler ∧ (k.record cause addr pc).inHandler = k.inHandler ∧
      (k.record cause addr pc).cause = cause ∧ (k.record cause addr pc).excPc = pc := ⟨rfl, rfl, rfl, rfl⟩

/-- What a delivery in a cycle remembers of the core, for a halt request of the same cycle (02 R65). -/
def State.deliveryOf (s : State) (c : CoreId) (ev : BitVec 4) : Delivered :=
  { cycle := s.cycle, mode := (s.core c).mode, pc := (s.core c).pc, inHandler := (s.core c).inHandler
    event := s.newEvents c.cl ev, report := ev }

/-- A core with a handler, outside it, that is not halting enters its handler. -/
theorem State.takeException_handler (s : State) (c : CoreId) (cause : Byte) (addr : Option Nat)
    (hc : cause ≠ 0x0F) (hi : (s.core c).inHandler = false) (hh : (s.core c).handler ≠ 0) (hr : (s.core c).haltReq = false) :
    (s.takeException c cause addr).core c = { (s.core c).record cause addr (s.core c).pc with
      mode := .running, excPending := false, pc := (s.core c).handler, inHandler := true
      delivered := some (s.deliveryOf c 0) } := by
  obtain ⟨h1, h2, h3, -⟩ := Core.record_handler (s.core c) cause addr (s.core c).pc
  unfold State.takeException
  simp only [hr, Bool.false_eq_true, if_false]
  unfold State.deliver
  simp only [State.core_setCore_same, h1, h2, h3]
  rw [if_neg (by simp only [hi, Bool.or_false, Bool.or_eq_true, decide_eq_true_eq, not_or]; exact ⟨hc, hh⟩), State.core_setCore_same]
  rfl

/-- Events set no register of a core. -/
@[simp] theorem State.core_clusterEvent (s : State) (cl : Fin 32) (ev : BitVec 4) (c : CoreId) :
    (s.clusterEvent cl ev).core c = s.core c := by
  have f (l : List (Fin 4)) (t : State) : (l.foldl (fun (t : State) b =>
      if ev.getLsbD b.val then t.setBit (.event cl b) else t) t).core c = t.core c := by
    induction l generalizing t with
    | nil => rfl
    | cons b l ih =>
      rw [List.foldl_cons, ih]
      split <;> rfl
  unfold State.clusterEvent
  exact f _ _

/-- The events of a fault: bit 1, and bit 0 beside it for a machine check. -/
def faultEvents (cause : Byte) : BitVec 4 := if cause = 0x0F then evMachine ||| evCore else evCore

/-- Without a handler, or inside it, the core is faulted. -/
theorem State.takeException_faulted (s : State) (c : CoreId) (cause : Byte) (addr : Option Nat)
    (hi : (s.core c).inHandler = true ∨ (s.core c).handler = 0) (hr : (s.core c).haltReq = false) :
    (s.takeException c cause addr).core c = { (s.core c).record cause addr (s.core c).pc with
      mode := .faulted, excPending := false, haltReq := false, wait := none
      delivered := some (s.deliveryOf c (faultEvents cause)) } := by
  obtain ⟨h1, h2, h3, -⟩ := Core.record_handler (s.core c) cause addr (s.core c).pc
  unfold State.takeException
  simp only [hr, Bool.false_eq_true, if_false]
  unfold State.deliver
  simp only [State.core_setCore_same, h1, h2, h3]
  rw [if_pos (by rcases hi with e | e <;> simp [e])]
  rw [State.core_clusterEvent, State.core_setCore_same]
  rfl

/-- Where the core is halting, the exception is recorded and pending. -/
theorem State.takeException_halting (s : State) (c : CoreId) (cause : Byte) (addr : Option Nat) (hr : (s.core c).haltReq = true) :
    (s.takeException c cause addr).core c = { (s.core c).record cause addr (s.core c).pc with excPending := true } := by
  unfold State.takeException
  simp [hr]

end Sys2Proof.Machine
end

