-- ==== Sys2Proof/Laws/Host.lean ====
section
/-! SUPPORT. What a host command comes to: taken at once by a controller that serves, held or ignored otherwise; and what posting a
completion changes. -/

namespace Sys2Proof.Machine

open Sys2Proof

/-- A command that finds its controller serving, the processors running and no power state in its way is taken. -/
theorem State.hostCmd_taken (s : State) (h : Hdr) (i : Instr) (compute : Bool) (f : State → State) (hs : s.serves h.fn = true)
    (hh : s.mgmt.halted = false) (hm : s.pow.move = none) (hp : s.pow.pstate.val < 3)
    (hc : compute = true → s.pow.compute = .ready ∧ s.pow.pstate = 0) : s.hostCmd h i compute f = f s := by
  have h3 : ¬ s.pow.pstate ≥ 3 := by
    intro e
    have e1 : ((3 : Fin 5) : Nat) ≤ s.pow.pstate.val := e
    have e2 : ((3 : Fin 5) : Nat) = 3 := rfl
    omega
  unfold State.hostCmd
  rw [if_neg (by simp [hs]), if_neg (by simp [hh]), if_neg (by simp [hm, h3])]
  cases compute with
  | false => simp
  | true =>
    obtain ⟨c1, c2⟩ := hc rfl
    simp [c1, c2]

/-- A controller that does not serve takes no command. -/
theorem State.hostCmd_ignored (s : State) (h : Hdr) (i : Instr) (compute : Bool) (f : State → State) (hs : s.serves h.fn = false) :
    s.hostCmd h i compute f = s := by
  simp [State.hostCmd, hs]

/-- Processors that a debugger halted leave a command waiting (19 R449). -/
theorem State.hostCmd_halted (s : State) (h : Hdr) (i : Instr) (compute : Bool) (f : State → State) (hs : s.serves h.fn = true)
    (hh : s.mgmt.halted = true) : s.hostCmd h i compute f = s.hold (.wakeWait i) := by
  simp [State.hostCmd, hs, hh]

/-- An owner's command on a physical function. -/
theorem State.ownerCmd_pf (s : State) (p : Port) (sq cid : BitVec 16) (i : Instr) (compute : Bool) (f : State → State) :
    s.ownerCmd ⟨.pf p, sq, cid⟩ i compute f = s.hostCmd ⟨.pf p, sq, cid⟩ i compute f := rfl

/-- On a virtual function it is an invalid opcode (16 R350). -/
theorem State.ownerCmd_vf (s : State) (v : Fin 1024) (sq cid : BitVec 16) (i : Instr) (compute : Bool) (f : State → State) :
    s.ownerCmd ⟨.vf v, sq, cid⟩ i compute f = s.hostCmd ⟨.vf v, sq, cid⟩ i compute fun t => t.generic ⟨.vf v, sq, cid⟩ 0x01 := rfl

/-- An I/O command is admitted by its window and counted in it, or waits for the next (16 R357). -/
theorem State.hostIo_eq (s : State) (h : Hdr) (i : Instr) (n : Nat) (compute : Bool) (f : State → State) :
    s.hostIo h i n compute f = s.hostCmd h i compute fun t =>
      if t.qosRoll.withinQos h.fn n then f (t.qosRoll.enterQos h.fn n) else t.qosRoll.holdQos h.fn i n := rfl

/-- A completion posted: it leaves, its vector is signalled, and the time of the last command is now. -/
def State.posted (s : State) (h : Hdr) (sct sc : Byte) (v : W32) : State :=
  { (s.updFn h.fn (Fn.interrupt h.sq)).emit (.completion h sct sc v) with cmdAt := s.time }

theorem State.okay_eq (s : State) (h : Hdr) (v : W32) : s.okay h v = s.posted h 0 0 v := by
  simp [State.okay, State.complete, State.posted]

/-- A completion that fails enters the error log. -/
theorem State.complete_fails (s : State) (h : Hdr) (sct sc : Byte) (v : W32) (e : ¬ (sct = 0 ∧ sc = 0)) :
    s.complete h sct sc v = { s.posted h sct sc v with errLog := ((h, sct, sc) :: s.errLog).take 256 } := by
  unfold State.complete
  rw [if_neg (by simpa using e)]
  rfl

@[simp] theorem State.outbox_posted (s : State) (h : Hdr) (sct sc : Byte) (v : W32) :
    (s.posted h sct sc v).outbox = s.outbox ++ [.completion h sct sc v] := rfl
@[simp] theorem State.mem_posted (s : State) (h : Hdr) (sct sc : Byte) (v : W32) : (s.posted h sct sc v).mem = s.mem := rfl
@[simp] theorem State.cmdAt_posted (s : State) (h : Hdr) (sct sc : Byte) (v : W32) : (s.posted h sct sc v).cmdAt = s.time := rfl

end Sys2Proof.Machine
end

