-- ==== Sys2Proof/Laws/Issue.lean ====
section
/-! SUPPORT. Issue of a sliver instruction: what it comes to once the core issues it, and when it leaves the state alone. -/

namespace Sys2Proof.Machine

open Sys2Proof

/-- An instruction that its core issues acts on the state its fetch leaves. -/
theorem State.issue_ready (s : State) (c : CoreId) (n : Nat) (srcs dsts : List Reg) (f : State → Core → Act)
    (hi : s.issues c = true) (hp : fetchable c (s.core c).pc = true)
    (hq : (n == 4 || fetchable c ((s.core c).pc + 4)) = true)
    (hu : (s.readMem (clusterAddr c.cl (s.core c).pc.toNat) n).ues.isEmpty = true)
    (hs : srcs.all (fun r => !(s.core c).awaits r) = true) (hd : dsts.all (fun r => !(s.core c).awaits r) = true) :
    s.issue c n true srcs dsts f =
      (s.readMem (clusterAddr c.cl (s.core c).pc.toNat) n).st.perform c n
        (f (s.readMem (clusterAddr c.cl (s.core c).pc.toNat) n).st
          ((s.readMem (clusterAddr c.cl (s.core c).pc.toNat) n).st.core c)) := by
  have ha : srcs.any (s.core c).awaits = false := by
    rw [List.any_eq_false]
    intro r hr
    have := List.all_eq_true.mp hs r hr
    simpa using this
  have hb : dsts.any (s.core c).awaits = false := by
    rw [List.any_eq_false]
    intro r hr
    have := List.all_eq_true.mp hd r hr
    simpa using this
  have hq' : (decide (n = 4) || fetchable c ((s.core c).pc + 4)) = true := by
    simpa using hq
  unfold State.issue
  simp only [hi, hp, hq', hu, ha, hb, Bool.true_and, if_true, Bool.not_true, Bool.or_false, Bool.false_eq_true, if_false]

/-- A core that does not issue leaves the state as it is. -/
theorem State.issue_idle (s : State) (c : CoreId) (n : Nat) (legal : Bool) (srcs dsts : List Reg) (f : State → Core → Act)
    (h : s.issues c = false) : s.issue c n legal srcs dsts f = .next s := by
  simp [State.issue, h]

/-- The core of a completed instruction. -/
theorem State.go_core (t : State) (c : CoreId) (n : Nat) (k : Core) :
    (((t.setCore c k).advance c n).retire c).core c =
      { k with pc := k.pc + BitVec.ofNat 32 n, retired := k.retired + 1 } := by
  simp [State.advance, State.retire]

theorem State.go_other (t : State) (c d : CoreId) (n : Nat) (k : Core) (h : d ≠ c) :
    (((t.setCore c k).advance c n).retire c).core d = t.core d := by
  simp [State.advance, State.retire, State.core_updCore_other _ _ _ _ h, State.core_setCore_other _ _ _ _ h]

/-- Writing a core changes nothing but the cores. -/
theorem State.setCore_rest (s t : State) (c : CoreId) (k : Core) (h : { t with cores := s.cores } = s) :
    { t.setCore c k with cores := s.cores } = s := h

theorem State.go_rest (t : State) (c : CoreId) (n : Nat) (k : Core) :
    { ((t.setCore c k).advance c n).retire c with cores := t.cores } = t :=
  State.setCore_rest t _ c _ (State.setCore_rest t _ c _ (State.setCore_rest t t c k rfl))

end Sys2Proof.Machine
end

