-- ==== Sys2Proof/Laws/Rings.lean ====
section
/-! SUPPORT. Reading the entry at a ring's head: what makes it answer the words, and when there is nothing to take. -/

namespace Sys2Proof.Machine

open Sys2Proof

/-- An empty ring, or a cluster that does not run, has nothing to take. -/
theorem State.ringEntry_nothing (s : State) (cl : Fin 32) (r : RingId) (mine : List Word → Bool)
    (h : ((s.cluster cl).ring r).isEmpty = true ∨ (s.cluster cl).pstate ≠ 0 ∨ (s.cluster cl).zeroising = true) :
    s.ringEntry cl r mine = .nothing := by
  have e : (((s.cluster cl).ring r).isEmpty || decide ((s.cluster cl).pstate ≠ 0) || (s.cluster cl).zeroising) = true := by
    rcases h with h | h | h
    · rw [h]; rfl
    · rw [decide_eq_true h]; simp
    · rw [h]; simp
  unfold State.ringEntry
  simp only
  rw [if_pos (by simpa using e)]

/-- A waiting entry of a running cluster, read without errors, whose completion slot is good. -/
theorem State.ringEntry_words (s : State) (cl : Fin 32) (r : RingId) (mine : List Word → Bool)
    (he : ((s.cluster cl).ring r).isEmpty = false) (hp : (s.cluster cl).pstate = 0) (hz : (s.cluster cl).zeroising = false)
    (hf : s.flips = [])
    (hm : mine (toWords 8 (Memory.bytes s.mem (clusterAddr cl (((s.cluster cl).ring r).base.toNat +
      64 * ((s.cluster cl).ring r).head.toNat)) 64)) = true)
    (hc : complOk (bits ((toWords 8 (Memory.bytes s.mem (clusterAddr cl (((s.cluster cl).ring r).base.toNat +
      64 * ((s.cluster cl).ring r).head.toNat)) 64)).getD 0 0) 63 32) = true) :
    s.ringEntry cl r mine = .words s (toWords 8 (Memory.bytes s.mem (clusterAddr cl (((s.cluster cl).ring r).base.toNat +
      64 * ((s.cluster cl).ring r).head.toNat)) 64)) := by
  unfold State.ringEntry
  simp only [State.readMem_clean s _ 64 hf]
  rw [if_neg (by simp [he, hp, hz]), if_neg (by simp), if_neg (by simp [hm]), if_neg (by simp only [hc]; decide)]

/-- Taking an entry moves the ring's head and nothing else. -/
theorem State.takeEntry_cluster (s : State) (cl : Fin 32) (r : RingId) :
    (s.takeEntry cl r).cluster cl = (s.cluster cl).setRing r ((s.cluster cl).ring r).step := by
  simp [State.takeEntry]

theorem State.takeEntry_other (s : State) (cl d : Fin 32) (r : RingId) (h : d ≠ cl) :
    (s.takeEntry cl r).cluster d = s.cluster d := by
  unfold State.takeEntry
  rw [State.cluster_updCluster_other _ _ _ _ h]

end Sys2Proof.Machine
end

