-- ==== Sys2Proof/Laws/Step.lean ====
section
/-! SUPPORT. What a step comes to: the front command with the queue's rest, or a tick. -/

namespace Sys2Proof.Machine

open Sys2Proof

theorem step_cons (s : State) (i : Instr) (rest : List Instr) (h : s.pending = i :: rest) :
    step s = exec i { s with pending := rest } := by
  unfold step
  rw [h]

theorem step_nil (s : State) (h : s.pending = []) : step s = .next (tick s) := by
  unfold step
  rw [h]

/-- The table gives no row any bits, so a word spells no command. -/
theorem withFetchWord_eq (s : State) (nbits w : Nat) : s.withFetchWord nbits w = s := rfl

end Sys2Proof.Machine
end

