-- ==== Sys2Proof/Safety.lean ====
section
/-! DEFINITION. What counts as a safe run: a step that answers a next state (no command of this model stops). -/

namespace Sys2Proof

open Sys2Proof.Machine

/-- The step at s answers a next state. -/
def Safe (s : State) : Prop := ∃ t, step s = .next t

end Sys2Proof
end

