-- ==== Sys2Proof/Tests/Slice0.lean ====
section
/-! SUPPORT. The author's own tests: ill-formed terms are refused, words written out from the spec decode to their
instructions, the spec's worked examples, single steps on small states, and, for each statement of Obligations.lean, states
and operands that meet the hypotheses of its clauses (the theorems named witness). -/

namespace Sys2Proof.Tests

open Sys2Proof Sys2Proof.Machine Sys2Proof.Claims

set_option Elab.async false

/-! ### Small states -/

def c0 : CoreId := ⟨0, 0⟩
def c1 : CoreId := ⟨0, 1⟩
def k0 : Core := Core.reset 0

/-- Core 0 of cluster 0 is k, running at the start of its instruction memory. -/
def at0 (k : Core) : State := State.reset.setCore c0 { k with mode := .running, pc := 0x03000000 }

/-- k0 with scalar register 1 holding v. -/
def s1 (v : Word) : Core := k0.setS 1 v

/-- The state an outcome goes on with. -/
def out (s : State) (r : Host.Outcome State Fault Refusal) : State :=
  match r with
  | .next t => t
  | _ => s

/-- The state after a command. -/
def after (i : Instr) (s : State) : State := out s (exec i s)

/-- Whether a command's outcome is a next state that is s itself. -/
def same (i : Instr) (s : State) : Bool :=
  match exec i s with
  | .next t => t == s
  | _ => false

/-! ### Well-formed commands -/

/-- 03 Table 3-4: CLZ with a nonzero rb. -/
theorem test_wf_alu : Instr.wellFormed (.alu c0 .clz 1 2 3) = false := by decide

/-- 03 Table 3-5: SHIFTI with a bit of imm16[15:8] set. -/
theorem test_wf_shifti : Instr.wellFormed (.shifti c0 1 2 0x8001) = false := by decide

/-- 03 R88: a register index that is not a multiple of 8. -/
theorem test_wf_csrr : Instr.wellFormed (.csrr c0 1 0xF001) = false := by decide

theorem test_wf_csrw : Instr.wellFormed (.csrw c0 1 0xF004) = false := by decide

/-- 03 Table 3-11: VPOPC names a vb. -/
theorem test_wf_vint : Instr.wellFormed (.vint c0 .vpopc .b1 1 2 3 ⟨false, 0, false⟩) = false := by decide

/-- 03 Table 3-12: VFABS names a vb. -/
theorem test_wf_vfp : Instr.wellFormed (.vfp c0 .vfabs 1 2 3 ⟨false, 0, false⟩) = false := by decide

/-- 03 Table 3-13: H is 1 in a conversion of whole vectors. -/
theorem test_wf_vcvt : Instr.wellFormed (.vcvt c0 .f32i32 true 1 2 ⟨false, 0, false⟩) = false := by decide

/-- 03 R93: a floating-point comparison of two-byte elements. -/
theorem test_wf_vcmp : Instr.wellFormed (.vcmp c0 .feq .b2 1 2 3 ⟨false, 0, false⟩) = false := by decide

/-- 03 R95: a floating-point reduction of eight-byte elements. -/
theorem test_wf_vred : Instr.wellFormed (.vred c0 .fsum .b8 1 2 false 0) = false := by decide

/-- 03 R97: a predicate field of 8. -/
theorem test_wf_pred : Instr.wellFormed (.pred c0 .pand 8 1 2) = false := by decide

theorem test_wf_good : (Instr.wellFormed (.alu c0 .clz 1 2 0) && Instr.wellFormed (.pred c0 .pfroms 7 31 0) &&
    Instr.wellFormed (.vcmp c0 .feq .b4 1 2 3 ⟨true, 7, true⟩)) = true := by decide

/-! ### Words of sliver instructions, written out from the spec -/

/-- The table gives no row any bits. -/
theorem test_decodeTableWord : decodeTableWord 32 0x08A3FFF4 = none := by decide

/-- 03, worked example: ADDI s5, s3, -12. -/
theorem test_decode_addi : sliverDecode c0 0x08A3FFF4 0 = .addi c0 .addi 5 3 (-12) := by decide

/-- 03, worked example: VFMA v2, v4, v6 under p1 with merging. -/
theorem test_decode_vfma : sliverDecode c0 0x8491A403 0 = .vfp c0 .vfma 2 4 6 ⟨true, 1, false⟩ := by decide

/-- 04, worked example: SKDIST v3, v1, v2 at width 512. -/
theorem test_decode_skdist : sliverDecode c0 0xD0611003 0 = .skdist c0 false 3 3 1 2 := by decide

/-- 04, worked example: TISSUE v5 with three command words. -/
theorem test_decode_tissue : sliverDecode c0 0xE5500000 0 = .tissue c0 5 2 := by decide

/-- 03 R73: major 0x3F is not assigned. -/
theorem test_decode_illegal : sliverDecode c0 0xFC000000 0 = .illegal c0 0xFC000000 := by decide

/-! ### Worked examples of the spec -/

/-- 03: 1.0 + 2^-24 is a tie and rounds away from zero. -/
theorem test_vfadd_tie : fadd 0x3F800000 0x33800000 = 0x3F800001 := by decide

/-- 07: the block scale of 10.0, -3.0, 5.0, 1.4, 0.3 in MXFP4 and three of its elements. -/
theorem test_mxfp4_block : (blockScale 0 (.fin false 1 1 0) [.fin false 10 1 0, .fin true 3 1 0, .fin false 5 1 0]).1 = 0x80 ∧
    ([Fpv.fin false 10 1 0, .fin true 3 1 0, .fin false 5 1 0].map fun z => (blockElem 0 (.fin false 2 1 0) z).1) =
      [0x7, 0xB, 0x5] := by decide

/-! ### States that meet the statements' hypotheses: sliver instructions -/

def isAt : Check → Bool
  | .at _ _ => true
  | .exc _ _ => false

def isExc (n : Byte) : Check → Bool
  | .at _ _ => false
  | .exc m _ => m == n

/-- The state after core 0's fetch in at0 k, and its core. -/
def f0 (k : Core) : State := fetched (at0 k) c0 4
def kf (k : Core) : Core := (f0 k).core c0

theorem witness_scalar : ready (at0 (s1 7)) c0 4 [.s 1, .s 31, .s 0] = true ∧ ready (at0 k0) c0 8 [.s 0, .s 31] = true ∧
    (AluOp.unary .clz = true → (0 : BitVec 5) = 0) ∧ (255 : BitVec 16).toNat < 256 := by decide

/-- Both sides of BNE and BEQ, both sides of the end of instruction memory, and a JALR target above 2^32. -/
theorem witness_branches : ready (at0 (s1 7)) c0 4 [.s 1, .s 2] = true ∧
    branchMeans .bne ((kf (s1 7)).sreg 1) ((kf (s1 7)).sreg 2) ∧ ¬ branchMeans .beq ((kf (s1 7)).sreg 1) ((kf (s1 7)).sreg 2) ∧
    fetchable c0 0x03003FFC = true ∧ fetchable c0 0x03004000 = false ∧
    ready (at0 (s1 0x100000000)) c0 4 [.s 1, .s 2] = true ∧
    2 ^ 32 ≤ ((kf (s1 0x100000000)).sreg 1 + (0 : BitVec 16).signExtend 64).toNat := by
  unfold branchMeans
  decide

theorem witness_exceptions : ready (at0 k0) c0 4 [] = true ∧ (kf k0).inHandler = false ∧
    ready (at0 { k0 with inHandler := true }) c0 4 [] = true ∧ (kf { k0 with inHandler := true }).inHandler = true := by decide

/-- Core 0's own data memory at its first byte, one byte on, and an address that no memory holds; masks of none and all. -/
theorem witness_loadsStores : ready (at0 (s1 0x03004000)) c0 4 [.s 1, .s 2, .s 3] = true ∧
    isAt ((f0 k0).checkAccess c0 false 0x03004000 8 false) = true ∧
    isAt ((f0 k0).checkAccess c0 false 0x0300FFC0 64 true) = true ∧
    isExc 4 ((f0 k0).checkAccess c0 false 0x03004001 8 false) = true ∧
    isExc 5 ((f0 k0).checkAccess c0 false 0x03000000 4 true) = true ∧
    isExc 3 ((f0 k0).checkAccess c0 false 0x02800000 4 true) = true ∧ loadRoom (kf k0) = true ∧ storeRoom (kf k0) = true ∧
    ready (at0 (k0.setP 7 0)) c0 4 [.s 1, .p 7, .v 15] = true ∧ (kf (k0.setP 7 0)).preg 7 = 0 ∧
    (kf (k0.setP 7 1)).preg 7 ≠ 0 := by decide

/-- A core with one buffered store of its whole first data slot, and one outstanding load. -/
def kSt : Core := { k0 with stores := [{ addr := clusterAddr 0 0x03004000, data := 5, mask := BitVec.allOnes 64, seq := 0, after := 0, issued := 0, aged := false }] }
def kLd (kind : LoadKind) : Core := { k0 with loads := [{ kind := kind, addr := clusterAddr 0 0x03004000, vaddr := 0, seq := 0, issued := 0, aged := false, pc := 0x03000000 }] }

theorem witness_storeEffect : (at0 kSt).flips = [] ∧ (at0 kSt).inject = [] ∧ (((at0 kSt).core c0).stores[(0 : Fin 16).val]?).isSome = true ∧
    ((at0 kSt).core c0).firstAt (clusterAddr 0 0x03004000) 0 = true ∧ (∀ u ∈ ((at0 kSt).core c0).stores, 0 ≤ u.seq) ∧
    (at0 kSt).bankServes c0 (clusterAddr 0 0x03004000) 0 false = true := by decide

theorem witness_issueExceptions : ((at0 k0).setCore c0 { k0 with mode := .running, pc := 0x03004000 }).issues c0 = true ∧
    fetchable c0 0x03004000 = false ∧ fetchable c0 0x03003FFC = true ∧ fetchable c0 (0x03003FFC + 4) = false ∧
    ready (at0 k0) c0 4 [] = true := by decide

/-- Two flipped bits in the first word of core 0's data memory: an uncorrectable word (11, worked example, case 3). -/
def badWord (s : State) : State := { s with flips := [(clusterAddr 0 0x03004000 / 8, [⟨0, 1⟩, ⟨1, 1⟩])] }

/-- The read of a returning load. -/
def got (s : State) (n : Nat) : Got := (s.served c0 (clusterAddr 0 0x03004000) false).readMem (clusterAddr 0 0x03004000) n

theorem witness_loadReturn : ((at0 (kLd (.scalar .ld 1))).core c0).firstAt (clusterAddr 0 0x03004000) 0 = true ∧
    (at0 (kLd (.scalar .ld 1))).bankServes c0 (clusterAddr 0 0x03004000) 0 false = true ∧ (got (at0 (kLd (.scalar .ld 1))) 8).ues = [] ∧
    (got (badWord (at0 (kLd (.scalar .ld 1)))) 8).ues ≠ [] ∧ ((got (badWord (at0 (kLd (.scalar .ld 1)))) 8).st.core c0).mode ≠ .reset ∧
    (at0 (kLd (.vector 15 1))).bankServes c0 (clusterAddr 0 0x03004000) 0 false = true ∧
    ueTouches (got (at0 (kLd (.vector 15 1))) 64).ues (clusterAddr 0 0x03004000) 1 = false ∧
    (at0 (kLd (.atomic .cas false 1 2 3))).bankServes c0 (clusterAddr 0 0x03004000) 0 false = true ∧
    (at0 (kLd (.test 1))).bankServes c0 (clusterAddr 0 0x03004000) 0 false = true := by decide

theorem witness_vector : ready (at0 k0) c0 4 [.v 0, .v 14, .v 15, .p 7] = true ∧
    (CvtOp.halfZero .f32i32 = true → false = false) ∧ (CmpOp.float .feq = true → ESz.b4 = .b4) ∧
    (RedOp.float .fsum = true → ESz.b4 = .b4) ∧ ready (at0 k0) c0 4 [.s 31, .v 0, .p 0] = true ∧ ready (at0 k0) c0 4 [.p 0, .p 6, .p 7] = true := by
  decide

theorem witness_float : (f32Of 0x7FC00001).isNan = true ∧ f32Of 0x7F800000 = .inf false ∧ f32Of 0xFF800000 = .inf true ∧
    (f32Of 0x007FFFFF).isFin = true ∧ 0x80000000 % 2 ^ 31 = 0 ∧ 0xFFFFFFFF < 2 ^ 32 := by decide

/-- PQSUM on a table at its own data memory's end, one past it, and one not aligned. -/
theorem witness_search : ready (at0 (s1 0x03004000)) c0 4 [.s 1, .v 2, .v 3] = true ∧
    0x03004000 % 256 = 0 ∧ 0x03004001 % 256 ≠ 0 ∧ inOwnData 0 0x0300F800 ((0 + 8) * 256) = true ∧
    inOwnData 0 0x0300F900 ((0 + 8) * 256) = false ∧ (kf (s1 0x03004000)).stores = [] ∧ (f0 (s1 0x03004000)).flips = [] := by decide

theorem witness_candidates : ready (at0 { s1 3 with cq := [1, 2] }) c0 4 [.s 1, .s 2] = true ∧
    queueOrdered (kf { s1 3 with cq := [1, 2] }).cq ∧ queueOrdered (queueBefore ((f0 (s1 3)).core c1) 0) ∧
    (1 : Fin 128).val = ((s1 1).sreg 1).toNat % 128 ∧ 0x03004000 < 2 ^ 32 ∧ (rangeMem 0x03004000 512).isSome = true ∧
    touchesImem 0x03004000 512 = false ∧ (kf (s1 1)).stores.length ≤ 8 ∧ (kf (s1 1)).fullFenced = false ∧
    8 < (kf { s1 1 with stores := List.replicate 9 ⟨0, 0, 0, 0, 0, 0, false⟩ }).stores.length := by
  unfold queueOrdered
  decide

/-- R109: core 1 merged core 0's queue in cycle 0, so in that cycle core 0 receives the queue that core 1 held before it; a cycle later
the present one. -/
theorem witness_mergeEachOther : (let k := { Core.reset 1 with cq := [1, 7], cqWas := some (0, [7]) }
    queueBefore k 0 = [7] ∧ queueBefore k 1 = [1, 7] ∧ queueOrdered k.cq) := by
  unfold queueOrdered
  decide

/-! ### Full/empty slots, deques, events, core states -/

/-- The bank's service of core 0's access to the first slot of activation memory. -/
def slot0 (s : State) : State := feTaken s c0 (clusterAddr 0 0x01000000)

/-- f0 k after core 1 has asked the bank of that slot, which stands before core 0 in the bank's order once its pointer names it. -/
def bankBusy : State :=
  ((f0 k0).setCore c1 { Core.reset 1 with feAt := some (clusterAddr 0 0x01000000, (0, false)) }).updCluster 0 fun g =>
    { g with rr := SMap.set (fun _ => 0) g.rr (((bankAt (clusterAddr 0 0x01000000)).map (·.2)).getD 0) 1 }

theorem witness_fullEmpty : ready (at0 (s1 0)) c0 4 [.s 1, .s 2, .v 15] = true ∧ (kf (s1 0)).drained = true ∧
    (true = true → (15 : BitVec 5).toNat < 16) ∧
    isAt ((f0 k0).checkSlot c0 false 0x01000000 64 false) = true ∧ isAt ((f0 k0).checkSlot c0 false 0x0300FFF8 8 true) = true ∧
    feTurn (f0 k0) c0 (clusterAddr 0 0x01000000) ∧ (slot0 (f0 k0)).tagFull (clusterAddr 0 0x01000000) = false ∧
    (slot0 ((f0 k0).setTag (clusterAddr 0 0x01000000) true)).tagFull (clusterAddr 0 0x01000000) = true ∧
    ((slot0 (f0 k0)).readMem (clusterAddr 0 0x01000000) 64).ues = [] ∧
    (kf k0).haltReq = false ∧ (kf { k0 with haltReq := true }).haltReq = true ∧ ¬ feTurn bankBusy c0 (clusterAddr 0 0x01000000) ∧
    loadRoom (kf k0) = true := by
  unfold feTurn
  decide

/-- Core 0's access of the first slot of activation memory is held; the tag is full or empty. -/
def held1 (kind : FeKind) (full : Bool) : State :=
  ((State.reset.setCore c0 { k0 with mode := .waiting, wait := some .fullEmpty }).updCluster 0 fun g =>
    { g with held := [{ core := 0, kind := kind, v := false, t := 1, addr := 0x01000000, data := 0 }] }).setTag (clusterAddr 0 0x01000000) full

/-- The access that a change of the slot's tag lets through. -/
def mayGo (s : State) : Option HeldFe :=
  (s.cluster 0).held.find? fun e => e.addr.toNat / 64 == 0x40000 && s.tagFull (clusterAddr 0 0x01000000) ==
    match e.kind with
    | .stef => false
    | _ => true

theorem witness_heldRetry : (mayGo (held1 .ldfe true)).isSome = true ∧ (mayGo (held1 .stef false)).isSome = true ∧
    mayGo (held1 .ldf false) = none ∧ (held1 .ldfe true).bankServes c0 (clusterAddr 0 0x01000000) 0 false = true ∧
    (((held1 .ldfe true).feServed c0 (clusterAddr 0 0x01000000) false).readMem (clusterAddr 0 0x01000000) 8).ues = [] := by decide

/-- Core 1's deque of one visible entry beside core 0, and a steal from it that was served before. -/
def deque1 (k : Core) (u : Option Stolen) : State :=
  (at0 k).setCore c1 { Core.reset 1 with deque := [5], dqVisible := 1, stole := u }

/-- A steal served in cycle 0 by core 0, of the entry 5. -/
def steal0 : Stolen := { cycle := 0, word := 5, thief := 0, seq := 0 }

theorem witness_deques : ready (deque1 (s1 1) none) c0 4 [.s 1, .s 2] = true ∧
    (let f := fetched (deque1 (s1 1) none) c0 4
     (f.core c0).loads.length < 8 ∧ ((f.core c0).sreg 1).getLsbD 7 = false ∧ ((1 : Fin 128).val = ((f.core c0).sreg 1).toNat % 128) ∧
     (1 : Fin 128) ≠ c0.k ∧ (f.core c1).stole = none ∧ (f.core c1).nextThief (0 :: f.thievesOf 0 1) = some 0) ∧
    (let f := fetched (deque1 (s1 1) (some steal0)) c0 4
     ¬ noSteal (f.core c1) f.cycle) ∧
    ready (at0 (s1 0x80)) c0 4 [.s 1, .s 2] = true ∧ ((kf (s1 0x80)).sreg 1).getLsbD 7 = true ∧
    (∀ n : Fin 128, n ≠ c0.k → ((f0 (s1 0x80)).core ⟨0, n⟩).visible = 0) := by
  unfold noSteal
  decide

/-- The owner's side of Table 2-7: core 0's deque empty after core 1's steal of its only entry, the steal still out at core 1. -/
theorem witness_dequeOwner : (
    let s := (at0 { s1 1 with stole := some { steal0 with thief := 1 } }).setCore c1
      { Core.reset 1 with loads := [{ kind := .steal 1 (some (5, 0)), addr := 0, vaddr := 0, seq := 0, issued := 0, aged := false, pc := 0 }] }
    let f := fetched s c0 4
    ready s c0 4 [.s 1] = true ∧ (f.core c0).deque = [] ∧ ((f.core c0).stole.map (·.cycle)) = some f.cycle ∧
      (∃ l ∈ (f.core c1).loads, l.kind.isSteal = true ∧ l.seq = 0)) := by decide

/-- Core 0's steal of core 1's deque is held. -/
def heldSteal : State :=
  (deque1 { k0 with loads := [{ kind := .steal 1 none, addr := 0, vaddr := 0, seq := 0, issued := 0, aged := false, pc := 0 }] } none).updCluster 0
    fun g => { g with heldSteals := [{ thief := 0, rd := 1, victim := some 1 }] }

theorem witness_heldSteals : ((heldSteal.cluster 0).heldSteals.find? fun x => x.thief == 0) = some ⟨0, 1, some 1⟩ ∧
    (heldSteal.core c1).stole = none ∧ (heldSteal.core c1).nextThief (0 :: heldSteal.thievesOf 0 1) = some 0 ∧
    ((heldSteal.core c0).loads.find? fun l => l.kind == .steal 1 none).isSome = true ∧
    ¬ noSteal ((deque1 k0 (some steal0)).core c1) 0 ∧
    (State.reset.setCore c0 { k0 with deque := [7] } |>.core c0).visible < [7].length := by
  unfold noSteal
  decide

/-- The latch set and clear; a timeout of no ticks, over, and one of 2^64 - 1, not over. -/
theorem witness_workEvent : ready (at0 { s1 5 with latch := true }) c0 4 [.s 1, .s 2] = true ∧
    (kf { s1 5 with latch := true }).latch = true ∧ (kf k0).latch = false ∧
    (let s := State.reset.setCore c0 { k0 with mode := .waiting, wait := some (.event 1 (some (0, 0))) }
     (s.core c0).mode = .waiting ∧ (s.core c0).wait = some (.event 1 (some (0, 0))) ∧ (0 : Word).toNat ≤ (s.time - 0).toNat ∧
     (s.time - 0).toNat < (0xFFFFFFFFFFFFFFFF : Word).toNat) := by decide

/-- The module with its domains up. -/
def up : State := { State.reset with pow := { State.reset.pow with mainIn := true, auxIn := true, stage := .ready, compute := .ready, holdupOk := true } }

/-- up with core 0 as k. -/
def upCore (k : Core) : State := up.setCore c0 k

theorem witness_runHaltRestart : writable up .mgmt 0 = true ∧ writable up (.bar2 .a) 0 = true ∧ writable up (.core c0) 0 = true ∧
    (up.core c0).mode = .reset ∧ (up.cluster 0).quiesce = false ∧ up.pow.compute = .ready ∧ fetchable c0 (up.core c0).startPc = true ∧
    ((upCore { k0 with mode := .halted }).core c0).mode = .halted ∧
    (let k := (upCore { k0 with mode := .halted, excPending := true, handler := 0x03000000, cause := 2 }).core c0
     k.excPending = true ∧ k.cause ≠ 0x0F ∧ k.inHandler = false ∧ k.handler ≠ 0) ∧
    ((upCore { k0 with mode := .running, haltReq := true }).core c0).loads = [] ∧ (⟨1, 0⟩ : CoreId).cl ≠ c0.cl ∧
    k0.delivered = none ∧ (deliveredNow (upCore { k0 with mode := .running }) c0 0).cycle = up.cycle ∧
    (deliveredNow (upCore { k0 with mode := .running }) c0 0).mode = .running := by decide

theorem witness_quiesce : writable up .mgmt 0 = true ∧ fromCore .mgmt = false ∧ (up.cluster 0).quiesceAbort = false ∧
    (∀ k : Fin 128, (up.core ⟨0, k⟩).delivered = none) := by decide

/-! ### Matrix commands -/

/-- A cluster that runs, with a tensor command alone in its queue; its completion slot is the first of core 0's data memory. -/
def mxq0 (ws : List Word) : State := up.updCluster 0 fun g => { g with mxq := [ws] }

def mxGuard (ws : List Word) (n : W32) : State :=
  (mxq0 ws).updCluster 0 fun g => { g with grd := { g.grd with opened := true, count := n } }

/-- The cluster of a closing guarded layer with nothing left to re-run, or after an error. -/
def mxClosing (rest : List (List Word × W32)) (e : Byte) : State :=
  up.updCluster 0 fun g => { g with grd := { g.grd with opened := true, closing := some ⟨[0x0300400000000106, 1], rest, e⟩ } }

set_option maxRecDepth 100000 in
theorem witness_tensorQueue : ready (at0 k0) c0 4 [.v 15] = true ∧ (kf k0).stores = [] ∧
    (kf k0).fullFenced = false ∧ ((f0 k0).cluster 0).mxq.length < 64 ∧
    64 ≤ ((fetched ((at0 k0).updCluster 0 fun g => { g with mxq := List.replicate 64 [0] }) c0 4).cluster 0).mxq.length ∧
    mxAlone (mxq0 [0x0300400000000000]) 0 [0x0300400000000000] [] ∧ bits (0x0300400000000000 : Word) 10 0 = 0 ∧
    mxAlone (mxq0 [0x0300400000000007]) 0 [0x0300400000000007] [] ∧ 6 < bits (0x0300400000000007 : Word) 7 0 ∧
    mxAlone (mxq0 [0x0300400000000102, 2]) 0 [0x0300400000000102, 2] [] ∧ bits (0x0300400000000102 : Word) 10 0 = 0x102 ∧
    bits (2 : Word) 1 0 ≠ 3 ∧ writable (mxq0 [0]) .mgmt 0 = true ∧ (∀ k : Fin 128, ((mxq0 [0]).core ⟨0, k⟩).wait = none) := by
  unfold mxAlone
  decide

/-- A count that is the threshold, and one above it. -/
theorem witness_guarded : mxAlone (mxq0 [0x0300400000000106, 0]) 0 [0x0300400000000106, 0] [] ∧
    bits (0x0300400000000106 : Word) 10 0 = 0x106 ∧ mxAlone (mxq0 [0x0300400000000106, 0x300000001]) 0 [0x0300400000000106, 0x300000001] [] ∧
    onlyCluster (mxq0 [0x0300400000000106, 0x300000001]) (mxGuard [0x0300400000000106, 0x300000001] 0) 0
      { (mxq0 [0x0300400000000106, 0x300000001]).cluster 0 with
        grd := { ((mxq0 [0x0300400000000106, 0x300000001]).cluster 0).grd with opened := true } } ∧
    bits (0x300000001 : Word) 0 0 = 1 ∧ (3 : W32).toNat ≤ bits (0x300000001 : Word) 63 32 ∧
    bits (0x300000001 : Word) 63 32 < (4 : W32).toNat ∧ ((mxClosing [] 0).cluster 0).grd.closing = some ⟨[0x0300400000000106, 1], [], 0⟩ ∧
    (∀ e ∈ ((mxClosing [] 0).cluster 0).mxExec, e.rerun = false) ∧ ((mxClosing [] 0).cluster 0).pstate = 0 ∧ mxError 5 = true := by
  unfold mxAlone onlyCluster
  decide

/-- MATMUL of one BF16 product; STORE of one FP32 element; SFE of one FP32 element, by function. -/
def mmWords : List Word := [0x0300400000000501, 0x9000000100000000, 0x01000000, 0, 0x0200000000009001, 0]
def stWords (d : Word) : List Word := [0x0300400000000403, (d <<< 32) + 0x02000000, ((d + 64) <<< 32) + 0x01000000, 0xA, 0]
def sfWords (f : Word) : List Word := [0x0300400000000304, 0x0100000002000000, 0, (f <<< 56) + 0x00AA00003F800000]

/-- Layout descriptors of one FP32 element in two dimensions, as source and as destination, in core 0's data memory. -/
def descs (s : State) : State :=
  let a := clusterAddr 0 0x03005000
  { s with mem := [(a, 0x24), (a + 12, 1), (a + 20, 4), (a + 64, 0x24), (a + 76, 1), (a + 84, 4)] }

/-- The STORE with its descriptors in memory. -/
def stS : State := descs (mxq0 (stWords 0x03005000))
def sto0 : Sto := stoOf (stWords 0x03005000) false
def desc0 : List Word := [0x24, 0x100000000, 0x400000000, 0, 0, 0, 0, 0]

theorem stS_src : (stS.readMem (clusterAddr 0 sto0.srcL) 64).ues = [] ∧
    toWords 8 (stS.readMem (clusterAddr 0 sto0.srcL) 64).data = desc0 := by decide +kernel

theorem stS_dst : ((stS.readMem (clusterAddr 0 sto0.srcL) 64).st.readMem (clusterAddr 0 sto0.dstL) 64).ues = [] ∧
    toWords 8 ((stS.readMem (clusterAddr 0 sto0.srcL) 64).st.readMem (clusterAddr 0 sto0.dstL) 64).data = desc0 := by decide +kernel

theorem stS_late : (stoLate stS 0 sto0 false).2 = 0 := by
  have h : firstStatus [layoutAddr sto0.srcL, layoutAddr sto0.dstL] = 0 := by decide +kernel
  simp only [stoLate, h, stS_src, stS_dst]
  decide +kernel
theorem witness_dispatch_matmul : mxAlone (mxq0 mmWords) 0 mmWords [] ∧ mmEarly mmWords (mmOf mmWords) 0 = 0 ∧ mmLate (mmOf mmWords) = 0 ∧
    mmEarly (mmWords.set 5 2) (mmOf (mmWords.set 5 2)) 0 = 3 ∧ mmEarly (mmWords.set 2 1) (mmOf (mmWords.set 2 1)) 0 = 0 ∧
    mmLate (mmOf (mmWords.set 2 1)) = 2 := by
  unfold mxAlone
  decide

theorem witness_dispatch_store : mxAlone (mxq0 (stWords 0x03005000)) 0 (stWords 0x03005000) [] ∧ (mxq0 []).flips = [] ∧
    stoEarly (stWords 0x03005000) (stoOf (stWords 0x03005000) false) = 0 ∧ (stoLate stS 0 sto0 false).2 = 0 ∧
    stoEarly ((stWords 0).set 3 0xF) (stoOf ((stWords 0).set 3 0xF) false) = 3 := by
  refine ⟨?_, by decide, by decide, stS_late, by decide⟩
  unfold mxAlone
  decide

/-- A soft maximum, one of the normalisations, and a function that is not assigned. -/
theorem witness_dispatch_sfe : mxAlone (mxq0 (sfWords 0x40)) 0 (sfWords 0x40) [] ∧ sfEarly (sfWords 0x40) (sfOf (sfWords 0x40)) {} = 0 ∧
    sfLate (sfOf (sfWords 0x40)) = 0 ∧ sfEarly (sfWords 0x42) (sfOf (sfWords 0x42)) {} = 0 ∧ sfLate (sfOf (sfWords 0x42)) = 0 ∧
    (sfOf (sfWords 0x43)).func = 0x43 ∧ (sfWords 0x43).length = 4 ∧ bits ((sfWords 0x43).getD 0 0) 10 8 = 3 := by
  refine ⟨?_, by decide +kernel, by decide +kernel, by decide +kernel, by decide +kernel, by decide, by decide, by decide⟩
  unfold mxAlone
  decide

/-! ### Executing tensor commands and tables -/

/-- A cluster that runs with command ws executing at place 0. -/
def mxRun (ws : List Word) : State :=
  up.updCluster 0 fun g => { g with mxExec := [{ words := ws, step := 0, rerun := false, layer := false, ofmt := 0xA, srcD := desc0, dstD := desc0, reads := [], writes := [], watch := [] }] }

theorem witness_matmulResult : ((mxRun mmWords).cluster 0).mxExec.length = 1 ∧ ((mxRun mmWords).cluster 0).pstate = 0 ∧
    ((mxRun mmWords).cluster 0).zeroising = false ∧ bits (mmWords.getD 0 0) 7 0 = 1 ∧ ((mxRun mmWords).cluster 0).quiesceAbort = false ∧
    (mxRun mmWords).flips = [] ∧ (mxRun mmWords).inject = [] ∧ slotAddr (bits (mmWords.getD 0 0) 63 32) = true ∧
    (let x := mmOf mmWords
     x.wfmt = x.afmt ∧ x.wfmt = 9 ∧ x.dist = 0 ∧ x.n * 4 ≤ x.ppitch * 64 ∧ inMem isPsum x.psumRange = true ∧
     ∀ j, j < x.steps → inMem isWeight (x.wImage j) = true ∧ inMem isAct (x.feedImage j) = true) := by decide

theorem witness_storeCompletes : bits ((stWords 0x03005000).getD 0 0) 7 0 = 3 ∧ slotAddr (bits ((stWords 0x03005000).getD 0 0) 63 32) = true ∧
    ((mxRun (stWords 0x03005000)).cluster 0).mxExec.length = 1 ∧
    (sto0.output (mxRun (stWords 0x03005000)) 0 [] (layoutOf desc0) (layoutOf desc0)).1.length = (layoutOf desc0).count ∧
    sto0.src % 4 = 0 := by decide +kernel

theorem witness_sfeResults : bits ((sfWords 0x40).getD 0 0) 7 0 = 4 ∧
    (let x := sfOf (sfWords 0x40)
     plainFmt x.ifmt = true ∧ plainFmt x.ofmt = true ∧ inMem actOrPsum x.dstRange = true ∧ inMem actOrPsum x.srcRange = true ∧
     inMem actOrData x.maskRange = true ∧ meet x.srcRange x.dstRange = false ∧ meet x.maskRange x.dstRange = false ∧
     meet (bits ((sfWords 0x40).getD 0 0) 63 32, 64) x.dstRange = false) := by decide +kernel

/-- SFTAB of a segment table whose image of zeros but for a scale of one is in core 0's data memory. -/
def tabS : State := { mxq0 [0x0300400000000105, 0x0000000003005000] with mem := [(clusterAddr 0 0x03005002, 4), (clusterAddr 0 0x03005004, 1)] }

theorem witness_table : mxAlone tabS 0 [0x0300400000000105, 0x0000000003005000] [] ∧ bits (0x0300400000000105 : Word) 10 0 = 0x105 ∧
    tabS.flips = [] ∧ 0x03005000 % 64 = 0 ∧ (rangeMem 0x03005000 80).isSome = true ∧ clusterValue tabS 0 0x03005000 1 = 0 ∧
    segValid (Memory.bytes tabS.mem (clusterAddr 0 0x03005000) 80) = true := by
  refine ⟨?_, by decide, by decide, by decide, by decide, by decide, by decide +kernel⟩
  unfold mxAlone
  decide

/-! ### Rings -/

/-- Partition 0 holds cluster 0, the second GiB of D1 as its region and the third as its pool. -/
def rec0 : PartRec := { clusters := 1, d1Region := ⟨1, 1⟩, d1Pool := ⟨2, 1⟩, d2Region := ⟨0, 1⟩, d2Pool := ⟨1, 1⟩, fslot := 48, wrShare := 100, sD1 := 100, sD2 := 100, fabCredit := 100, ctxBase := 0, ctxCount := 8, kofNsid := 0, tenants := 1, rsvd := 0 }

/-- A block namespace 1 of 16 blocks and a tile namespace 2 of 2 blocks, attached to a function. -/
def nss0 : SMap (Option Namespace) :=
  [(1, some { kind := .block, blocks := 16, attached := [.pf .a], key := 1 }), (2, some { kind := .tile, blocks := 2, attached := [.pf .a], key := 2 })]

/-- The module up with partition 0 configured and namespace 1 bound for commits at slot 1, namespace 2 for pins at slot 2. -/
def part0 : State :=
  { up with
    nss := nss0
    parts := [(0, { cfg := some rec0, bindings := [(1, some ⟨1, false, true, false, 0⟩), (2, some ⟨2, true, false, false, 0⟩)] })]
    prlPart := [(0, 0x80000)] }

/-- Cluster 0's ring r with one entry, whose bytes are m, at the start of activation memory. -/
def ring1 (r : RingId) (m : List (Nat × Byte)) : State :=
  { part0.updCluster 0 fun g => g.setRing r ⟨0x01000000, 4, 1, 0⟩ with mem := m.map fun e => (clusterAddr 0 0x01000000 + e.1, e.2) }

/-- ringHas, by its eight words. -/
theorem ringHas_of (s : State) (cl : Fin 32) (r : RingId) (ws : List Word) (h : (let x := (s.cluster cl).ring r
    x.size ≠ 0 ∧ x.head ≠ x.tail ∧ (s.cluster cl).pstate = 0 ∧ (s.cluster cl).zeroising = false ∧ s.flips = [] ∧ s.inject = [] ∧ ws.length = 8 ∧
    ((List.range 8).all fun i => (ws.getD i 0).toNat == clusterValue s cl (x.base.toNat + 64 * x.head.toNat + 8 * i) 8) = true ∧
    (bits (ws.getD 0 0) 63 32 = 0 ∨ slotAddr (bits (ws.getD 0 0) 63 32) = true))) : ringHas s cl r ws := by
  obtain ⟨a, b, c, d, e, e', f, g, k⟩ := h
  refine ⟨a, b, c, d, e, e', f, ?_, k⟩
  intro i w hw
  have hi : i < 8 := by
    rw [← f]
    exact (List.getElem?_eq_some_iff.mp hw).1
  have := List.all_eq_true.mp g i (List.mem_range.mpr hi)
  simpa [List.getD, hw] using this

/-- COPY of 64 bytes of the D1 region, FILL, XFORM of one element, NOP, a reserved OP, TILE_PIN and TILE_UNPIN of tile 0. -/
def copyRing : State := ring1 (.tm 0) [(17, 0x10), (24, 0x40)]
def copyWords : List Word := [0, 0, 0x1000, 0x40, 0, 0, 0, 0]

theorem witness_tm_copy : tmReady copyRing 0 0 copyWords 0 ∧ (copyRing.tmFrom 0 0 0x40).isSome = true ∧
    (copyRing.tmTo 0 0x1000 0x40).isSome = true ∧ (0x40 + 4095) / 4096 ≤ 1 ∧ (0 : Nat) + 0x40 ≤ 0x1000 := by
  refine ⟨⟨ringHas_of _ _ _ _ (by decide +kernel), by decide +kernel⟩, by decide, by decide, by decide, by decide⟩

def opRing (op : Byte) : State := ring1 (.tm 15) [(0, op)]
def opWords (op : Word) : List Word := [op, 0, 0, 0, 0, 0, 0, 0]

theorem witness_tm_nop : tmReady (opRing 5) 0 15 (opWords 5) 5 ∧ tmReady (opRing 15) 0 15 (opWords 15) 15 := by
  refine ⟨⟨ringHas_of _ _ _ _ (by decide +kernel), by decide +kernel⟩, ⟨ringHas_of _ _ _ _ (by decide +kernel), by decide +kernel⟩⟩

theorem witness_tm_fill : tmReady (ring1 (.tm 0) [(0, 2), (24, 0x40), (40, 9)]) 0 0 [2, 0, 0, 0x40, 0, 9, 0, 0] 2 ∧
    ((ring1 (.tm 0) []).tmTo 0 0 0x40).isSome = true := by
  refine ⟨⟨ringHas_of _ _ _ _ (by decide +kernel), by decide +kernel⟩, by decide⟩

/-- The two descriptors stand in core 0's data memory, behind the ring entry. -/
def xformRing : State :=
  let a := clusterAddr 0 0x03005000
  { ring1 (.tm 0) [] with mem := [(clusterAddr 0 0x01000000, 1), (clusterAddr 0 0x01000011, 0x10), (clusterAddr 0 0x01000021, 0x50), (clusterAddr 0 0x01000023, 3), (clusterAddr 0 0x01000024, 0x40), (clusterAddr 0 0x01000025, 0x50), (clusterAddr 0 0x01000027, 3), (a, 0x24), (a + 12, 1), (a + 20, 4), (a + 64, 0x24), (a + 76, 1), (a + 84, 4)] }
def xformWords : List Word := [1, 0, 0x1000, 0, 0x0300504003005000, 0, 0, 0]

theorem witness_tm_xform : tmReady xformRing 0 0 xformWords 1 ∧ layoutAddr 0x03005000 = 0 ∧ layoutAddr 0x03005040 = 0 ∧
    toWords 8 (Memory.bytes xformRing.mem (clusterAddr 0 0x03005000) 64) = desc0 ∧
    toWords 8 (Memory.bytes xformRing.mem (clusterAddr 0 0x03005040) 64) = desc0 ∧ xformValid desc0 desc0 = true ∧
    (match xformRing.xformPlace 0 (tmNew 0 0 xformWords) (layoutOf desc0) (layoutOf desc0) with
      | .ok _ => true
      | .error _ => false) = true ∧ ((layoutOf desc0).count * (layoutOf desc0).w + 32767) / 32768 = 1 := by
  refine ⟨⟨ringHas_of _ _ _ _ (by decide +kernel), by decide +kernel⟩, by decide, by decide, by decide +kernel, by decide +kernel, by decide +kernel,
    by decide +kernel, by decide⟩

theorem witness_tm_complete : (let s := copyRing.updCluster 0 fun g => { g with tmExec := [{ tmNew 0 0 copyWords with done := true }] }
    ((s.cluster 0).tmExec.find? fun e => e.q == 0).isSome = true ∧ ((s.cluster 0).tmExec.all fun e => e.done) = true ∧
    (s.cluster 0).pstate = 0 ∧ ((s.cluster 0).ring (.tm 0)).size ≠ 0) := by decide

/-- Tile 0 of namespace 2 is its second block; its directory waits in the write buffer. It is resident in D1, unpinned or pinned. -/
def tileN (pin : Nat) : Nougat :=
  { nsid := 2, tile := 0, size := 0, owner := 0, sgt := 0, pin := pin, pmask := if pin = 0 then 0 else 1, st := 3, inD1 := true, inD2 := false, d1Loc := 0, d2Loc := 0, lastUse := 0 }
def dirUnit : Unit4K := BitVec.ofNat 32768 (1 + 1 <<< 64 + (1 <<< 24) <<< 512)
def tileRing (pin : Nat) (m : List (Nat × Byte)) : State :=
  { (ring1 (.tm 0) m).updPart 0 fun p => { p with ledger := if pin = 0 then [] else [(0, pin)] } with
    buffer := [{ nsid := 2, unit := 0, data := dirUnit, cls := .warm }]
    nougat := [(0, some (tileN pin))] }
def pinRing : State := tileRing 0 [(0, 3), (16, 0xFF), (17, 0xFF), (18, 0xFF), (19, 0xFF), (20, 0xFF), (21, 0xFF), (52, 0x20)]
def pinWords : List Word := [3, 0, 0xFFFFFFFFFFFF, 0, 0, 0, 0x2000000000, 0]
def unpinRing : State := tileRing 1 [(0, 4), (52, 0x20)]
def unpinWords : List Word := [4, 0, 0, 0, 0, 0, 0x2000000000, 0]
def res0 : Resolved := { b := ⟨2, true, false, false, 0⟩, tile := 0, start := 1, size := 1 }

def isTile (r : Resolve) (x : Resolved) : Bool :=
  match r with
  | .tile y => y.b == x.b && y.tile == x.tile && y.start == x.start && y.size == x.size
  | _ => false

theorem tile_of (r : Resolve) (x : Resolved) (h : isTile r x = true) : r = .tile x := by
  cases r with
  | tile y =>
    cases y
    cases x
    simp_all [isTile]
  | _ => simp [isTile] at h

theorem witness_tiles_pin : tmReady pinRing 0 0 pinWords 3 ∧ pinRing.partOf 0 = some 0 ∧
    pinRing.resolve 0 (bits (pinWords.getD 6 0) 39 0) true = .tile res0 ∧ bits (pinWords.getD 2 0) 47 0 = 0xFFFFFFFFFFFF ∧
    pinRing.findEntry 0 res0 = some 0 ∧ pinRing.nougatAt 0 = some (tileN 0) ∧ (tileN 0).inD1 = true ∧ (tileN 0).st = 3 ∧
    (tileN 0).pin < 65535 ∧ (pinRing.part 0).ledger.length < 65536 := by
  refine ⟨⟨ringHas_of _ _ _ _ (by decide +kernel), by decide +kernel⟩, by decide, tile_of _ _ (by decide +kernel), by decide, by decide +kernel, by decide, by decide,
    by decide, by decide, by decide⟩

theorem witness_tiles_unpin : tmReady unpinRing 0 0 unpinWords 4 ∧
    unpinRing.resolve 0 (bits (unpinWords.getD 6 0) 39 0) false = .tile res0 ∧ unpinRing.findEntry 0 res0 = some 0 ∧
    unpinRing.ledgerOf 0 0 ≠ 0 ∧ (tileN 1).inD1 = true ∧ unpinRing.nougatAt 0 = some (tileN 1) := by
  refine ⟨⟨ringHas_of _ _ _ _ (by decide +kernel), by decide +kernel⟩, tile_of _ _ (by decide +kernel), by decide +kernel, by decide, by decide, by decide⟩

/-- Slot 3 holds no binding; a tile whose D2 copy is to be promoted, and one that heals. -/
theorem witness_tiles_other : pinRing.bindingAt 0 (bits (0x3000000000 : Word) 39 36) = none ∧
    (let n : Nougat := { tileN 0 with st := 1, inD1 := false, inD2 := true, need1 := true }
     n.inD2 = true ∧ n.need1 = true ∧ n.need2 = false ∧ n.st = 1) ∧
    tmReady (ring1 (.tm 0) [(0, 3), (52, 0x30)]) 0 0 [3, 0, 0, 0, 0, 0, 0x3000000000, 0] 3 := by
  refine ⟨by decide, by decide, ⟨ringHas_of _ _ _ _ (by decide +kernel), by decide +kernel⟩⟩

/-- A commit of 4,096 bytes of the D1 region to the first block of namespace 1 through slot 1, and one through slot 3. -/
def cmWords : List Word := [1, 0, 0, 0x1000, 0, 0, 0, 0]
def cmRing : State := ring1 .commit [(0, 1), (25, 0x10)]

def okOf {α : Type} : Except Nat α → Option Nat
  | .ok _ => none
  | .error n => some n

theorem witness_commit : ringHas cmRing 0 .commit cmWords ∧ (cmRing.cluster 0).commitExec = none ∧ cmRing.ringsOpen 0 = true ∧
    cmRing.locks.length < 4096 ∧ okOf (cmRing.cmCheck 0 cmWords) = none ∧ okOf (cmRing.cmCheck 0 (cmWords.set 0 3)) = some 0x10 := by
  refine ⟨ringHas_of _ _ _ _ (by decide +kernel), by decide, by decide, by decide, by decide +kernel, by decide +kernel⟩

/-- A record that waits with its lock, and one that was taken with a status. -/
def cmWait (l : Option Nat) (st : Byte) : State :=
  { part0.updCluster 0 fun g => { g with commitExec := some { words := cmWords, status := st, units := 0, lock := l, data := [5] } } with
    locks := [{ id := 0, nsid := 1, first := 0, count := 1, read := false, granted := false }], nextLock := 1 }

theorem witness_commitComplete : ((cmWait none 0x10).cluster 0).commitExec.isSome = true ∧
    (let s := cmWait (some 0) 0
     (∀ k ∈ s.locks, ∀ l ∈ s.locks, k.id = l.id → k = l) ∧ (cmWords.getD 2 0).toNat / 4096 + 1 ≤ 2 ^ 38 ∧ s.lockFree 0 = true ∧
     s.nsIsTile 1 = false ∧ s.hostRoom (s.partOf 0) .warm 1 = true ∧ bufferLeast ≤ s.bufCap ∧ s.nsWritable 1 = true) ∧
    ({ cmWait (some 0) 0 with bufCap := 0 }).hostRoom (some 0) .warm 16385 = false ∧
    ({ cmWait (some 0) 0 with locks := [
      { id := 0, nsid := 1, first := 0, count := 1, read := true, granted := true },
      { id := 1, nsid := 1, first := 0, count := 1, read := false, granted := false }] }).lockFree 1 = false := by decide +kernel

/-- Index reads of cluster 0: CTX_LOAD, PAGE_SCAN and UNIT_READ of namespace 1's first block, and a NOP. -/
def ixS (m : List (Nat × Byte)) : State := { ring1 .ixr m with ctxUp := [(0, true)] }

theorem ixReady_of (s : State) (cl : Fin 32) (ws : List Word) (op : Nat) (h : ringHas s cl .ixr ws)
    (h' : bits (ws.getD 0 0) 3 0 = op ∧ (s.cluster cl).ixFree ws = true ∧ (s.cluster cl).quiesce = false ∧ s.ringsOpen cl = true ∧
      ∀ y ∈ (s.cluster cl).ixExec, y.id < (s.cluster cl).ixNext) : ixReady s cl ws op := ⟨h, h'⟩

theorem witness_indexReads : ixReady (ixS []) 0 [0, 0, 0, 0, 0, 0, 0, 0] 0 ∧ okOf ((ixS []).ixCheck 0 [0, 0, 0, 0, 0, 0, 0, 0]) = none ∧
    (ixS []).ixContext 0 [0, 0, 0, 0, 0, 0, 0, 0] = some 0 ∧ ctxValid 0 = true ∧ ctxValid (1#2048 <<< 2047) = false := by
  refine ⟨ixReady_of _ _ _ _ (ringHas_of _ _ _ _ (by decide +kernel)) (by decide +kernel), by decide +kernel, by decide +kernel,
    by decide +kernel, by decide +kernel⟩

/-- The unit is unmapped, so there at once; mapped to codeword 0, it is asked of the media; marked lost, it is there and unreadable. -/
def ixMapped (m : List (Nat × Byte)) (e : Word) : State := { ixS m with nsMap := [(2 ^ 38, e)] }

theorem witness_pageScan : ixReady (ixS [(0, 1), (23, 0x10)]) 0 [1, 0, 0x1000000000000000, 0, 0, 0, 0, 0] 1 ∧
    okOf ((ixS [(0, 1), (23, 0x10)]).ixCheck 0 [1, 0, 0x1000000000000000, 0, 0, 0, 0, 0]) = none ∧
    (ixS []).unitCw 1 0 = none ∧ ((ixS []).readUnit 1 0).isSome = true ∧
    (ixMapped [] 0x8000000000000000).unitCw 1 0 = some 0 ∧ (ixS []).buffered 1 0 = none ∧ up.dieThere (pageDie 0) = true ∧
    up.dieFailed (pageDie 0) = false ∧ (up.die (pageDie 0)).op = none := by
  refine ⟨ixReady_of _ _ _ _ (ringHas_of _ _ _ _ (by decide +kernel)) (by decide +kernel), by decide +kernel⟩

theorem witness_unitRead : ixReady (ixS [(0, 2), (16, 0x3F), (23, 0x10)]) 0 [2, 0, 0x100000000000003F, 0, 0, 0, 0, 0] 2 ∧
    okOf ((ixS [(0, 2), (16, 0x3F), (23, 0x10)]).ixCheck 0 [2, 0, 0x100000000000003F, 0, 0, 0, 0, 0]) = none ∧
    (ixMapped [] 0x4000000000000000).readUnit 1 0 = none ∧ (ixMapped [] 0x4000000000000000).unitCw 1 0 = none := by
  refine ⟨ixReady_of _ _ _ _ (ringHas_of _ _ _ _ (by decide +kernel)) (by decide +kernel), by decide +kernel⟩

/-- Cluster 0's PAGE_SCAN stands before the Praline unit of channel 0 with its page in hand. -/
def scanS : State :=
  { part0.updCluster 0 fun g => { g with ixNext := 1, ixExec := [{ id := 0, words := [1, 0, 0x1000000000000000, 0, 0, 0, 0, 0], nsid := 1, wait := some (.slot 0), status := 0, out := [], count := 0 }] } with
    chans := [(0, { toPraline := [(0, 0)] : Channel })]
    ctxUp := [(0, true)] }

theorem witness_scanSlot : slotChannel 0 (scanS.ldpcOf 0).slot = 0 ∧ scanS.arb.isolated = false ∧ (scanS.chan 0).toLdpc = [] ∧
    (scanS.chan 0).toPraline = [(0, 0)] ∧ ((scanS.ixRecord (0, 0)).bind fun r => r.wait) = some (.slot 0) ∧
    ((scanS.ixRecord (0, 0)).bind fun r => scanS.ixContext 0 r.words) = some 0 ∧ recValid 0 = false ∧ ctxPass 0 0 = true := by
  decide +kernel

theorem witness_ixNop : ixReady (ixS [(0, 3)]) 0 [3, 0, 0, 0, 0, 0, 0, 0] 3 ∧ ixWords [3, 0, 0, 0, 0, 0, 0, 0] = true ∧
    ixWords [15, 0, 0, 0, 0, 0, 0, 0] = false ∧ fromCore .mgmt = false ∧ part0.jobLoaded 0 = false ∧ part0.anyJob = false ∧
    ((part0.updCluster 0 fun g => { g with ixExec := [{ id := 0, words := [2, 0, 0x100000000000003F, 0, 0, 0, 0, 0], nsid := 1, status := 0, out := [1], count := 1 }] }).ixPlace 0 0 64).isSome = true := by
  refine ⟨ixReady_of _ _ _ _ (ringHas_of _ _ _ _ (by decide +kernel)) (by decide +kernel), by decide, by decide, by decide, by decide, by decide,
    by decide +kernel⟩

/-! ### Fabric -/

/-- This module is FID 7; module 5 is known to be it. Partition 0 is in group 1 with a running job. -/
def fabS (m : List (Nat × Byte)) : State :=
  { (ring1 .ftx m).updPart 0 fun p => { p with group := 1, job := { p.job with state := .running } } with
    fab := { State.reset.fab with fid := 7, valid := true, lmns := [(5, 0x8000000000000007)] } }

/-- A put of 64 bytes of the D1 region to module 5, and a reserved OP. -/
def putWords : List Word := [0, 0, 0, 0x0005000000000040, 0, 0, 0, 0]
def putS : State := fabS [(24, 0x40), (30, 5)]
def reqWords : List Word := [1, 0, 0, 0x0005000000000040, 0, 0, 0, 0]
def reqS : State := fabS [(0, 1), (24, 0x40), (30, 5)]

theorem witness_fabricSends : fxReady putS 0 putWords 0 ∧ fxWords putWords = true ∧ fxAligned putWords = true ∧
    (putS.fxSource 0 putWords).isSome = true ∧ bits (putS.lmnAt 5) 63 63 = 1 ∧ bits (putS.lmnAt 6) 63 63 = 0 ∧ putS.fab.valid = true ∧
    bits (putS.lmnAt 5) 15 0 = putS.fab.fid.toNat ∧ fxReady reqS 0 reqWords 1 ∧ fxWords reqWords = true ∧ fxAligned reqWords = true ∧
    reqS.fxLocal 0 reqWords 0 = true ∧ fxReady (fabS [(0, 3)]) 0 [3, 0, 0, 0, 0, 0, 0, 0] 3 ∧ fxWords [3, 0, 0, 0, 0, 0, 0, 0] = false := by
  refine ⟨⟨ringHas_of _ _ _ _ (by decide +kernel), by decide +kernel⟩, by decide, by decide, by decide +kernel, by decide, by decide, by decide,
    by decide, ⟨ringHas_of _ _ _ _ (by decide +kernel), by decide +kernel⟩, by decide, by decide, by decide +kernel,
    ⟨ringHas_of _ _ _ _ (by decide +kernel), by decide +kernel⟩, by decide⟩

/-- A packet of a type, of one byte, from FID 9 to FID 7's partition 0 in group 1. -/
def pk0 (typ : BitVec 8) (w2 w3 : Word) : Packet :=
  { dstFid := 7, srcFid := 9, dstPart := 0, srcPart := 0, vc := 0, ord := false, trace := false, ttl := 3, typ := typ, group := 1, id := 4, w2 := w2, w3 := w3, payload := [0xAB], rsvd := 0, note := 0, ndb := false }

def inboxS (p : Packet) : State := let s := fabS []
  { s with fab := { s.fab with inbox := [p] } }

def send0 (isReq : Bool) : Send :=
  { cl := 0, part := 0, isReq := isReq, words := putWords, id := 4, dst := 7, npkt := 2, acked := [1], data := List.replicate 64 1, resend := [(0, 0)], start := 0, respMax := 64, got := [], note := 0 }

def sendS (isReq : Bool) (p : Packet) : State := let s := inboxS p
  { s with fab := { s.fab with sends := [send0 isReq] } }

theorem witness_fabricReceives : (let p := pk0 1 0 0
    (p ∈ (inboxS p).fab.inbox ∧ p.typ = 1) ∧ p.dstPart.toNat = (0 : Fin 12).val ∧ (inboxS p).groupOk 0 p = true ∧
    (inboxS p).firstCluster 0 = some 0 ∧ ((inboxS p).ixPlace 0 (bits p.w2 47 0) p.payload.length).isSome = true ∧ bits p.w3 47 0 = 0 ∧
    (inboxS p).inHistory p.srcFid p.id = false ∧ (inboxS p).trackerOf p.srcFid p.id = none ∧ (inboxS p).trackerFree 0 = true ∧
    (inboxS p).flips = [] ∧ (inboxS p).traceEn = false ∧ bits p.w3 55 48 = 0 ∧ bits (pk0 1 0 0x1000000000000).w3 55 48 ≠ 0) ∧
    (let p := pk0 2 0 0
     (p ∈ (sendS false p).fab.inbox ∧ p.typ = 2) ∧ (sendS false p).sendOf p.id false = some (send0 false) ∧ bits p.w2 55 48 = 0 ∧
     ¬ bits p.w2 63 56 ∈ (send0 false).acked ∧ (send0 false).acked.length + 1 = (send0 false).npkt ∧
     ((0 : BitVec 8).toNat, (0 : Word)) ∈ (send0 false).resend ∧ (send0 false).npkt ≤ 256 ∧ (send0 false).dst = (sendS false p).fab.fid) ∧
    (let p := pk0 4 0 0
     (p ∈ (sendS true p).fab.inbox ∧ p.typ = 4) ∧ (sendS true p).sendOf p.id true = some (send0 true) ∧ (send0 true).got = [] ∧
     bits p.w3 63 48 = 0 ∧ p.payload ≠ [] ∧ p.payload.length ≤ (send0 true).respMax ∧ bits ((send0 true).words.getD 4 0) 47 0 = 0 ∧
     ((sendS true p).ixPlace 0 (bits ((send0 true).words.getD 2 0) 47 0) p.payload.length).isSome = true) ∧
    (let p := pk0 3 0 0x1000000000000
     (p ∈ (inboxS p).fab.inbox ∧ p.typ = 3) ∧ (inboxS p).fab.arriving = [] ∧ bits p.w3 55 48 ≠ 0) := by decide +kernel

theorem witness_tracker : ({ putS with fab := { putS.fab with tracker := [⟨9, 4, 2, [0], 0, 0, 1⟩] } }).trackerOf 9 4 = some ⟨9, 4, 2, [0], 0, 0, 1⟩ := by
  decide

/-- up with link 0 as k. -/
def linkS (k : Link) : State := { putS with links := [(0, k)] }
def flit0 (seq : BitVec 12) (crc tag : Bool) (p : List Packet) : Flit := ⟨seq, 0, false, false, 7, 0, 0, crc, tag, p⟩

theorem witness_links : (linkS { present := true }).linksPowered = true ∧ ((linkS { present := true }).link 0).enable = true ∧
    ((linkS { present := true }).link 0).st = .down ∧ (linkS { present := true }).pow.moduleFault = false ∧
    ((linkS { st := .training }).link 0).st = .training ∧ ((linkS { st := .secure }).link 35).st = .down ∧
    (let k := (linkS { st := .secure, downs := 3 }).link 0
     k.downsWin = (linkS {}).time.toNat / 10000000000 ∧ 3 ≤ k.downs.toNat) ∧
    ((linkS { st := .secure, replayed := [(0, 8)] }).link 0).replayed = [(0, 8)] ∧ (flit0 0 true true []).crcOk = true ∧
    ((linkS { st := .plain }).link 0).tx = [] ∧ ((linkS { enable := false, st := .failed }).link 0).st = .failed ∧
    (flit0 0 true true []).seq = ((linkS { st := .secure }).link 0).seqRx ∧
    2048 ≤ ((flit0 0xFFF true true []).seq - ((linkS { st := .secure }).link 0).seqRx).toNat := by decide

theorem witness_linkPackets : (let p := pk0 1 0 0
    ((linkS { st := .secure, rx := [p] }).link 0).routable = some p ∧ (linkS {}).traceEn = false ∧ (linkS {}).fab.valid = true ∧
    p.dstFid = (linkS {}).fab.fid) ∧
    (let p := { pk0 1 0 0 with dstFid := 8 }
     let s := { linkS { st := .secure, rx := [p] } with fab := { putS.fab with route := [(8, 0x80000000)] } }
     (s.link 0).routable = some p ∧ p.dstFid ≠ s.fab.fid ∧ p.ttl ≠ 0 ∧ s.chooseLink p = some 0 ∧ (linkS {}).chooseLink p = none) ∧
    (let p := pk0 0x40 0 0
     p ∈ ((linkS { rx := [p] }).link 0).rx ∧ p.typ = 0x40) ∧
    (let p := pk0 0x51 0x0005000100000003 0
     p ∈ ((linkS { rx := [p] }).link 0).rx ∧ p.typ = 0x51 ∧ (linkS {}).fab.annEn = true ∧ bits ((linkS {}).lmnAt 5) 63 63 = 1 ∧
     0 < (bits p.w2 47 32 + 65536 - bits ((linkS {}).lmnAt 5) 47 32) % 65536) ∧
    (let p := pk0 0x51 0x0005000000000003 0
     bits p.w2 47 32 = bits ((linkS {}).lmnAt 5) 47 32 ∧ bits p.w2 15 0 ≠ bits ((linkS {}).lmnAt 5) 15 0) ∧
    32768 ≤ (bits (0x0005FFFF00000000 : Word) 47 32 + 65536 - bits ((linkS {}).lmnAt 5) 47 32) % 65536 ∧
    (let p := pk0 0x50 0 0
     p ∈ ((linkS { rx := [p] }).link 0).rx ∧ p.dstFid = (linkS {}).fab.fid ∧
     ∀ i, i < 128 → (SMap.get (fun _ => ({} : Incident)) (linkS {}).fab.incidents i).opened = false) := by decide

/-- Slot 0 holds a cut of group 1, epoch 2. -/
def cutS (p : Packet) : State :=
  { linkS { st := .secure, rx := [p] } with fab := { putS.fab with cuts := [(0, { st := .holding, group := 1, epoch := 2, hold := true })] } }

theorem witness_cut : putS.jobLoaded 0 = true ∧ part0.jobLoaded 0 = false ∧ putS.slotsOf 1 = [] ∧ putS.idleSlot = some 0 ∧
    bits (0x0001000200000001 : Word) 63 48 ≠ 0 ∧ (0x0001000200000001 : Word).getLsbD 1 = false ∧
    (cutS (pk0 0 0 0)).slotsOf 1 = [0] ∧ ((cutS (pk0 0 0 0)).cutAt 0).epoch.toNat = bits (0x0001000200000002 : Word) 47 32 ∧
    ((cutS (pk0 0 0 0)).cutAt 0).st ≠ .superseded ∧ (cutS (pk0 0 0 0)).cutDrained ((cutS (pk0 0 0 0)).cutAt 0) = true ∧
    (∀ t ∈ [(0x49 : BitVec 8), 0x4A], let p := pk0 t 0x200000000 0
      (p ∈ ((cutS p).link 0).rx ∧ p.typ = t) ∧ (cutS p).slotFor p = some 0 ∧ p.w2.getLsbD 1 = false) ∧
    (let p := pk0 0x48 0x200000000 0
     p ∈ ((linkS { rx := [p] }).link 0).rx ∧ p.typ = 0x48 ∧ (linkS { rx := [p] }).slotsOf p.group = [] ∧ (linkS { rx := [p] }).idleSlot = some 0) ∧
    (let p := pk0 0x4B 0x200000000 0
     p ∈ ((cutS p).link 0).rx ∧ (cutS p).slotsOf p.group = [0] ∧ ((cutS p).cutAt 0).epoch.toNat = bits p.w2 47 32) := by decide

/-! ### Ring, spill, cluster and trace registers -/

/-- Cluster 0's commit ring of four entries, with one waiting or none. -/
def ringS (tail : W32) : State := up.updCluster 0 fun g => { g with commit := ⟨0x01000000, 4, tail, 0⟩ }

/-- Core 0 runs, and its cluster's spill FIFO has a word at its head that is visible from a cycle on. -/
def spillS (n : Nat) : State := (at0 k0).updCluster 0 fun g => { g with spill := { head := [(7, n)] } }

theorem witness_ringRegisters : writable (ringS 1) .mgmt 0 = true ∧ (3 : Word).toNat % 2 ^ 32 < (((ringS 1).cluster 0).ring .commit).size.toNat ∧
    (((ringS 1).cluster 0).ring .commit).size.toNat ≤ (4 : Word).toNat % 2 ^ 32 ∧
    (((ringS 1).cluster 0).ring .commit).head ≠ (((ringS 1).cluster 0).ring .commit).tail ∧ writable (ringS 0) .mgmt 0 = true ∧
    (((ringS 0).cluster 0).ring .commit).head = (((ringS 0).cluster 0).ring .commit).tail ∧
    0x01000040 % 64 = 0 ∧ rangeMem 0x01000040 (64 * 4) = some .act ∧ ¬ (0x01000001 % 64 = 0) ∧ (4 = 0 ∨ (4 ≤ 4 ∧ ∃ j, 4 = 2 ^ j)) ∧
    (0 : Nat) ≤ 256 ∧ 256 ≤ 256 := by
  refine ⟨by decide, by decide, by decide, by decide, by decide, by decide, by decide, by decide, by decide, Or.inr ⟨by decide, 2, by decide⟩, by decide, by decide⟩

theorem witness_spill : (up.cluster 0).spill.tail = [] ∧ (up.cluster 0).spill.midLen = 0 ∧ (up.cluster 0).spill.held = [] ∧
    (up.cluster 0).spill.head.length + ((up.cluster 0).spill.popped.filter fun c => up.cycle < c + 3).length < 16 ∧
    ready (spillS 0) c0 4 [.s 5] = true ∧ ((fetched (spillS 0) c0 4).cluster 0).spill.head = (7, 0) :: [] ∧
    0 ≤ (fetched (spillS 0) c0 4).cycle ∧ ready (spillS 9) c0 4 [.s 5] = true ∧
    ((fetched (spillS 9) c0 4).cluster 0).spill.head = (7, 9) :: [] ∧ (fetched (spillS 9) c0 4).cycle < 9 := by decide

theorem witness_clusterRegisters : ready (at0 (s1 5)) c0 4 [.s 1] = true ∧ (s1 5).stores = [] ∧
    part0.partOf 0 = some 0 ∧ (part0.part 0).cfg = some rec0 ∧ (∀ d : Fin 32, d.val < 0 → rec0.clusters.getLsbD d.val = false) ∧
    up.partOf 0 = none ∧ up.traceEn = false ∧
    (let s : State := { part0 with traceEn := true, traceMask := 1 }
     (s.cluster 0).traced = 0 ∧ s.traceEn = true ∧ s.traceMask.getLsbD 0 = true) := by decide +kernel

/-! ### Codes -/

/-- Core 0 with a load and a store outstanding since cycle 0, at cycle 32. -/
def agedS : State := { (at0 { k0 with
    loads := [⟨.scalar .lb 1, 0, 0, 0, 0, false, 0, false⟩], stores := [⟨0, 0, 1, 0, 0, 0, false⟩]
    feAt := some (clusterAddr 0 0x01000000, (0, false)) }) with cycle := 32 }

/-- Cluster 0's first activation word has one bit inverted and waits for its write-back. -/
def wbS : State := { (up.updCluster 0 fun g => { g with writebacks := [0x01000000] }) with flips := [(clusterAddr 0 0x01000000 / 8, [⟨63, 1⟩])] }

theorem witness_codes : (agedS.core c0).loads[(0 : Fin 16).val]?.isSome = true ∧ (agedS.core c0).stores[(0 : Fin 16).val]?.isSome = true ∧
    (agedS.cluster 0).age.toNat ≤ agedS.cycle - 0 ∧ (agedS.core c0).feAt = some (clusterAddr 0 0x01000000, (0, false)) ∧
    (let e : TmExec := { tmNew 0 0 [2, 0, 0, 0x40, 0, 9, 0, 0] with total := 1, dst := clusterAddr 0 0x01000000 }
     ∃ r ∈ e.ranges, (bankAt r.1).isSome) ∧
    (0x01000000 : BitVec 32).toNat % 8 = 0 ∧ populated (0x01000000 : BitVec 32).toNat = true ∧
    (0x01000000 : BitVec 32).toNat ∈ (wbS.cluster 0).writebacks ∧ wbS.inject = [] ∧ wbS.flipsAt (clusterAddr 0 0x01000000) = [⟨63, 1⟩] ∧
    (up.cluster 0).pstate = 0 ∧ (up.cluster 0).zeroising = false ∧ up.coresReset 0 = true ∧
    (let s := at0 k0
     s.quiet 0 = false ∧ s.coresReset 0 = false) ∧ ((up.updCluster 0 fun g => { g with zeroising := true }).cluster 0).zeroising = true := by decide

theorem witness_scrubAndInject : (∀ u ∈ [ScrubUnit.d1 0, .d2 0, .sram 0], (up.scrubCtl u).1.enable = true ∧ up.scrubRuns u = true) ∧ up.flips = [] ∧
    fromCore .mgmt = false ∧ up.anyJob = false ∧ (fabS []).anyJob = true ∧ (1 : Word).getLsbD 0 = true ∧
    up.armRefused 1 { up.injectOf 1 with npos := 1, pattern := 1, arm := true } = false ∧
    up.armRefused 1 { up.injectOf 1 with npos := 0, arm := true } = true := by decide

/-! ### Security -/

/-- A command of physical function A, and one of tenant 0. -/
def hA : Hdr := ⟨.pf .a, 0, 1⟩
def hV : Hdr := ⟨.vf 0, 1, 2⟩

/-- Function k enabled by its host (CC.EN). -/
def fnOn (k : Nat) (g : Fn) : Nat × Fn := (k, { g with bar0 := { g.bar0 with cc := 1 } })

/-- The module serving on both ports, port A holding the semaphore. -/
def host0 : State := { up with fns := [fnOn 0 (Fn.reset 0), fnOn 1 (Fn.reset 1)], ports := [(0, { perst := false, linkUp := true }), (1, { perst := false, linkUp := true })], ownsem := 1, sec := { Sec.reset with island := .running } }

/-- host0 with namespaces 1 (blocks) and 2 (tiles) attached to port A, and tenant 0 online. -/
def host1 : State := { host0 with nss := nss0, fns := host0.fns ++ [fnOn 2 { online := true, pairs := 2, vectors := 3 }] }

/-- Owners 0 and 1 enrolled, a nonce out, at a level. -/
def owned (locks : SMap Bool) (word23 : Word) : State :=
  { host0 with sec := { host0.sec with otp := if word23 = 0 then [(0x22, 3)] else [(0x22, 3), (0x23, word23)], otpLock := locks, nonces := [(9, 0)] } }
def sg (ok : Bool) : Signed := ⟨0, 9, ok⟩

theorem witness_owner : ownerServed (owned [(0x24, true)] 0) hA ∧ (sg true).verifies = true ∧ (owned [(0x24, true)] 0).sec.ownerOk 0 = true ∧
    (owned [(0x24, true)] 0).nonceOk 9 = true ∧ (owned [(0x24, true)] 0).sec.ownerOk 1 = true ∧ (owned [(0x24, true)] 0).sec.locked 0x22 = false ∧
    (List.range 4).find? (fun k => !(owned [(0x24, true)] 0).sec.enrolled k) = some 2 ∧
    (∀ i, i < 6 → (owned [(0x24, true)] 0).sec.locked (0x0A + 6 * 2 + i) = false) ∧ (owned [(0x24, true)] 0).anyJob = false := by
  refine ⟨⟨by unfold serving; decide, ⟨.a, rfl⟩, by decide, by decide, by decide⟩, by decide, by decide, by decide, by decide, by decide, by decide, by decide, by decide⟩

/-- Level 0 with RAISE words left, level 1 with epochs and tickets left, a job loaded, and a free OTP word. -/
theorem witness_levels : (owned [] 0).sec.level = 0 ∧ (List.range 16).find? (fun i => !(owned [] 0).sec.locked (0x24 + i)) = some 0 ∧
    (owned [(0x24, true)] 0).sec.level = 1 ∧ (owned [(0x24, true)] 0).sec.locked 0x23 = false ∧ (owned [(0x24, true)] 0).sec.epoch < 1024 ∧
    (owned [(0x24, true)] 0).sec.word 0x34 = 0 ∧ (owned [(0x24, true)] 0).sec.locked 0x34 = false ∧
    (owned [(0x23, true), (0x24, true)] 1).sec.level = 2 ∧
    (let s := (owned [(0x24, true)] 0).updPart 0 fun p => { p with job := { p.job with state := .running } }
     s.anyJob = true ∧ ownerServed s hA) ∧ (0xD0 : Nat) ≤ (0xFF : BitVec 8).toNat ∧ (owned [] 0).sec.locked 0xFF = false := by
  refine ⟨by decide, by decide, by decide, by decide, by decide, by decide, by decide, by decide, ⟨by decide, by unfold serving; decide, ⟨.a, rfl⟩, by decide, by decide, by decide⟩, by decide, by decide⟩

/-- A first owner, one already enrolled, and a signature that does not verify. -/
theorem witness_enrol : ownerServed host0 hA ∧ (∀ k, k < 4 → host0.sec.enrolled k = false) ∧ host0.sec.locked 0x22 = false ∧
    (owned [] 0).sec.enrolled 0 = true ∧ (sg false).verifies = false := by
  refine ⟨⟨by unfold serving; decide, ⟨.a, rfl⟩, by decide, by decide, by decide⟩, by decide, by decide, by decide, by decide⟩

theorem witness_keys : serving host1 hA false ∧ host1.sec.kpio.length < 65536 ∧ (∃ v, host1.nsFor (.pf .a) 1 = some v ∧ v.opal = false ∧ v.kpio = false) ∧
    (let s : State := { host1 with nss := [(1, some { kind := .block, blocks := 16, attached := [.pf .a], key := 1, opal := true })] }
     (∃ v, s.nsFor (.pf .a) 1 = some v ∧ v.opal = true)) ∧
    (let s : State := { host0 with sec := { host0.sec with lowering := some (.erasing 0) } }
     s.sec.lowering = some (.erasing 0) ∧ s.sec.locked 0x34 = false) := by
  refine ⟨by unfold serving; decide, by decide, ⟨_, rfl, rfl, rfl⟩, ⟨_, rfl, rfl⟩, by decide⟩

/-! ### The media -/

def d0 : DieId := ⟨0, 0⟩
def pg0 : PageAddr := ⟨d0, 0, 0, 0⟩

/-- The module up with die 0 of channel 0 as d. -/
def dieS (d : Die) : State := up.updDie d0 fun _ => d
def prog (st : DieOpState) : DieOp := { kind := .program [1 <<< 23], st := st, suspAt := 0, suspTot := 0 }
def erasing (st : DieOpState) : DieOp := { kind := .erase 1 5, st := st, suspAt := 0, suspTot := 0 }

/-- Reads of codeword 3 of page 0: for partition 0, and for the hub's own work. -/
def rd0 : FlashRead := { page := pageKey pg0, cw := 3, part := some 0 }
def rdHub : FlashRead := { rd0 with part := none }

theorem witness_dieRead : up.dieThere d0 = true ∧ ({ up with variant := .v123 }).dieThere ⟨0, 14⟩ = false ∧
    (dieS { failed := true }).dieFailed d0 = true ∧ up.dieFailed d0 = false ∧ (up.die d0).op = none ∧ (up.die d0).reads = [] ∧
    up.prlMerge = true ∧ (∃ y ∈ ((dieS { reads := [rd0] }).die d0).reads, y.page = pageKey pg0 ∧ y.cw = 3 ∧ y.part = some 0) ∧
    (∀ y ∈ (up.die d0).senses, y.1 ≠ pg0.plane) ∧ (∃ y ∈ ((dieS { senses := [(0, rd0)] }).die d0).senses, y.1 = pg0.plane) ∧
    (erasing .running).erases (pageKey pg0) = false ∧ (erasing .running).erases (pageKey ⟨d0, 0, 5, 3⟩) = true ∧
    (prog .running).erases (pageKey pg0) = false ∧ (prog .running).programs (pageKey pg0) = false ∧
    (dieS { op := some (prog .running) }).unsuspended d0 (prog .running) = false ∧
    ((dieS { op := some (prog .running) }).setHold d0 true).unsuspended d0 (prog .running) = true := by
  refine ⟨by decide, by decide, by decide, by decide, by decide, by decide, by decide, ⟨rd0, by decide, by decide⟩, by decide,
    ⟨(0, rd0), by decide, rfl⟩, by decide, by decide, by decide, by decide, by decide, by decide⟩

theorem witness_suspend : (let s := dieS { op := some (prog .suspending), reads := [rd0] }
     (s.die d0).op = some (prog .suspending) ∧ (s.die d0).reads = [rd0] ∧ (s.die d0).senses = [] ∧ s.arb.isolated = false ∧
       s.unsuspended d0 (prog .suspending) = false) ∧ ((dieS { op := some (prog .suspending) }).die d0).reads = [] ∧
    (dieS { op := some (prog .suspended) }).mayWork = true ∧ ((dieS { op := some (prog .suspended) }).die d0).senses = [] ∧
    ((dieS { senses := [(0, rd0)] }).die d0).senses = [(pg0.plane, rd0)] := by decide

/-- LDPC engine 15 at the slot of channel 63; a codeword of 240 corrected bits, one that needs recovery. -/
def cwS (l : Ldpc) (bad : Bool) : State :=
  { up with ldpc := [(0, l)], cwords := [(cwKey (pageKey pg0) 3, some { owner := some (1, 7), data := 5, key := 1, bad := bad })] }

/-- Partition 0 with 48 of the 64 positions of a frame, in isolated arbitration. -/
def isoS : State := { part0 with arb := { up.arb with isolated := true } }

theorem witness_ldpc : (let s : State := { up with ldpc := [(15, { slot := 3 })], chans := [(63, { toLdpc := [rd0] })] }
     (63 : Fin 64).val = 4 * (15 : Fin 16).val + (s.ldpcOf 15).slot % 4 ∧ (s.chan 63).toLdpc = [rd0] ∧ (s.chan 63).busy = 0 ∧
       (s.chan 63).toPraline = [] ∧ s.arb.isolated = false) ∧ (up.chan 0).toLdpc = [] ∧
    (isoS.posOwner 0 = some 0 ∧ [rdHub, rd0].find? (fun y => y.part = isoS.posOwner 0) = some rd0 ∧
      ∀ y ∈ [rdHub], y.part ≠ isoS.posOwner 0) ∧
    (let s := cwS { inflight := [rd0], recover := [(rd0, false)], rebuild := [rd0] } false
     engineOf (pageKey pg0) = 0 ∧ (s.ldpcOf 0).inflight = rd0 :: [] ∧ (s.cwAt (cwKey (pageKey pg0) 3)).isSome = true ∧
     ((s.cwAt (cwKey (pageKey pg0) 3)).map (·.bad)) = some false ∧ s.dieFailed d0 = false ∧
     (s.ldpcOf 0).recover.find? (fun y => y.1.page = pageKey pg0 && y.1.cw = 3) = some (rd0, false) ∧
     (s.ldpcOf 0).rebuild.find? (fun y => y.page = pageKey pg0 && y.cw = 3) = some rd0) ∧
    ((cwS {} true).cwAt (cwKey (pageKey pg0) 3)).map (·.bad) = some true ∧ (240 : Nat) ≤ 240 ∧ 240 < 241 := by decide +kernel

/-- A program suspended for SUSP_LIMIT on a die of few free blocks; isolated die time with its turn unassigned and assigned. -/
theorem witness_holds : (let s : State := { dieS { op := some (prog .suspended) } with time := 20000000, suspCtl := 0x1400FFFFFFFF0006 }
     (s.die d0).op = some (prog .suspended) ∧ (prog .suspended).st ≠ .running ∧ s.suspLimit ≤ s.suspended (prog .suspended) ∧ s.freeBlocks d0 < s.freeHi) ∧
    (dieS { op := some (prog .suspended) }).suspended (prog .suspended) < (dieS { op := some (prog .suspended) }).suspLimit ∧
    (let s : State := { dieS { op := some (prog .suspended) } with arb := { up.arb with isolated := true } }
     s.arb.isolated = true ∧ s.turnUnassigned = true ∧ s.time.toNat % 80000 < 50000 ∧ (s.die d0).senses = []) ∧
    50000 ≤ (50000 : Word).toNat % 80000 ∧ (49999 : Word).toNat % 80000 < 50000 ∧
    (let s : State := { part0 with arb := { up.arb with isolated := true }, dies := (dieS { op := some (prog .running) }).dies }
     s.arb.isolated = true ∧ s.turnUnassigned = false ∧ (s.die d0).op = some (prog .running)) ∧ up.arb.isolated = false := by decide

theorem witness_patrol : (let s : State := { up with blocks := [(dieBlock d0 3 2759, { reads := 200000, refresh := some 9 })] }
     (s.blockAt (dieBlock d0 3 2759)).scanned < ((s.blockAt (dieBlock d0 3 2759)).reads + s.lossReads - (s.blockAt (dieBlock d0 3 2759)).base).toNat / max 1 (bits s.rdCtl 63 32) ∧
     s.dieFailed d0 = false ∧ (s.blockAt (dieBlock d0 3 2759)).refresh = some 9 ∧
     (∀ e ∈ s.blocks, e.2.refresh.getD 0 ≤ 9) ∧ (s.validCws fun c => c / 2 ^ 13 = dieBlock d0 3 2759) = []) ∧
    ((up.blockAt 0).reads + up.lossReads - (up.blockAt 0).base).toNat / max 1 (bits up.rdCtl 63 32) ≤ (up.blockAt 0).scanned ∧
    (up.blockAt 0).refresh = none := by decide

/-- A unit of namespace 1 in the write buffer. -/
def bufU (u : BitVec 38) (d : Unit4K) : BufUnit := { nsid := 1, unit := u, data := d, cls := .warm }

/-- Channels 2 to 31 failed: a stripe of group 0 has one data page. -/
def few : State :=
  { up with
    nss := nss0
    chans := (List.range 30).map fun i => (i + 2, { failed := true })
    bands := [(0, { state := .opened, cls := .warm })]
    buffer := [bufU 0 1, bufU 1 2, bufU 2 3, bufU 3 4] }

theorem witness_stripe : (0 : Fin 30).val < groupsOf few.variant ∧ few.openBand 0 (some .warm) = some 0 ∧
    few.stripePages 0 0 (few.bandAt 0).next = some ([1 <<< 29], 0) ∧ 4 * [1 <<< 29].length ≤ (few.gatherable 0 (some .warm) false).length ∧
    (∀ y ∈ few.buffer, y.place = none) ∧ (∀ y ∈ few.loose (some .warm), few.inTile y = false) ∧
    (few.gatherable 0 (some .warm) false).Nodup ∧ (few.bandAt 0).carry = none ∧ (few.bandAt 0).next < 6144 ∧
    (few.gatherable 0 (some .hot) false).length < 4 * ((few.liveDies 0).length - 1) := by decide +kernel

theorem witness_program : (let w := (List.range 12).map fun i => i % 4 * 2 ^ 23 + i / 4
     (dieS { programs := [w] }).dieFree d0 = true ∧ ((dieS { programs := [w] }).die d0).programs = w :: [] ∧
     (w.filter fun p => (w.filter fun q => pagePlane q = pagePlane p).length = 3) ≠ [] ∧
     ([0, 1].filter fun p => ([0, 1].filter fun q => pagePlane q = pagePlane p).length = 3) = []) ∧
    (let s := dieS { op := some (prog .running) }
     (s.die d0).op = some (prog .running) ∧ (prog .running).kind = .program [1 <<< 23] ∧ (s.die d0).reads = [] ∧ s.stripes = []) ∧
    (let u : Stripe := { group := 0, pages := [1 <<< 23], pending := [1 <<< 23], units := [(1 <<< 23, 0, bufU 0 1)], failed := false }
     let s : State := { dieS { op := some (prog .running) } with stripes := [u], buffer := [bufU 0 1], nss := nss0 }
     s.stripes = [u] ∧ (∀ q ∈ u.pending, q ∈ [1 <<< 23]) ∧ u.units = [] ++ (1 <<< 23, 0, bufU 0 1) :: [] ∧
       bufU 0 1 ∈ s.buffer ∧ s.nsIsTile 1 = false ∧ (s.buffer.filter (· = bufU 0 1)).length = 1) := by
  refine ⟨by decide +kernel, by decide, ⟨rfl, by decide, rfl, List.mem_cons_self .., by decide, by decide +kernel⟩⟩

theorem witness_erase : (let s : State := { up with bands := [(5, { state := .closed })] }
     (0xF : BitVec 4) ≠ 0 ∧ s.dieFree d0 = true ∧ ∀ p : Fin 4, s.erasable (dieBlock d0 p.val 5) = true) ∧
    up.erasable (dieBlock d0 0 5) = false ∧ (dieS { op := some (erasing .running) }).dieFree d0 = false ∧
    ((dieS { op := some (erasing .running) }).die d0).op = some (erasing .running) ∧ (erasing .running).kind = .erase 1 5 ∧
    64 < ((dieS { retired := 65 }).die d0).retired ∧ ((dieS { retired := 64 }).die d0).retired ≤ 64 ∧ (up.chan 63).failed = false := by decide

theorem witness_relocation : (∃ e ∈ groupDies few.variant (groupOf few.variant pg0.die), few.dieFailed e = true) ∧
    few.buffer.length ≤ few.bufCap ∧ (few.validCws fun k => k / 4 = pageKey pg0) = [] ∧
    (∀ e ∈ groupDies up.variant (groupOf up.variant pg0.die), up.dieFailed e = false) ∧ bits up.mediaCtl 15 8 ≤ up.freeBands 29 := by
  refine ⟨⟨⟨31, 0⟩, by decide +kernel, by decide +kernel⟩, by decide +kernel, by decide +kernel, by decide +kernel, by decide +kernel⟩

/-- RECLAIM_HI is 255, and 2,511 bands of group 0 are used, one of them closed. -/
def lowS : State := { up with mediaCtl := 0xFF02, bands := (0, { state := .closed, stamp := 1 }) :: (List.range 2510).map fun n => (n + 1, { state := .dead }) }

theorem witness_reclaim : lowS.freeBands 0 < bits lowS.mediaCtl 15 8 ∧ (lowS.reclaimChoice 0).isSome = true ∧
    lowS.buffer.length ≤ lowS.bufCap ∧ (lowS.validCws fun k => lowS.bandOfPage (k / 4) = 0) = [] := by
  have h : lowS.freeBands 0 = 219 := by decide +kernel
  have h2 : bits lowS.mediaCtl 15 8 = 255 := by decide +kernel
  refine ⟨?_, by decide +kernel, by decide +kernel, ?_⟩
  · rw [h, h2]
    decide
  · simp [lowS, State.validCws, up, State.reset]

/-! ### Start-up, power, management -/

/-- A record of Ochre. -/
def root0 : RootRec :=
  { seq := 1, time := 5, marks := [1], failed := [(3, 1, true)], parts := [some rec0], arb := State.reset.arb, bindings := [], reserves := [2], san := {}, quads := [], reads := [], lossReads := 0 }

/-- The module at a step of start-up, with its inputs. -/
def stageS (st : Stage) (c : ComputeStage) : State :=
  { State.reset with pow := { State.reset.pow with mainIn := true, auxIn := true, stage := st, compute := c, holdupOk := true } }

/-- The header of that record: LENGTH 4096, SEQ 1, TIME 5, FORMAT 1, seven sections, and the CRC32C of it and 4,032 bytes of 0xFF. -/
def rootHead : List Byte := toBytes 0x100001000 8 ++ toBytes 5 8 ++ toBytes 0x10700 8 ++ List.replicate 36 0 ++ toBytes 0xBA0E9512 4

def rootS : State := ({ stageS .verified .off with rootRecs := [(0x3800000, some root0)] }).cflStore 0x3800000 rootHead

/-- The CRC register after n bytes of 0xFF, and its values after each 63 of them. -/
def crcFF (n : Nat) (c : BitVec 32) : BitVec 32 := (List.replicate n (0xFF : Byte)).foldl crcByte c

def crcChain (c : BitVec 32) : List (BitVec 32) → Bool
  | [] => true
  | d :: l => crcFF 63 c == d && crcChain d l

theorem crcFF_add (a b : Nat) (c : BitVec 32) : crcFF (a + b) c = crcFF b (crcFF a c) := by
  rw [crcFF, ← List.replicate_append_replicate, List.foldl_append]
  rfl

theorem crcChain_last (l : List (BitVec 32)) : ∀ c, crcChain c l = true → crcFF (63 * l.length) c = l.getLastD c := by
  induction l with
  | nil => intro c _; rfl
  | cons d l ih =>
    intro c h
    simp only [crcChain, Bool.and_eq_true, beq_iff_eq] at h
    rw [List.length_cons, Nat.mul_succ, Nat.add_comm, crcFF_add, h.1, ih d h.2, List.getLastD_cons]

def crcSteps : List (BitVec 32) :=
  [0x786BEB13, 0x091BD57C, 0x49B802E4, 0x270B0750, 0x897B6675, 0x73F9C631, 0xA06B2C1E, 0x235766FF, 0x87613490, 0xAE009C8C,
   0x54A9ED40, 0x4D3D46A9, 0x85B41B32, 0x618C3F35, 0x99F0E493, 0xA382D975, 0xE041A85F, 0xDD4E343E, 0x0D3EAF50, 0xE22F70EB,
   0x27FAC517, 0xA3A0E87B, 0x67958149, 0xF182344E, 0xCA4786D3, 0x505151DB, 0xC39C2D96, 0xC3DBB7CC, 0x6587A6FC, 0xBF1F1156,
   0x1BD3B395, 0xAEA734D9, 0x1640AF27, 0xC8178D20, 0x0E7447FD, 0xAE843073, 0xEEB99787, 0x6300FE1F, 0x1944D321, 0x2D9B625F,
   0xFA6ADE69, 0x453D7A5D, 0x1A1A85DC, 0x64CFCBB2, 0x1AA6B0C5, 0xCF99BEF9, 0x0B1EF15C, 0x2D7B3924, 0xE6E64205, 0x2C058189,
   0x4B601F9E, 0xCC9871AB, 0xA6E3B738, 0xF6222B66, 0x2C14B861, 0x7C4F2187, 0xCF32481F, 0xA330E8CC, 0x5F17E5E3, 0xDA8B0EDE,
   0xAC9E1317, 0xAB1EF59E, 0x0B76D591, 0x45F16AED]

theorem crcSteps_chain : crcChain 0xACF8676A crcSteps = true := by decide +kernel

/-- A record of 4,096 bytes whose first 60 bytes leave that CRC register, with its CRC and nothing programmed after its header. -/
theorem rec_valid (s : State) (format top a : Nat) (keys : s.cfl.all (fun e => e.1 < a + 64) = true)
    (reg : (s.cflBytes a 60 ++ List.replicate 4 0).foldl crcByte 0xFFFFFFFF = 0xACF8676A) (len : ofBytes (s.cflBytes a 4) = 4096)
    (fmt : ofBytes (s.cflBytes (a + 18) 2) = format) (crc : ofBytes (s.cflBytes (a + 60) 4) = 0xBA0E9512) (room : a + 4096 ≤ top) :
    s.recValid format top a = true := by
  have far (m : SMap Byte) (k : Nat) (h : m.all (fun e => e.1 < a + 64) = true) (hk : a + 64 ≤ k) :
      SMap.get (fun _ => (0xFF : Byte)) m k = 0xFF := by
    induction m with
    | nil => rfl
    | cons e m ih =>
      rw [List.all_cons, Bool.and_eq_true, decide_eq_true_eq] at h
      rw [SMap.get, if_neg (by omega)]
      exact ih h.2
  have all (i : Nat) : s.cflByte (a + 64 + i) = 0xFF := far _ _ keys (Nat.le_add_right ..)
  have rest : s.cflBytes (a + 64) 4032 = List.replicate 4032 0xFF := by
    simp only [State.cflBytes, all]
    rw [List.map_const', List.length_range]
  have sum : crc32c (s.cflBytes a 60 ++ List.replicate 4 0 ++ s.cflBytes (a + 64) 4032) = 0xBA0E9512 := by
    have run : crcFF 4032 0xACF8676A = 0x45F16AED := crcChain_last crcSteps _ crcSteps_chain
    rw [crc32c, List.foldl_append, reg, rest, ← crcFF, run]
    decide
  have valid (n v c : Nat) (d : BitVec 32) (hn : ofBytes (s.cflBytes a 4) = n) (hv : ofBytes (s.cflBytes (a + 18) 2) = v)
      (hc : ofBytes (s.cflBytes (a + 60) 4) = c)
      (hd : crc32c (s.cflBytes a 60 ++ List.replicate 4 0 ++ s.cflBytes (a + 64) (n - 64)) = d) :
      s.recValid format top a = (decide (4096 ≤ n) && decide (n ≤ 65536) && decide (a + n ≤ top) && decide (v = format) &&
        decide (d = BitVec.ofNat 32 c)) := by
    subst hn hv hc hd
    rfl
  rw [valid _ _ _ _ len fmt crc sum]
  simp [room]

theorem rootS_valid : rootS.recordValid 0x3800000 = true :=
  rec_valid _ _ _ _ (by decide +kernel) (by decide +kernel) (by decide +kernel) (by decide +kernel) (by decide +kernel) (by decide)

theorem witness_newestRoot : rootS.newestRoot = some (0x3800000, root0) ∧ rootS.pow.stage = .verified ∧ rootS.pow.mainIn = true := by
  have seq : rootS.recordSeq 0x3800000 = 1 := by decide +kernel
  have one : rootS.rootRecs = [(0x3800000, some root0)] := rfl
  refine ⟨?_, rfl, rfl⟩
  simp only [State.newestRoot, one, List.foldl_cons, List.foldl_nil, rootS_valid, seq]
  rfl

theorem witness_startUp : State.reset.pow.stage = .off ∧ up.pow.stage ≠ .off ∧ (stageS .alwaysOn .off).pow.stage = .alwaysOn ∧
    (stageS .alwaysOn .off).sec.lowering = none ∧
    ((stageS .alwaysOn .off).slotOk 0 = true ∧ (0 = (stageS .alwaysOn .off).sec.nextSlot ∨ (stageS .alwaysOn .off).slotOk (stageS .alwaysOn .off).sec.nextSlot = false)) ∧
    (let s : State := { stageS .alwaysOn .off with sec := { Sec.reset with fw := [], island := .recovery } }
     s.slotOk 0 = false ∧ s.slotOk 1 = false ∧ s.sec.island = .recovery ∧ s.fwOk ⟨false, 0, 0, true, true⟩ = true ∧
       s.fwOk ⟨false, 0, 0, false, true⟩ = false) ∧
    (stageS .verified .off).pow.stage = .verified ∧ (stageS .verified .off).pow.mainIn = true ∧ (stageS .verified .off).newestRoot = none ∧
    (stageS .storage .off).pow.stage = .storage ∧
    (stageS .d2Trained .off).pow.stage = .d2Trained ∧ (stageS .d2Filled .powered).pow.compute = .powered ∧
    (stageS .d2Filled .trained).pow.compute = .trained ∧ (stageS .rootsLoaded .filled).pow.holdupOk = true ∧
    ({ stageS .rootsLoaded .filled with pow := { (stageS .rootsLoaded .filled).pow with holdupOk := false } }).pow.holdupOk = false ∧
    (∀ x ∈ (stageS .rootsLoaded .filled).heldCmds, Held.isCompute x = false) ∧ (1 : Nat) ≤ 950 ∧ 950 < 951 ∧ 1099 < 1100 := by decide +kernel

theorem witness_resets : host0.ownsem = semOf .a ∧ host0.anyJob = false ∧ host0.ownsem ≠ semOf .b ∧ host0.absent .a = false ∧
    ({ host0 with x16 := true }).absent .b = true ∧ host0.san.active = none ∧ (fabS []).anyJob = true ∧ host0.pow.mainIn = true ∧
    host0.pow.auxIn = true ∧ ({ host0.pow with auxIn := false }).auxIn = false ∧ host0.pow.fatal = false ∧
    (let s : State := { host0 with time := 24100000, pow := { host0.pow with mainIn := false, lossAt := some 0 } }
     s.pow.mainIn = false ∧ s.pow.stage ≠ .off ∧ s.pow.lossAt = some 0 ∧ (s.time - 0).toNat ≤ lossTicks s.variant) ∧
    lossTicks .v245 < ((24100001 : Word) - 0).toNat := by decide

/-- Autonomous power state transitions are on at both ports: after 1 ms to PS1 from PS0. -/
def apstS (n : Fin 5) : State :=
  let g (k : Nat) : Nat × Fn := fnOn k { Fn.reset k with feats := [(0x0C, 1)], apst := [0x108] }
  { host0 with fns := [g 0, g 1], time := 1000000, pow := { host0.pow with pstate := n } }

theorem witness_powerStates : (∀ p, asksFor (apstS 0) p 1) ∧ (apstS 0).heldCmds = [] ∧ (apstS 0).pow.move = none ∧ (apstS 0).pow.pstate < 1 ∧
    (apstS 0).pow.stage = .ready ∧ (apstS 0).anyJob = false ∧ host0.serves (.pf .a) = true ∧ (host0.fn (.pf .a)).feat 0x0C = 0 ∧
    ({ (apstS 0).pow with move := some (.entering 4), wakeTo := some 2 }).move = some (.entering 4) ∧ wakeTarget .storage < (apstS 3).pow.pstate ∧
    (apstS 0).pow.pstate ≤ wakeTarget .compute ∧ ({ (apstS 4).pow with move := some (.exiting 2) }).wakeTo = none := by
  refine ⟨fun p => ?_, by decide +kernel⟩
  unfold asksFor
  cases p <;> decide +kernel

theorem witness_allIdle : (apstS 0).allIdle = true := by decide +kernel

theorem witness_clusterSleep : (up.cluster 0).pstate = 0 ∧ (up.cluster 0).gateEn = true ∧ up.coresReset 0 = true ∧ up.pow.compute = .ready ∧
    ((up.updCluster 0 fun g => { g with offEn := true }).cluster 0).offEn = true ∧ up.jobOn 0 = false ∧ (up.cluster 0).offEn = false ∧
    (let g := (up.updCluster 0 fun g => { g with pstate := 3, wakeFrom := 2 }).cluster 0
     g.pstate = 3 ∧ g.wakeWrites = [] ∧ g.wakeFrom = 2) ∧ bits (7 : Word) 4 0 < 8 ∧ 8 ≤ bits (28 : Word) 4 0 ∧ 28 < bits (29 : Word) 4 0 := by decide

theorem witness_temperatures : 105 ≤ (105 : BitVec 8).toNat ∧ (104 : BitVec 8).toNat < 105 ∧ (99 : BitVec 8).toNat < 100 ∧
    ({ up.pow with throttled := true }).throttled = true ∧ 115 ≤ (115 : BitVec 8).toNat ∧ (114 : BitVec 8).toNat < 115 ∧ 50 < 51 ∧
    host0.sec.island = .running ∧ up.sec.island ≠ .running := by decide

def mgmtS (m : Mgmt) : State := { host0 with mgmt := m, time := 5000000 }

/-- A record of mirror slot 0 that holds the state as it is. -/
def mirr0 : MirrorRec := { (mgmtS {}).mirrorRecord 3 with time := 0x574B0ABC, size := 4096 }

/-- Its header: LENGTH 4096, SEQ 3, FORMAT 2, five sections, and its CRC32C. -/
def mirrHead : List Byte := toBytes 0x300001000 8 ++ toBytes 0x574B0ABC 8 ++ toBytes 0x20500 8 ++ List.replicate 36 0 ++ toBytes 0xBA0E9512 4

def mirrS : State := (mgmtS { mirrors := [(0x3400000, some mirr0)] }).cflStore 0x3400000 mirrHead

theorem witness_mirror : mirrS.newestMirror = some (0x3400000, mirr0) ∧ mirrS.traceEn = false ∧ mirrS.sec.island = .running := by
  have valid : mirrS.mirrorValid 0x3400000 = true :=
    rec_valid _ _ _ _ (by decide +kernel) (by decide +kernel) (by decide +kernel) (by decide +kernel) (by decide +kernel) (by decide)
  have seq : mirrS.recordSeq 0x3400000 = 3 := by decide +kernel
  have one : mirrS.mgmt.mirrors = [(0x3400000, some mirr0)] := rfl
  refine ⟨?_, rfl, rfl⟩
  simp only [State.newestMirror, one, List.foldl_cons, List.foldl_nil, valid, seq]
  rfl

theorem mirrorStale_same {s : State} {a : Nat} {r : MirrorRec} (h : s.newestMirror = some (a, r))
    (e : { s.mirrorRecord r.seq with time := r.time, size := r.size } = r) : s.mirrorStale = false := by
  simp [State.mirrorStale, h, e]

theorem mirrS_record : { mirrS.mirrorRecord mirr0.seq with time := mirr0.time, size := mirr0.size } = mirr0 := by
  have part (p : Fin 12) : mirrS.part p = (mgmtS {}).part p := rfl
  have seq : mirr0.seq = 3 := rfl
  simp only [seq, State.mirrorRecord, part]
  rfl

theorem witness_mirrorSame : mirrS.mirrorStale = false := mirrorStale_same witness_mirror.1 mirrS_record

theorem witness_mirrorEarly : (5000000 - 0 : Word).toNat < mirrS.mgmt.mirrorInt.toNat * 1000000000 := by
  rw [show mirrS.mgmt.mirrorInt.toNat = 60 from rfl, show (5000000 - 0 : Word).toNat = 5000000 from rfl]
  omega

theorem witness_mirrorDue : (mgmtS {}).rootBusy true = false ∧ (mgmtS {}).rootBusy false = false ∧ (mgmtS {}).mirrorStale = true ∧
    (0x574B0ABC - 0x574B0ABC : Word).toNat < 10000000000 := by decide

theorem witness_mgmt : host0.mgmt.halted = false ∧ (0 : Fin 2) = host0.mgmt.active ∧ (1 : Fin 2) ≠ host0.mgmt.active ∧
    5000000 ≤ ((mgmtS {}).time - (mgmtS {}).mgmt.beatAt).toNat ∧ (mgmtS {}).mgmt.standbyOk = true ∧ (mgmtS {}).traceEn = false ∧
    (mgmtS { standbyOk := false }).mgmt.standbyOk = false ∧
    (host0.time - host0.mgmt.beatAt).toNat < 5000000 := by decide

/-- Partition 0's watch 0 logs to namespace 1; cluster 0 has a record of 64 bytes and no scales to write for it. -/
def dump0 : Dump := { w := 0, words := stWords 0x03005000, step := 0, rerun := false, time := 0, dstD := desc0, foot := (0x02000000, 64), scales := (0x02000040, 0) }
def watch0 (next dumps : Nat) (full : Bool) : Watch := ⟨{ symbol := 1, maxDumps := 2, step := 0, logNsid := 1, logLba := 0, logBlocks := 4, rsvd := 0 }, dumps, full, next⟩
def watchS (w : Watch) : State :=
  (part0.updPart 0 fun p => { p with watches := [(0, some w)] }).updCluster 0 fun g => { g with dumps := [dump0] }

theorem witness_watch : ((watchS (watch0 2 1 false)).cluster 0).dumps.find? (fun x => x.w == 0) = some dump0 ∧
    (watchS (watch0 2 1 false)).partOf 0 = some 0 ∧ (watchS (watch0 2 1 false)).watchAt 0 (0 : Fin 4).val = some (watch0 2 1 false) ∧
    up.flips = [] ∧ (watch0 2 1 true).full = true ∧ (2 : Nat) ≤ (watch0 4 2 false).dumps ∧ (4 : Nat) < 3 + 2 ∧ 2 + 2 ≤ 4 ∧
    (watchS (watch0 2 1 false)).dumpFirst 0 dump0 = true ∧ (watchS (watch0 2 1 false)).nsWritable 1 = true ∧ (watchS (watch0 2 1 false)).nsIsTile 1 = false ∧
    2 + 2 ≤ (watchS (watch0 2 1 false)).nsBlocks 1 ∧ bufferLeast ≤ up.bufCap := by decide +kernel

theorem witness_hostRoom : (let s := watchS (watch0 2 1 false)
    s.hostRoom (some 0) .warm (s.writeCost 1 0 2) = true) := by decide +kernel

/-- The debug port in its three states, at an aligned and an unaligned address. -/
def tapS (d : DebugState) (a : BitVec 48) (halted : Bool) : State :=
  { up with sec := { up.sec with debugSt := d, tapAddr := a }, mgmt := { up.mgmt with halted := halted } }

theorem witness_tap : (tapS .closed 0 false).pow.stage ≠ .off ∧ (tapS .closed 0 false).sec.debugSt = .closed ∧ (tapS .openNi 4 false).sec.debugSt ≠ .closed ∧
    (tapS .openNi 4 false).sec.tapAddr.toNat % 8 ≠ 0 ∧ (tapS .openNi 8 false).sec.tapAddr.toNat % 8 = 0 ∧
    (tapS .openInv 0x5FFFFFFFF8 true).sec.tapAddr.toNat < d1Top ∧ up.inject = [] ∧ (tapS .openInv 0 true).mgmt.halted = true ∧
    (tapS .openInv 0 true).heldCmds = [] := by decide

theorem witness_registerWrite : (0x220009 : BitVec 26).toNat % 8 ≠ 0 ∧ (2 ≠ 4 ∧ 2 ≠ 8) ∧
    fromCore .mgmt = false ∧ (∀ p, Requester.mgmt ≠ .bar2 p) ∧ host0.reachable (.pf .a) = true ∧
    (0x1002 : BitVec 26).toNat + 4 ≤ 0x10000 ∧ (fabS []).jobOn 0 = true ∧ (fabS []).sec.debugSt ≠ .openInv := by
  refine ⟨by decide, by decide, by decide, fun p h => ?_, by decide, by decide, by decide +kernel, by decide⟩
  cases h

/-! ### Host commands -/

theorem witness_serving : (serving host1 hA false ∧ serving host1 hA true ∧ serving host1 hV true) ∧ (∃ p, hA.fn = .pf p) := by
  refine ⟨by unfold serving; decide, ⟨.a, rfl⟩⟩

/-- An I/O command of port A and of tenant 0 are admitted, and one beyond the tenant's commands and one beyond the port's bytes are not. -/
theorem witness_admitted : admitted host1 (host1.qosRoll.enterQos hA.fn 4096) hA 4096 false ∧
    ({ host1 with vfNow := [(1024, (1, 2948000))] }).qosRoll.withinQos hA.fn 4096 = false ∧
    admitted host1 (host1.qosRoll.enterQos hV.fn 4096) hV 4096 true ∧
    ({ host1 with vfQos := [(0, 0x1000000000101)], vfNow := [(0, (1, 0))] }).qosRoll.withinQos hV.fn 0 = false := by
  refine ⟨⟨by unfold serving; decide, by decide +kernel, rfl⟩, by decide +kernel, ⟨by unfold serving; decide, by decide +kernel, rfl⟩,
    by decide +kernel⟩

/-- A window that has ended, with a flush that waited for it, and one that has not. -/
theorem witness_qosWindow : (let s : State := { host1 with time := 1000000, heldCmds := [.qosWait 0 (.nvmFlush hA 0xFFFFFFFF)] }
    s.msWindow ≠ s.qosWin ∧ s.msWindow = s.qosWin + 1 ∧ serving s hA false) ∧ host1.msWindow = host1.qosWin ∧
    (∀ x ∈ host1.heldCmds, Held.isQos x = false) ∧ ({ host1 with time := 2000000 }).msWindow ≠ host1.qosWin + 1 := by
  unfold serving
  decide +kernel

/-- Writes of the last block of namespace 1 and of a block of tile namespace 2. -/
theorem witness_io : ioOpen host1 hA 1 15 1 true ∧ ioOpen host1 hA 2 1 1 true ∧ writeFits host1 hA 1 15 1 .warm ∧ writeFits host1 hA 2 1 1 .warm ∧
    (host1.readUnits 1 15 1).isSome = true ∧ host1.ioStatus hA.fn 1 15 2 true = some (0, 0x80) ∧ host1.ioStatus hV.fn 1 0 1 false = some (0, 0x0B) := by
  unfold ioOpen locksNumbered writeFits
  decide +kernel

/-- A unit that cannot be read, a pinned tile, a full buffer, a lock that conflicts. -/
theorem witness_ioStops : ({ host1 with nsMap := [(2 ^ 38 + 3, 0x4000000000000000)] }).readUnits 1 3 1 = none ∧
    (tileRing 1 []).pinnedRange 2 1 1 = true ∧
    ({ host1 with mediaCtl := 0x19050000012C08FF, bands := (List.range 3).map fun n => (n, { state := .dead }) }).bufferRoom 1 = true ∧
    ({ host1 with bufCap := 0 }).hostRoom none .warm 16385 = false ∧
    (let s : State := { host1 with locks := [⟨0, 1, 0, 16, true, true⟩], nextLock := 1 }
     s.lockBusy 1 15 1 false = true ∧ s.locks.length < 4096 ∧ s.tableFull = false ∧ (∀ l ∈ s.locks, l.id < s.nextLock)) := by decide +kernel

theorem witness_flushAndDsm : (∃ v, host1.nsFor hA.fn 1 = some v) ∧ host1.nsFor hA.fn 3 = none ∧ (3 : BitVec 32) ≠ 0xFFFFFFFF ∧
    (∀ r ∈ [(0, 2), (14, 2)], host1.ioStatus hA.fn 1 r.1 r.2 true = none ∧ host1.lockBusy 1 r.1 r.2 false = false ∧ r.1 + r.2 ≤ 2 ^ 38) ∧
    (∀ r ∈ [(0, 2), (14, 2)].map (wholeUnits (host1.nsIsTile 1)), host1.pinnedRange 1 r.1 r.2 = false) := by
  refine ⟨⟨_, rfl⟩, by decide, by decide, by decide, by decide⟩

/-- A read waits for a lock that conflicts no more, a write for buffer space. -/
def lockHeld : Held := .lockWait [1] (.nvmRead hA 1 15 { nlb := 0 })
def bufHeld : Held := .bufferWait [] false (.nvmWrite hA 1 15 none [7])

theorem witness_held : (let s : State := { host1 with locks := [⟨1, 1, 15, 1, true, false⟩], nextLock := 2, heldCmds := [lockHeld] }
     s.heldCmds.find? s.mayGrant = some lockHeld ∧ (s.readUnits 1 15 1).isSome = true) ∧ host1.heldCmds = [] ∧
    (1 : BitVec 32).toNat < 1024 ∧ (15 : BitVec 64).toNat + 1 ≤ 2 ^ 38 ∧
    host1.hostRoom (host1.fnPart hA.fn) .warm (host1.writeCost 1 15 1) = true ∧ bufferLeast ≤ host1.bufCap := by decide +kernel

/-- Partition 0 configured, its D1 region named by set 1; and with a job running that has an area of one slot. -/
def setS : State := { host1 with parts := part0.parts, rangeSets := [(1, some (0, false))] }
def areaS (slots : List (Nat × ReqSource × Word)) (reqs : List (ReqSource × List Byte)) : State :=
  (setS.updPart 0 fun p => { p with job := { p.job with state := .running }, slots := slots, requests := reqs }).updCluster 0 fun g =>
    { g with reqSlots := 1, reqKib := 4, reqBase := 0x1000 }
/-- A request of 64 bytes. -/
def req0 : List Byte := [64] ++ List.replicate 63 0

theorem witness_sets : (0 : BitVec 4).toNat = (0 : Fin 12).val ∧ (∃ r, (setS.part 0).cfg = some r) ∧ setS.setOf 0 false = some 1 ∧
    setS.setOf 0 true = none ∧ setS.freeSetId = some 2 ∧ (setS.part 1).cfg = none ∧ setS.rangeSet 1 = some (0, false) ∧
    (setS.setPlace hA.fn 1 0x3FFFF000 4096).toOption = some 0x7FFFF000 ∧ (setS.setPlace hA.fn 1 0x3FFFF001 4096).toOption = none ∧
    (areaS [] []).jobLoaded 0 = true ∧ setS.reaches hV.fn 0 = true := by
  refine ⟨by decide, ⟨_, rfl⟩, by decide, by decide, by decide +kernel, by decide, by decide, by decide +kernel, by decide +kernel, by decide, by decide +kernel⟩

theorem witness_requests : setS.reqArea 0 = none ∧ (areaS [] []).reqArea 0 = some (0, 0x40001000, 1, 4096) ∧ (areaS [] []).freeSlot 0 1 = some 0 ∧
    reqLen req0 = 64 ∧ req0.length = 64 ∧ reqLen [0, 0x20, 0, 0] = 8192 ∧ (areaS [(0, .dropped, 0)] []).freeSlot 0 1 = none ∧
    ((areaS [] [(.dropped, req0)]).part 0).requests = (.dropped, req0) :: [] ∧ setS.isFirst 1 = none ∧ (areaS [] []).isFirst 0 = some 0 ∧
    ((areaS [(0, .host hA 8, 0)] []).part 0).slots.find? (fun x => x.1 = bits (0 : Word) 9 0) = some (0, .host hA 8, 0) ∧
    ((areaS [(0, .dropped, 0)] []).part 0).slots ≠ [] ∧ bits (0x04000400 : Word) 31 16 ≤ 1024 ∧ 4 ≤ bits (0x04000400 : Word) 15 0 ∧
    1024 < bits (0x04010400 : Word) 31 16 ∧ bits (0x1001 : Word) 11 0 ≠ 0 := by decide +kernel

/-- Port A's function with I/O queue pair 1 and an event waiting. -/
def queueS : State := { host1 with fns := [fnOn 0 { Fn.reset 0 with sqs := [(1, some (2, 1))], cqs := [(1, some (2, 0))], events := [3] }] }

theorem witness_admin : (0x03 : BitVec 8).toNat ∉ [0x00, 0x01, 0x02, 0x10] ∧ plainFeature (0x1D : BitVec 8).toNat = true ∧ 5 ≤ bits (5 : BitVec 32) 4 0 ∧
    bits (4 : BitVec 32) 4 0 < 5 ∧ bits (0 : BitVec 32) 4 0 < 5 ∧ host1.allowedState ≤ host1.pow.pstate ∧ (∃ x, host1.nsFor hA.fn 2 = some x) ∧
    setS.watchPart hA.fn 0xF00 = none ∧ setS.watchPart hA.fn 0 = some 0 ∧
    setS.watchNs 0 (watch0 0 0 false).data = true ∧ setS.watchNs 0 { (watch0 0 0 false).data with logNsid := 2 } = false ∧
    (64 : BitVec 16).toNat ≤ 64 ∧ 64 < (65 : BitVec 16).toNat ∧ FnId.isPf hA.fn = true ∧ FnId.isPf hV.fn = false := by
  refine ⟨by decide, by decide, by decide, by decide, by decide, by decide, ⟨_, rfl⟩, by decide, by decide, by decide, by decide, by decide, by decide, by decide, by decide⟩

theorem witness_queues : ((queueS.fn hA.fn).cqAt 1).isSome = true ∧ (queueS.fn hA.fn).queueOk 64 = true ∧ (queueS.fn hA.fn).sqAt 64 = none ∧
    (queueS.fn hA.fn).cqAt 64 = none ∧ (64 : Nat) < (queueS.fn hA.fn).vectors ∧ (queueS.fn hA.fn).queueOk 65 = false ∧ (queueS.fn hA.fn).queueOk 0 = false ∧
    ((queueS.fn hA.fn).sqAt 1).isSome = true ∧ (∀ e ∈ queueS.heldCmds, sameQueue hA.fn 1 e = false) ∧ (1, some (2, 1)) ∈ (queueS.fn hA.fn).sqs ∧
    (let g : Fn := { Fn.reset 0 with cqs := [(1, some (2, 0))] }
     (g.cqAt 1).isSome = true ∧ ∀ e ∈ g.sqs, ∀ z, e.2 = some z → z.2 ≠ 1) ∧ (queueS.fn hA.fn).events = 3 :: [] ∧ (host1.fn hA.fn).events = [] := by
  refine ⟨by decide, by decide, by decide, by decide, by decide, by decide, by decide, by decide, by decide, by decide, ⟨by decide, fun e h => nomatch h⟩, by decide, by decide⟩

theorem witness_abort : (let x : Held := .qosWait 0 (.nvmRead hA 1 0 { nlb := 0 })
     [x].find? (fun y => sameCommand hA.fn 0 1 (heldInstr y) && !heldDispatched y) = some x ∧ hdrOf (heldInstr x) = some hA ∧ heldLocks x = []) ∧
    host1.waitsIn hA.fn 0 1 = none ∧ host1.abortsOf hA.fn < 8 ∧ (∀ p : Fin 12, (host1.part p).job.waiter ≠ some hA) ∧
    8 ≤ ({ host1 with heldCmds := List.replicate 8 (.wakeWait (.abort hA 0 9)) }).abortsOf hA.fn := by decide +kernel

/-! ### The owner -/

theorem witness_namespaces : ownerTaken host1 hA ∧ host1.san.active = none ∧ host1.usedBlocks + 1 ≤ capacityBlocks host1.variant ∧
    host1.freeNsid = some 3 ∧ capacityBlocks host1.variant < host1.usedBlocks + (capacityBlocks host1.variant) ∧ host1.nsPinned 2 = false ∧
    (tileRing 1 []).nsPinned 2 = true ∧ (∃ v, host1.ns 1 = some v ∧ hV.fn ∉ v.attached ∧ v.isPrivate hV.fn = false ∧ hA.fn ∈ v.attached) ∧
    ({ kind := .block, blocks := 1, keyTenant := some (some 5), key := 1 : Namespace }).isPrivate hV.fn = true ∧ host1.ownsem = semOf (host1.portOf hA.fn) ∧
    ({ host1 with ownsem := 2 }).ownsem ≠ semOf (host1.portOf hA.fn) ∧ (2 : BitVec 3).toNat ≤ 2 ∧ 2 < (3 : BitVec 3).toNat := by
  refine ⟨⟨by unfold serving; decide, ⟨.a, rfl⟩⟩, by decide, by decide +kernel, by decide +kernel, by decide +kernel, by decide +kernel, by decide +kernel,
    ⟨_, rfl, by decide, by decide, by decide⟩, by decide, by decide, by decide, by decide, by decide⟩

theorem witness_firmware : (let s : State := { host1 with sec := { host1.sec with staged := some ⟨false, 0, 64, true, true⟩ } }
     s.sec.staged = some ⟨false, 0, 64, true, true⟩ ∧ s.fwOk ⟨false, 0, 64, true, true⟩ = true ∧ s.sec.locked otpSvn = false) ∧
    host1.fwOk ⟨false, 0, 65, true, true⟩ = false := by decide +kernel

theorem witness_virtualization : host1.portOf (.vf 0) = host1.portOf hA.fn ∧ (host1.fn (.vf 1)).online = false ∧ (host1.fn (.vf 0)).pairs ≠ 0 ∧
    (host1.fn (.vf 0)).vectors = (host1.fn (.vf 0)).pairs + 1 ∧ (host1.heldBy (.vf 1)).1 + 512 ≤ 16384 ∧ (host1.heldBy (.vf 1)).2 + 513 ≤ 17408 ∧
    host1.portOf (.vf 1023) ≠ host1.portOf hA.fn := by decide +kernel

/-! ### Resets of functions, the semaphore, roots, sanitize -/

theorem witness_hostResets : host0.absent .b = false ∧ (Port.b = .b ∨ false = host0.x16) ∧ host0.storageOn = true ∧ (host0.port .a).perst = false ∧
    up.ownsem = 0 ∧ host0.ownsem ≠ 0 ∧ (up.port .a).perst = true ∧ State.reset.storageOn = false ∧
    host0.x16 ≠ true ∧ bits (4 : Word) 1 0 = 0 ∧ bits (1 : Word) 1 0 ≠ 0 ∧
    (let s : State := { host0 with time := 100000000, ports := [(0, { downAt := some 0 })] }
     (s.port .a).downAt = some 0 ∧ 100000000 ≤ (s.time - 0).toNat ∧ ((99999999 : Word) - 0).toNat < 100000000) := by decide

theorem witness_roots : up.ftlUp = true ∧ State.reset.ftlUp = false ∧ 0x100000000 ≤ ({ up with journal := 0x100000000 }).journal ∧ up.journal < 0x100000000 ∧
    holdupNeed .v245 - 1 < holdupNeed .v245 ∧ ({ up with hmbOn := true, hmbNow := 16 }).hmbOn = true ∧ up.hmbSusp = false ∧ up.hmbOn = false ∧
    up.rootInterval ≤ (({ up with time := 70000000000000 }).time - up.rootTime).toNat ∧ (up.time - up.rootTime).toNat < up.rootInterval ∧
    fromCore (.core c0) = true ∧ ownerServed host1 hA ∧ host1.anyJob = false ∧ host1.sec.epoch + 16 < 1024 ∧
    (let s : State := { host1 with sec := { host1.sec with otp := (List.range 16).map fun i => (0x44 + i, 0xFFFFFFFFFFFFFFFF) } }
     1024 ≤ s.sec.epoch + 16) ∧ ({ host1.san with active := some .block }).active = some .block ∧ up.allErased = false ∧
    ({ up with chans := (List.range 64).map fun i => (i, { failed := true }) }).allErased = true := by
  refine ⟨by decide, by decide, by decide, by decide, by decide, by decide, by decide, by decide, by decide +kernel, by decide +kernel, by decide,
    ⟨by unfold serving; decide, ⟨.a, rfl⟩, by decide, by decide, by decide⟩, by decide, by decide +kernel, by decide +kernel, by decide,
    by decide +kernel, by decide +kernel⟩

theorem witness_rootRetry : banksIdle up ∧ (let busy : CflBank := { op := some (0, .erase 0, []) }
    let one : State := { up with rootAt := some 0x3800000, sec := { up.sec with banks := [(1, busy)] } }
    let two : State := { one with sec := { up.sec with banks := [(0, busy), (1, busy)] } }
    one.ftlUp = true ∧ one.rootAt = some 0x3800000 ∧ one.rootBusy (!regionOf 0x3800000) = true ∧ one.rootBusy (regionOf 0x3800000) = false ∧
      two.rootBusy (!regionOf 0x3800000) = true ∧ two.rootBusy (regionOf 0x3800000) = true) := by
  exact ⟨⟨rfl, rfl⟩, rfl, rfl, rfl, rfl, rfl, rfl⟩

/-! ### Attestation and configuration flash -/

def spdmS (x : Spdm) : State := { host0 with sec := { host0.sec with spdmI3c := x } }

theorem witness_attestation : host0.spdmUp .i3c = true ∧ up.spdmUp .i3c = false ∧
    ((spdmS { version := true, caps := true, algs := true }).spdmOf .i3c).algs = true ∧ (host0.spdmOf .i3c).version = false ∧
    ((spdmS { handshake := true, session := true }).spdmOf .i3c).handshake = true ∧
    host0.mayMeasure .i3c 1 = true ∧ host0.mayMeasure .i3c 0x77 = false := by decide

theorem witness_cfl : host0.sec.island = .running ∧ host0.mgmt.halted = false ∧ (0x0000_0101 : BitVec 32).toNat % 256 ≠ 0 ∧
    0x8000000 ≤ (0x08000000 : BitVec 32).toNat ∧ (0x04001000 : BitVec 32).toNat % 4096 = 0 ∧ ((host0.cflProc 1).xbank.toNat ≠ 1) ∧
    (let s : State := { host0 with sec := { host0.sec with procs := [(0, { xbank := 0 })], banks := [(1, ⟨some (1, .program 0x07FFFF00, []), 0⟩)] } }
     (s.cflProc 0).xbank.toNat = 0 ∧ (s.cflBank 1).op = some (1, .program 0x07FFFF00, []) ∧ (0 : Fin 2) = s.mgmt.active ∧
       (s.cflBank 1).at_ = s.cycle ∧ s.cflYields 1 0x07FFFF00 = none) ∧
    (0x3000000 ≤ 0x07000000 % 0x4000000 ∧ 0x07000000 % 0x4000000 < 0x3400000) ∧ (host0.cflBank 0).op = none ∧ host0.sec.activeSlot.val = 0 := by decide

/-! ### Jobs -/

/-- host1 with partition 0, without and with a job in a state. -/
def idleS : State := { host1 with parts := part0.parts }
def jobS (st : JobState) (e : Option EndCause) : State :=
  idleS.updPart 0 fun p => { p with job := { p.job with state := st, ending := e } }

/-- An image of version 9: 64 bytes go to address 0x1000 of the D1 region, and core 0 starts. -/
def image0 : List Byte :=
  wordBytes [0x464E445400010200, 0x8000000080, 0, 0, 9, 0, 0, 0, 0x0100000000001000, 0x4000000040, 0x0200000000000000 + winBase + 0x03000000, 0, 0, 0, 0, 0] ++
    wordBytes [0x53474E4200010000] ++ List.replicate 248 0

theorem witness_load : names idleS hA 0 0 ∧ serving idleS hA true ∧ idleS.pow.moduleFault = false ∧ bits (1 : W32) 31 1 = 0 ∧
    (idleS.part 0).cfg = some rec0 ∧ idleS.firstCluster 0 = some 0 ∧ awake idleS (clusterList rec0) := by
  refine ⟨by unfold names; decide, by unfold serving; decide, by decide, by decide, rfl, by decide +kernel, ?_⟩
  unfold awake
  decide +kernel

theorem witness_loadStatus : idleS.loadStatus 0 rec0 0 image0 true = 0 ∧ idleS.loadStatus 0 rec0 0 image0 false = 3 := by decide +kernel

theorem witness_loadPlaces : (loadsOf image0).map (fun y => (idleS.loadPlace 0 y, y.off, y.len)) = [(some 0x40001000, 64, 64)] ∧
    (startsOf image0).map (fun y => idleS.startAt 0 y) = [some (c0, 0x03000000)] := by decide +kernel

theorem witness_jobs : ((jobS .loaded none).part 0).job.state = .loaded ∧ idleS.traceEn = false ∧ (jobS .running none).anyJob = true ∧
    ((jobS .ending (some .kill)).part 0).job.state.busy = true ∧ ((jobS .ending (some .kill)).updCluster 0 fun g => { g with quiesce := true }).drained 0 = true ∧
    ((jobS .ending (some .kill)).part 0).job.ending = some .kill ∧ ((jobS .ending (some .kill)).part 0).job.kofOpt = false ∧
    part0.drained 0 = false ∧ fetchable c0 (Core.reset 0).startPc = true := by
  decide +kernel

/-- Namespace 1 of a million blocks for checkpoints. -/
def bigS (st : JobState) : State :=
  { jobS st none with nss := [(1, some { kind := .block, blocks := 1000000, attached := [.pf .a], key := 1 })] }

theorem witness_vacate : (bigS .running).ckFits 1 0 ((bigS .running).ckBlocks 0 rec0) = true ∧ ((bigS .running).part 0).requests = [] ∧
    (bigS .running).ckFits 1 999999 ((bigS .running).ckBlocks 0 rec0) = false ∧ ownerTaken (bigS .running) hA := by
  refine ⟨by decide +kernel, by decide, by decide +kernel, ⟨by unfold serving; decide, ⟨.a, rfl⟩⟩⟩

/-- The first 64 bytes of a checkpoint of 8 KiB whose CRC register is 0 after the four bytes that follow. -/
def ckHead : List Byte := wordBytes [0x54504B4300010000, 8192, 0x100000000, 0, 0, 9, 0xFFFFFFFF00000000, 0]
def ckFix : List Byte := toBytes (((ckHead.take 52 ++ [0, 0, 0, 0] ++ ckHead.drop 56).foldl crcByte 0xFFFFFFFF).toNat) 4

def zeros (n : Nat) : List Byte := List.replicate n 0
def ck : List Byte := ckHead ++ ckFix ++ zeros 8124

theorem zeros_length (n : Nat) : (zeros n).length = n := List.length_replicate ..
theorem crc_zeros (n : Nat) : (zeros n).foldl crcByte 0 = 0 := by
  induction n with
  | zero => rfl
  | succ n ih =>
    rw [zeros, List.replicate_succ, List.foldl_cons]
    exact ih
theorem ckFix_drives : ckFix.foldl crcByte ((ckHead.take 52 ++ [0, 0, 0, 0] ++ ckHead.drop 56).foldl crcByte 0xFFFFFFFF) = 0 := by decide +kernel
theorem ckHead_len : ckHead.length = 64 := by decide +kernel
theorem ckFix_len : ckFix.length = 4 := by decide +kernel
theorem ck_w (i : Nat) (hi : i < 8) : blockWord ck i = blockWord ckHead i := by
  have : (ck.drop (8 * i)).take 8 = (ckHead.drop (8 * i)).take 8 := by
    simp only [ck, List.append_assoc]
    rw [List.drop_append_of_le_length (by rw [ckHead_len]; omega), List.take_append_of_le_length]
    rw [List.length_drop, ckHead_len]; omega
  rw [blockWord, this, ← blockWord]

theorem ck_header : headerOk ck = true := by
  have h : ck.take 52 = ckHead.take 52 := by
    rw [ck, List.append_assoc, List.take_append_of_le_length (by rw [ckHead_len]; decide)]
  have h2 : (ck.drop 56).take (8192 - 56) = ckHead.drop 56 ++ ckFix ++ zeros 8124 := by
    rw [ck, List.append_assoc, List.drop_append_of_le_length (by rw [ckHead_len]; decide), List.take_of_length_le, List.append_assoc]
    simp only [List.length_append, List.length_drop, ckHead_len, ckFix_len, zeros_length]
    decide
  have h3 : ck.length = 8192 := by simp only [ck, List.length_append, ckHead_len, ckFix_len, zeros_length]
  unfold headerOk
  rw [ck_w 0 (by decide), ck_w 1 (by decide), ck_w 6 (by decide), h, h3]
  have e1 : blockWord ckHead 1 = 8192 := by decide +kernel
  have e6 : blockWord ckHead 6 / 2 ^ 32 = 0xFFFFFFFF := by decide +kernel
  have e0 : blockWord ckHead 0 = 0x54504B4300010000 := by decide +kernel
  simp only [e1, e6, e0, h2]
  have c : crc32c (ckHead.take 52 ++ [0, 0, 0, 0] ++ (ckHead.drop 56 ++ ckFix ++ zeros 8124)) = 0xFFFFFFFF := by
    have : ckHead.take 52 ++ [0, 0, 0, 0] ++ (ckHead.drop 56 ++ ckFix ++ zeros 8124) =
      (ckHead.take 52 ++ [0, 0, 0, 0] ++ ckHead.drop 56) ++ (ckFix ++ zeros 8124) := by simp only [List.append_assoc]
    rw [crc32c, this, List.foldl_append, List.foldl_append, ckFix_drives, crc_zeros]
    rfl
  rw [c]
  decide

def u0 : Unit4K := ofUnit (ckHead ++ ckFix)
theorem unit_zero (n : Nat) : toBytes 0 n = zeros n := by
  induction n with
  | zero => rfl
  | succ n ih =>
    rw [toBytes, zeros, List.replicate_succ, ← zeros, ← ih]
    rfl
theorem u0_bytes : toBytes u0.toNat 68 = ckHead ++ ckFix ∧ u0.toNat / 256 ^ 68 = 0 := by decide +kernel
theorem toBytes_add (v a b : Nat) : toBytes v (a + b) = toBytes v a ++ toBytes (v / 256 ^ a) b := by
  induction a generalizing v with
  | zero => simp [toBytes]
  | succ a ih =>
    rw [Nat.succ_add, toBytes, toBytes, ih, Nat.div_div_eq_div_mul, ← Nat.pow_succ']
    rfl
theorem u0_unit : unitBytes u0 = ckHead ++ ckFix ++ zeros 4028 := by
  rw [unitBytes, show 4096 = 68 + 4028 from rfl, toBytes_add, u0_bytes.1, u0_bytes.2, unit_zero]
theorem zero_unit : unitBytes 0 = zeros 4096 := by
  rw [unitBytes]
  simp only [BitVec.ofNat_eq_ofNat, BitVec.toNat_ofNat, Nat.zero_mod]
  exact unit_zero 4096
theorem zeros_add (a b : Nat) : zeros (a + b) = zeros a ++ zeros b := (List.replicate_append_replicate ..).symm

/-- Partition 0 has no bindings and no job, and a checkpoint stands in namespace 1. -/
def ckS : State := { host1 with parts := [(0, { cfg := some rec0 })], nss := [(1, some { kind := .block, blocks := 1000000, attached := [.pf .a], key := 1 })], buffer := [bufU 0 u0] }
theorem ckS_unit0 : ckS.readUnit 1 0 = some u0 := by
  have : ckS.buffered 1 0 = some (bufU 0 u0) := rfl
  rw [State.readUnit, this]
  rfl
theorem ckS_unit1 : ckS.readUnit 1 1 = some 0 := by
  have : ckS.buffered 1 1 = none := rfl
  have m : ckS.mapAt 1 1 = 0 := rfl
  have l : mapLost 0 = false := by decide
  have p : mapMapped 0 = false := by decide
  simp only [State.readUnit, this, m, l, p, Bool.false_eq_true, if_false]
theorem ckS_bytes : ckS.nsBytes 1 0 1 = some (unitBytes u0) ∧ ckS.nsBytes 1 0 2 = some ck := by
  have h1 : ckS.readUnits 1 0 1 = some [u0] := by
    simp [State.readUnits, List.range_succ, ckS_unit0]
  have h2 : ckS.readUnits 1 0 2 = some [u0, 0] := by
    simp [State.readUnits, List.range_succ, ckS_unit0, ckS_unit1]
  constructor
  · rw [State.nsBytes, h1]
    simp
  · rw [State.nsBytes, h2]
    simp only [Option.map_some, List.flatMap_cons, List.flatMap_nil, u0_unit, zero_unit, ck, List.append_assoc, List.append_nil]
    rw [show 8124 = 4028 + 4096 from rfl, zeros_add]
theorem ck_word (i : Nat) (hi : i < 8) : blockWord (unitBytes u0) i = blockWord ckHead i := by
  have : ((unitBytes u0).drop (8 * i)).take 8 = (ckHead.drop (8 * i)).take 8 := by
    rw [u0_unit, List.append_assoc]
    rw [List.drop_append_of_le_length (by rw [ckHead_len]; omega), List.take_append_of_le_length]
    rw [List.length_drop, ckHead_len]; omega
  rw [blockWord, this, ← blockWord]
theorem ckS_read : ckS.readCheckpoint 1 0 = some ck := by
  have e1 : blockWord ckHead 1 = 8192 := by decide +kernel
  have b : ckS.nsBlocks 1 = 1000000 := rfl
  simp only [State.readCheckpoint, show (1 : BitVec 10).toNat = 1 from rfl, ckS_bytes.1, ck_word 1 (by decide), e1, b]
  exact ckS_bytes.2


theorem witness_restore : names ckS hA 0 0 ∧ (ckS.part 0).cfg = some rec0 ∧ (ckS.part 0).job.state = .none ∧ ckS.ckFits 1 0 1 = true ∧
    ckS.nsReadable 1 = true ∧ ckS.readCheckpoint 1 0 = some ck ∧ headerOk ck = true ∧ (imageOf ck).nCl = (clusterList rec0).length ∧
    (imageOf ck).d1Gib ≤ rec0.d1Region.gib.toNat ∧ (imageOf ck).binds = ckS.bindingSection 0 ∧ (imageOf ck).pins = [] := by
  have e0 : blockWord ckHead 0 = 0x54504B4300010000 := by decide +kernel
  have e2 : blockWord ckHead 2 = 0x100000000 := by decide +kernel
  have c : (clusterList rec0).length = 1 := by decide +kernel
  refine ⟨by unfold names; decide, rfl, by decide, by decide +kernel, by decide, ckS_read, ck_header, ?_, ?_, ?_, ?_⟩
  · rw [c]
    simp only [imageOf, ck_w 0 (by decide), e0]
  · simp only [imageOf, ck_w 2 (by decide), e2]
    decide
  · have b : ckS.bindingSection 0 = zeros 256 := by decide +kernel
    have d : ck.drop 4096 = zeros 4096 := by
      rw [ck, show 8124 = 4028 + 4096 from rfl, zeros_add, ← List.append_assoc, List.drop_append_of_le_length, List.drop_of_length_le, List.nil_append]
      all_goals simp only [List.length_append, ckHead_len, ckFix_len, zeros_length]
      all_goals decide
    simp only [imageOf, d, b]
    exact List.take_replicate ..
  · simp only [imageOf, ck_w 2 (by decide), e2]
    rfl

/-- No checkpoint, and one that its header does not describe. -/
theorem witness_noCheckpoint : ({ ckS with buffer := [] }).readCheckpoint 1 0 = none ∧ headerOk [] = false ∧
    ckS.ckFits 3 0 1 = false ∧ ({ ckS with buffer := [] }).ckOver 1 0 = false := by
  refine ⟨by decide +kernel, by decide +kernel, by decide +kernel, by decide +kernel⟩

/-! ### Partitions -/

theorem witness_partitions : ownerTaken idleS hA ∧ idleS.ownsem = semOf (idleS.portOf hA.fn) ∧ idleS.san.active = none ∧
    (idleS.part 0).job.state = .none ∧ idleS.anyJob = false ∧ (∃ r, (idleS.part 0).cfg = some r) ∧ (idleS.part 1).cfg = none ∧
    ((jobS .loaded none).part 0).job.state ≠ .none := by
  refine ⟨⟨by unfold serving; decide, ⟨.a, rfl⟩⟩, by decide, by decide, by decide, by decide, ⟨_, rfl⟩, by decide, by decide⟩

theorem witness_records : idleS.recOk 0 rec0 = true ∧ idleS.recOk 0 { rec0 with clusters := 0 } = false ∧
    idleS.arbOk idleS.arb = true ∧ idleS.arbOk { idleS.arb with rsvd := 1 } = false ∧ idleS.bindingOk 0 ⟨2, true, false, false, 0⟩ = true ∧
    idleS.bindingOk 0 ⟨1, true, false, false, 0⟩ = false := by decide +kernel

/-! ### The module as a whole -/

/-- The front command runs with the rest of the queue. -/
theorem test_step : step { State.reset with pending := [.powerOn, .powerOn] } = execPowerOn { State.reset with pending := [.powerOn] } := rfl

theorem test_withFetchWord : State.reset.withFetchWord 32 0x08A3FFF4 = State.reset := rfl

theorem reset_inv : inv State.reset := by
  unfold inv locksNumbered
  refine ⟨by decide, by decide, by decide, fun l h => (List.not_mem_nil h).elim, fun cl y h => (List.not_mem_nil h).elim, fun c => ?_⟩
  have h : (State.reset.core c).cq = [] := rfl
  have g : (State.reset.core c).cqWas = none := rfl
  rw [h, g]
  unfold queueOrdered
  simp

/-! ### Worked examples of the spec, and single steps -/

/-- 03 Table 3-14. -/
theorem test_ties : (cvtResult .f32bf16 false 0x3F808000 0 (fun _ _ => true) false).toNat % 65536 = 0x3F81 ∧
    (cvtResult .f32i32 false 0x40200000 0 (fun _ _ => true) false).toNat % 2 ^ 32 = 3 ∧
    (cvtResult .f32i32 false 0xC0200000 0 (fun _ _ => true) false).toNat % 2 ^ 32 = 0xFFFFFFFD := by decide +kernel

/-- 06, worked example: the MXFP8 feed image of K_t = 100, M = 48 is 112 lines of 128 bytes; elements (5, 70) and (5, 10). -/
theorem test_feed : (let x := mmOf [0, 0x300 + (0x3 <<< 60) + (99 <<< 42), 0, 0, (47 <<< 16) + (3 <<< 12), 0]
    (x.line, x.feedBit 0 5 70 / 8, x.feedBit 0 5 10 / 8, x.skew 99 + 48) = (128, 8902, 1930, 112)) := by decide

/-- 08, worked example: the sum of the row is a tie and rounds away from zero. -/
theorem test_softmaxSum : fadd 0x3F800000 0x3EBC5AB2 = 0x3FAF16AD := by decide

/-- 17: partition 0 with FSLOT 16 holds every fourth position. -/
theorem test_slots : (List.range 16).map rev6 = [0, 32, 16, 48, 8, 40, 24, 56, 4, 36, 20, 52, 12, 44, 28, 60] := by decide

/-- 22, worked example: 33.1 ms keep the buffer of the ZTM-245T-L whole and leave 9/13 of that of the ZTM-123T-L. -/
theorem test_holdup : (after (.holdupMeasure 331) up).bufCap = 262144 ∧
    (after (.holdupMeasure 331) { up with variant := .v123 }).bufCap = 262144 * 9 / 13 := by decide +kernel

/-- The first word of weight memory of cluster 0, with positions inverted. -/
def bad (l : List Flip) : State := { up with flips := [(clusterAddr 0 0 / 8, l)] }

/-- 11, worked example: a check bit, data bit 57, and two data bits. -/
theorem test_sramCode : ((bad [⟨66, 1⟩]).readMem (clusterAddr 0 0) 8).ues = [] ∧ ((bad [⟨57, 1⟩]).readMem (clusterAddr 0 0) 8).ues = [] ∧
    ((bad [⟨57, 1⟩]).readMem (clusterAddr 0 0) 8).data = List.replicate 8 0 ∧ ((bad [⟨0, 1⟩, ⟨1, 1⟩]).readMem (clusterAddr 0 0) 8).ues ≠ [] := by
  decide +kernel

/-- A wrap, a source that is the destination, and the register that reads 0 (03 R69, Tables 3-4, 3-5). -/
theorem test_addi : ((after (.addi c0 .addi 1 1 2) (at0 (s1 0xFFFFFFFFFFFFFFFF))).core c0).sreg 1 = 1 := by decide
theorem test_zeroRegister : ((after (.addi c0 .addi 0 1 2) (at0 (s1 5))).core c0).sreg 0 = 0 := by decide

/-- A core that does not run issues nothing (log 7). -/
theorem test_notRunning : same (.addi c0 .addi 1 1 2) State.reset = true := by decide

/-- 16 R366: port A takes the semaphore, and a second read leaves it. -/
theorem test_ownsem : (after (.ownsemRead .a) { host0 with ownsem := 0 }).ownsem = 1 ∧ (after (.ownsemRead .a) { host0 with ownsem := 2 }).ownsem = 2 := by decide

/-- 21 Table 21-4: the first steps of start-up. -/
theorem test_startUp : (after .powerOn State.reset).pow.stage = .alwaysOn ∧
    (after .firmwareVerify (after .powerOn State.reset)).pow.stage = .verified := by decide +kernel

/-- 12 R275: a read of a page being erased goes to the error log. -/
theorem test_eraseBusy : (after (.dieRead ⟨d0, 0, 5, 3⟩ { cw := 0 }) (dieS { op := some (erasing .running) })).modLog = [.eraseBusyRead 0x50060] := by decide +kernel

/-- 01 R25: a write is what a later read returns. -/
theorem test_writeThenRead : (after (.nvmWrite hA 1 15 none [7]) host1).readUnit 1 15 = some 7 := by decide +kernel

/-- 20 Table 20-2: a tick counts time, and cycles in a core that runs. -/
theorem test_tick : (out (at0 k0) (step (at0 k0))).time = 1 ∧ ((out (at0 k0) (step (at0 k0))).core c0).cycles = 1 ∧
    ((out (at0 k0) (step (at0 k0))).core c1).cycles = 0 := by decide

end Sys2Proof.Tests
end

/-! SUPPORT. The end of a tile mover descriptor whose COMPL_ADDR is no slot (02 R48, R50): where the completion word covers part of a
code word that holds an uncorrectable error, the write faults the partition, whose running cores are then halted (11 R252, 17 R391). -/

namespace Sys2Proof.Machine

open Sys2Proof

/-- Cores are read from the table of cores alone. -/
theorem State.core_congr {s t : State} (h : t.cores = s.cores) (c : CoreId) : t.core c = s.core c := by
  unfold State.core
  rw [h]

/-- The completion command ends a descriptor that has nothing left to do, in a cluster that runs (02 R48). -/
theorem execTmDescriptorComplete_done {s : State} {cl : Fin 32} {q : Fin 16} {e : TmExec} (he : (s.cluster cl).tmOf q = some e)
    (hd : e.done = true) (hp : (s.cluster cl).pstate = 0) :
    exec (.tmDescriptorComplete cl q) s = .next (s.tmEnd cl e) := by
  change execTmDescriptorComplete cl q s = _
  simp [execTmDescriptorComplete, he, hd, hp]

/-- A descriptor of queue 0 that is over, with COMPL_ADDR 4: inside weight memory and not aligned, so no slot (02 R50). -/
def unslottedDescriptor : TmExec := { tmNew 0 0 [4 <<< 32] with done := true }

/-- The partition that holds cluster 0 and nothing else. -/
def clusterZeroOnly : PartRec :=
  { clusters := 1, d1Region := ⟨0, 0⟩, d1Pool := ⟨0, 0⟩, d2Region := ⟨0, 0⟩, d2Pool := ⟨0, 0⟩, fslot := 0, wrShare := 0, sD1 := 0, sD2 := 0
    fabCredit := 0, ctxBase := 0, ctxCount := 0, kofNsid := 0, tenants := 0, rsvd := 0 }

/-- That descriptor executes in cluster 0, where core 0 runs a job; the first word of weight memory, of which the completion word covers
bytes 4 to 7, holds an error in two data bits. -/
def unslottedState : State :=
  { State.reset with
    clusters := [(0, { tmq := [(0, { size := 4 })], tmExec := [unslottedDescriptor] })]
    cores := [(0, { Core.reset 0 with mode := .running })]
    parts := [(0, { cfg := some clusterZeroOnly, job := { state := .running } })]
    flips := [(clusterAddr 0 0 / 8, [⟨0, 1⟩, ⟨1, 1⟩])] }

theorem unslottedState_not_halting : (unslottedState.core ⟨0, 0⟩).haltReq = false := by decide

/-- The completion's write is a read-modify-write of the faulty word: it faults partition 0, which asks core 0 to halt. -/
theorem unslottedState_tmEnd_halting : ((unslottedState.tmEnd 0 unslottedDescriptor).core ⟨0, 0⟩).haltReq = true := by
  decide +kernel

/-- Refutes O33: the clause on completion promises that no core changes, without the condition that COMPL_ADDR is 0 or names a slot
(which its other clauses have by ringHas, 02 R50). In unslottedState the completion word is written over part of a code word with an
uncorrectable error, and the partition fault halts core 0. -/
theorem not_tileMoverDescriptors : ¬ Obligations.TileMoverDescriptors := by
  unfold Obligations.TileMoverDescriptors
  intro h
  obtain ⟨-, -, -, -, -, completes⟩ := h unslottedState 0 0 [] 0
  obtain ⟨t, hexec, -, -, -, -, hcores⟩ := completes unslottedDescriptor rfl rfl rfl (by decide)
  have hend : t = unslottedState.tmEnd 0 unslottedDescriptor := by
    rw [execTmDescriptorComplete_done rfl rfl rfl] at hexec
    exact (Host.Outcome.next.inj hexec).symm
  have hhalting : (t.core ⟨0, 0⟩).haltReq = true := hend ▸ unslottedState_tmEnd_halting
  rw [State.core_congr hcores, unslottedState_not_halting] at hhalting
  exact Bool.false_ne_true hhalting

end Sys2Proof.Machine

/-! SUPPORT. The registers of a sliver core (03 R69): what a read returns after a write. -/

namespace Sys2Proof.Machine

open Sys2Proof

@[simp] theorem Core.sreg_zero (k : Core) : k.sreg 0 = 0 := rfl

@[simp] theorem Core.setS_zero (k : Core) (v : Word) : k.setS 0 v = k := rfl

@[simp] theorem Core.awaits_zero (k : Core) : k.awaits (.s 0) = false := by simp [Core.awaits]

/-- A write of a register other than s0 is what that register reads, and no other register reads otherwise. -/
theorem Core.sreg_setS (k : Core) (n m : BitVec 5) (v : Word) (hn : n ≠ 0) :
    (k.setS n v).sreg m = if m = n then v else k.sreg m := by
  by_cases hm : m = 0
  · subst hm
    rw [if_neg (Ne.symm hn), Core.sreg_zero, Core.sreg_zero]
  · unfold Core.setS Core.sreg
    rw [if_neg hm, if_neg hn, if_neg hm, SMap.get_set]
    simp only [BitVec.toNat_inj]

@[simp] theorem Core.retired_setS (k : Core) (n : BitVec 5) (v : Word) : (k.setS n v).retired = k.retired := by
  unfold Core.setS
  split <;> rfl

@[simp] theorem Core.mode_setS (k : Core) (n : BitVec 5) (v : Word) : (k.setS n v).mode = k.mode := by
  unfold Core.setS
  split <;> rfl

/-- Settles O5. -/
theorem scalarRegisterZero : Obligations.ScalarRegisterZero := by
  unfold Obligations.ScalarRegisterZero
  intro k v
  exact ⟨k.sreg_zero, k.setS_zero v, k.awaits_zero, fun n m hn => k.sreg_setS n m v hn⟩

end Sys2Proof.Machine

/-! SUPPORT. What reading memory leaves of the cores: an error that a code corrects is counted, logged, traced, repaired and may mark a
device (09 R215, 11 R249, R250), and none of that is a core's. -/

namespace Sys2Proof.Machine

open Sys2Proof

@[simp] theorem State.cores_dropWriteback (s : State) (b : Nat) : (s.dropWriteback b).cores = s.cores := by
  unfold State.dropWriteback
  split
  · split <;> rfl
  · rfl

@[simp] theorem State.cores_disarm (s : State) (l : List (Fin 3)) : (s.disarm l).cores = s.cores := by
  unfold State.disarm
  induction l generalizing s with
  | nil => rfl
  | cons m l ih => exact ih _

@[simp] theorem State.cores_storeWord (s : State) (b : Nat) (d : List (Option Byte)) : (s.storeWord b d).1.cores = s.cores := by
  unfold State.storeWord
  simp only
  split <;> exact s.cores_dropWriteback b

@[simp] theorem cores_storeWhole (fuel : Nat) (s : State) (a : Nat) (d : List Byte) (f : List (Fin 3)) :
    (storeWhole fuel s a d f).cores = s.cores := by
  induction fuel generalizing s a d f with
  | zero => exact s.cores_disarm f
  | succ n ih =>
    unfold storeWhole
    split
    · exact s.cores_disarm f
    · simp [ih]

@[simp] theorem State.cores_rewrite (s : State) (b : Nat) (d : Decoded) : (s.rewrite b d).cores = s.cores := by
  simp [State.rewrite]

theorem State.cores_traceHead (t : State) (v : Word) : ({ t with traceHead := v } : State).cores = t.cores := rfl

@[simp] theorem State.cores_trace (s : State) (kind : Nat) (p : Option (Fin 12)) (cl co : Nat) (a1 a2 : Word) :
    (s.trace kind p cl co a1 a2).cores = s.cores := by
  unfold State.trace
  split
  · rw [State.cores_traceHead, cores_storeWhole]
  · rfl

@[simp] theorem State.cores_count (s : State) (p : Option (Fin 12)) (i n : Nat) : (s.count p i n).cores = s.cores := by
  cases p <;> rfl

@[simp] theorem State.cores_eccRecord (s : State) (src : EccSource) (kind a : Nat) (syn : Word) (dev : Nat) :
    (s.eccRecord src kind a syn dev).cores = s.cores := by
  unfold State.eccRecord
  exact State.cores_trace _ _ _ _ _ _ _

@[simp] theorem State.cores_eccCount (s : State) (src : EccSource) (a : Nat) (d : Decoded) : (s.eccCount src a d).cores = s.cores := by
  unfold State.eccCount
  cases d.cls <;> simp

@[simp] theorem State.cores_saveMap (s : State) : s.saveMap.cores = s.cores := by
  have f (l : List MapSlot) (p : MapSlot → Unit4K) (t : State) : (l.foldl (fun (t : State) m =>
      match m.since with
      | some _ => t.bufferMeta .mapPage (m.page / 2 ^ 29) (m.page % 2 ^ 29) (p m)
      | none => t) t).cores = t.cores := by
    induction l generalizing t with
    | nil => rfl
    | cons m l ih =>
      rw [List.foldl_cons, ih]
      split <;> rfl
  exact f s.mapCache (fun m => s.mapPage m.page) s

@[simp] theorem State.cores_putRoot (s : State) (a : Nat) (r : RootRec) : (s.putRoot a r).cores = s.cores := by
  simp only [State.putRoot, State.cflStore, State.dropRecords]

@[simp] theorem State.cores_writeRoot (s : State) (inOchre : Bool) : (s.writeRoot inOchre).cores = s.cores := State.cores_putRoot _ _ _

@[simp] theorem State.cores_log (s : State) (k : LogKind) : (s.log k).cores = s.cores := rfl

@[simp] theorem State.cores_commitRoot (s : State) : s.commitRoot.cores = s.cores := by
  unfold State.commitRoot
  simp only [apply_ite State.cores, State.cores_writeRoot, State.cores_saveMap, State.cores_log, ite_self]

@[simp] theorem State.cores_markDevice (s : State) (g dev : Nat) : (s.markDevice g dev).cores = s.cores := by
  unfold State.markDevice
  simp only [State.cores_commitRoot]

@[simp] theorem State.cores_autoMark (s : State) (src : EccSource) (a : Nat) (l : List Decoded) :
    (s.autoMark src a l).cores = s.cores := by
  unfold State.autoMark
  split
  · split <;> simp
  · rfl

@[simp] theorem State.cores_afterRead (s : State) (src : EccSource) (a : Nat) (d : Decoded) :
    (s.afterRead src a d).cores = s.cores := by
  unfold State.afterRead
  cases locate a with
  | d1 => simp only; split <;> simp
  | d2 => simp only; split <;> simp
  | sram cl o => simp only; split <;> exact s.cores_eccCount src a d
  | unpopulated => exact s.cores_eccCount src a d

/-- What leaves the cores alone in each step of a fold leaves them alone. -/
theorem cores_foldl {α : Type} (f : State → α → State) (hf : ∀ t x, (f t x).cores = t.cores) (l : List α) (s : State) :
    (l.foldl f s).cores = s.cores := by
  induction l generalizing s with
  | nil => rfl
  | cons x l ih => rw [List.foldl_cons, ih, hf]

@[simp] theorem State.cores_readRaw (s : State) (src : EccSource) (a n : Nat) : (s.readRaw src a n).st.cores = s.cores := by
  unfold State.readRaw State.afterReads
  simp only
  split
  · rfl
  · rw [cores_foldl _ fun t l => State.cores_autoMark t src l _,
      cores_foldl _ fun t (w : Nat × Decoded) => State.cores_afterRead t src w.1 w.2]

/-- A read without an uncorrectable error leaves every core as it was. -/
theorem State.core_readMem (s : State) (a n : Nat) (c : CoreId) (h : (s.readMem a n).ues.isEmpty = true) :
    (s.readMem a n).st.core c = s.core c := by
  have hues : (s.readRaw .requester a n).ues = [] := List.isEmpty_iff.mp h
  apply State.core_congr
  simp only [State.readMem, hues, List.foldl_nil, State.cores_readRaw]

end Sys2Proof.Machine

/-! SUPPORT. Changes of one core (Claims.onlyCore), and an exception that a core takes, with all it changes and leaves
(Claims.tookException, Claims.continued; 02 R60 to R65, 03 R87). -/

namespace Sys2Proof.Machine

open Sys2Proof Sys2Proof.Claims

/-! ### One core changed -/

/-- Setting core c of a state that is s but for the core. -/
theorem onlyCore_setCore_of {s t : State} {c : CoreId} (hother : ∀ d, d ≠ c → t.core d = s.core d)
    (hrest : { t with cores := s.cores } = s) (k : Core) : onlyCore s (t.setCore c k) c k :=
  ⟨t.core_setCore_same c k, fun d hd => (t.core_setCore_other c d k hd).trans (hother d hd), hrest⟩

theorem onlyCore_refl (s : State) (c : CoreId) : onlyCore s s c (s.core c) := ⟨rfl, fun _ _ => rfl, rfl⟩

theorem onlyCore_setCore (s : State) (c : CoreId) (k : Core) : onlyCore s (s.setCore c k) c k :=
  onlyCore_setCore_of (fun _ _ => rfl) rfl k

/-- After a change of core c, an update of that core is a change of it. -/
theorem onlyCore_updCore {s t : State} {c : CoreId} {k : Core} (h : onlyCore s t c k) (f : Core → Core) :
    onlyCore s (t.updCore c f) c (f k) := by
  obtain ⟨rfl, hother, hrest⟩ := h
  exact onlyCore_setCore_of hother hrest _

/-! ### Exceptions -/

/-- The event of a core's fault: bit 1 of CLU_EVENT is set in this cycle and reported. -/
theorem State.clusterEvent_core (s : State) (cl : Fin 32) : s.clusterEvent cl evCore =
    ((s.setBit (.event cl 1)).updCluster cl fun g => { g with event := g.event ||| 2 }).emit (.eventToMgmt cl 2) := rfl

/-- The event of a fault after a change of core c: the core's cluster, the outbox and the bits set in this cycle differ beside it. -/
theorem onlyCore_clusterEvent {s t : State} {c : CoreId} {k : Core} (h : onlyCore s t c k) :
    (t.clusterEvent c.cl evCore).core c = k ∧ (∀ d, d ≠ c → (t.clusterEvent c.cl evCore).core d = s.core d) ∧
      (t.clusterEvent c.cl evCore).cluster c.cl = { s.cluster c.cl with event := (s.cluster c.cl).event ||| 2 } ∧
      (∀ d, d ≠ c.cl → (t.clusterEvent c.cl evCore).cluster d = s.cluster d) ∧
      (t.clusterEvent c.cl evCore).outbox = s.outbox ++ [.eventToMgmt c.cl 2] ∧
      (t.clusterEvent c.cl evCore).setAt = SMap.set (fun _ => 0) s.setAt (W1c.event c.cl 1).key (s.cycle + 1) ∧
      { t.clusterEvent c.cl evCore with cores := s.cores, clusters := s.clusters, outbox := s.outbox, setAt := s.setAt } = s := by
  obtain ⟨hcore, hother, hrest⟩ := h
  obtain ⟨m, rfl⟩ : ∃ m, t = { s with cores := m } := ⟨t.cores, by rw [← hrest]⟩
  rw [State.clusterEvent_core]
  exact ⟨hcore, hother, (State.cluster_emit _ _ _).trans (State.cluster_updCluster_same _ _ _),
    fun d hd => (State.cluster_emit _ _ _).trans (State.cluster_updCluster_other _ _ _ _ hd), rfl, rfl, rfl⟩

/-- The state once an exception is recorded in core c (02 R61, R62). -/
def State.recorded (s : State) (c : CoreId) (cause : Byte) (addr : Option Nat) : State :=
  s.setCore c ((s.core c).record cause addr (s.core c).pc)

/-- A core that is halting keeps the exception pending. -/
theorem State.takeException_of_halting {s : State} {c : CoreId} (cause : Byte) (addr : Option Nat) (hr : (s.core c).haltReq = true) :
    s.takeException c cause addr = (s.recorded c cause addr).updCore c fun k => { k with excPending := true } := by
  unfold State.takeException
  rw [if_pos hr]
  rfl

/-- A core that is outside its handler continues there. -/
theorem State.takeException_of_handler {s : State} {c : CoreId} {cause : Byte} (addr : Option Nat) (hc : cause ≠ 0x0F)
    (hr : (s.core c).haltReq = false) (hi : (s.core c).inHandler = false) (hh : (s.core c).handler ≠ 0) :
    s.takeException c cause addr = (s.recorded c cause addr).updCore c fun k =>
      { k with mode := .running, excPending := false, pc := k.handler, inHandler := true, delivered := some (s.deliveryOf c 0) } := by
  obtain ⟨h1, h2, h3, -⟩ := Core.record_handler (s.core c) cause addr (s.core c).pc
  unfold State.takeException State.deliver
  simp only [hr, Bool.false_eq_true, if_false, State.core_setCore_same, h1, h2, h3]
  rw [if_neg (by simpa [hi] using And.intro hc hh)]
  simp only [State.recorded, State.updCore, State.core_setCore_same]
  rfl

/-- An exception other than a machine check faults a core that is inside its handler or has none. -/
theorem State.takeException_of_faulted {s : State} {c : CoreId} {cause : Byte} (addr : Option Nat) (hc : cause ≠ 0x0F)
    (hr : (s.core c).haltReq = false) (hi : (s.core c).inHandler = true ∨ (s.core c).handler = 0) :
    s.takeException c cause addr = ((s.recorded c cause addr).updCore c fun k =>
      { k with mode := .faulted, excPending := false, haltReq := false, wait := none
               delivered := some (s.deliveryOf c evCore) }).clusterEvent c.cl evCore := by
  obtain ⟨h1, h2, h3, -⟩ := Core.record_handler (s.core c) cause addr (s.core c).pc
  unfold State.takeException State.deliver
  simp only [hr, Bool.false_eq_true, if_false, State.core_setCore_same, h1, h2, h3]
  rw [if_pos (by rcases hi with h | h <;> simp [h])]
  simp only [State.recorded, State.updCore, State.core_setCore_same, if_neg hc]
  rfl

/-- An exception other than a machine check has the effects the statements name. The state t in which it is taken may differ from s in how
its table of cores is written. -/
theorem tookException_takeException {s t : State} (hcores : ∀ d, t.core d = s.core d) (hrest : { t with cores := s.cores } = s)
    (c : CoreId) {cause : Byte} (addr : Option Nat) (hc : cause ≠ 0x0F) :
    tookException s (t.takeException c cause addr) c cause addr := by
  obtain ⟨m, rfl⟩ : ∃ m, t = { s with cores := m } := ⟨t.cores, by rw [← hrest]⟩
  have hrecorded : onlyCore s (State.recorded { s with cores := m } c cause addr) c ((s.core c).record cause addr (s.core c).pc) := by
    unfold State.recorded
    rw [hcores]
    exact onlyCore_setCore_of (fun d _ => hcores d) hrest _
  have hnow (ev : BitVec 4) : State.deliveryOf { s with cores := m } c ev = deliveredNow s c ev := by
    unfold State.deliveryOf deliveredNow
    rw [hcores]
    rfl
  unfold tookException
  simp only
  split
  case isTrue hr =>
    rw [State.takeException_of_halting cause addr (by rwa [hcores])]
    exact onlyCore_updCore hrecorded _
  case isFalse hr =>
    rw [Bool.not_eq_true] at hr
    split
    case isTrue hhandler =>
      obtain ⟨hi, hh⟩ : (s.core c).inHandler = false ∧ (s.core c).handler ≠ 0 := by simpa using hhandler
      rw [State.takeException_of_handler addr hc (by rwa [hcores]) (by rwa [hcores]) (by rwa [hcores]), hnow]
      exact onlyCore_updCore hrecorded _
    case isFalse hfault =>
      have hin : (s.core c).inHandler = true ∨ (s.core c).handler = 0 := by
        by_cases hi : (s.core c).inHandler = true
        · exact .inl hi
        · exact .inr (Decidable.byContradiction fun hh => hfault (by simpa [hi] using hh))
      rw [State.takeException_of_faulted addr hc (by rwa [hcores]) (by rwa [hcores]), hnow]
      exact onlyCore_clusterEvent (onlyCore_updCore hrecorded _)

/-- An exception taken by a core that has changed to k. -/
theorem tookException_of_onlyCore {s t : State} {c : CoreId} {k : Core} (h : onlyCore s t c k) {cause : Byte} (addr : Option Nat)
    (hc : cause ≠ 0x0F) : tookException (s.setCore c k) (t.takeException c cause addr) c cause addr := by
  obtain ⟨hcore, hother, hrest⟩ := h
  refine tookException_takeException (fun d => ?_) (congrArg (fun x : State => x.setCore c k) hrest) c addr hc
  by_cases hd : d = c
  · rw [hd, hcore, State.core_setCore_same]
  · rw [hother d hd, State.core_setCore_other _ _ _ _ hd]

/-- A core that continues at an address does so as the statements say, whether or not it can be fetched (03 R87, 02 R59). -/
theorem continued_continueAt {s t : State} {c : CoreId} {k : Core} (h : onlyCore s t c { k with retired := k.retired + 1 })
    (target : W32) : continued s (t.continueAt c target) c k target := by
  have hmoved : onlyCore s (t.updCore c fun k => { k with pc := target }) c { k with pc := target, retired := k.retired + 1 } :=
    onlyCore_updCore h _
  unfold State.continueAt
  refine ⟨fun hf => ?_, fun hf => ?_⟩
  · simpa only [hf, if_true] using hmoved
  · simpa only [hf, Bool.false_eq_true, if_false] using tookException_of_onlyCore hmoved none (by decide)

end Sys2Proof.Machine

/-! SUPPORT. What an instruction comes to once its core issues it (Claims.ready): it completes, goes on at a target, or stays where an
exception put it (02 R33, R34); and the branches and jumps (03 R85 to R87). -/

namespace Sys2Proof.Machine

open Sys2Proof Sys2Proof.Claims

/-! ### Issue -/

theorem ready_iff {s : State} {c : CoreId} {n : Nat} {regs : List Reg} : ready s c n regs = true ↔
    s.issues c = true ∧ fetchable c (s.core c).pc = true ∧ (n == 4 || fetchable c ((s.core c).pc + 4)) = true ∧
      (s.readMem (clusterAddr c.cl (s.core c).pc.toNat) n).ues.isEmpty = true ∧ ∀ r ∈ regs, (!(s.core c).awaits r) = true := by
  simp only [ready, Bool.and_eq_true, List.all_eq_true, and_assoc]

/-- A core that issues is RUNNING (02 R64). -/
theorem mode_of_issues {s : State} {c : CoreId} (h : s.issues c = true) : (s.core c).mode = .running := by
  simp only [State.issues, Bool.and_eq_true, beq_iff_eq, and_assoc] at h
  obtain ⟨hmode, -⟩ := h
  exact hmode

section

variable {s : State} {c : CoreId} {n : Nat} {regs : List Reg}

/-- Of an instruction that issues, its act is performed on the state its fetch leaves. -/
theorem issue_of_ready (h : ready s c n regs = true) {srcs dsts : List Reg} (hsrcs : srcs ⊆ regs) (hdsts : dsts ⊆ regs)
    (f : State → Core → Act) :
    s.issue c n true srcs dsts f = (fetched s c n).perform c n (f (fetched s c n) ((fetched s c n).core c)) := by
  obtain ⟨hissues, hfetch, hword, hues, hfree⟩ := ready_iff.mp h
  exact State.issue_ready s c n srcs dsts f hissues hfetch hword hues
    (List.all_eq_true.mpr fun r hr => hfree r (hsrcs hr)) (List.all_eq_true.mpr fun r hr => hfree r (hdsts hr))

/-- The fetch of an instruction that issues leaves every core as it was. -/
theorem core_fetched (h : ready s c n regs = true) (d : CoreId) : (fetched s c n).core d = s.core d := by
  obtain ⟨-, -, -, hues, -⟩ := ready_iff.mp h
  exact State.core_readMem s _ n d hues

theorem mode_fetched (h : ready s c n regs = true) : ((fetched s c n).core c).mode = .running := by
  rw [core_fetched h]
  exact mode_of_issues (ready_iff.mp h).1

end

/-! ### What a performed act comes to -/

section

variable {s t : State} {c : CoreId} {k : Core}

/-- An instruction that has changed its core to k completes. -/
theorem perform_go (h : onlyCore s t c k) (n : Nat) : ∃ u, s.perform c n (.go t) = .next u ∧ completed s u c n k :=
  ⟨_, rfl, onlyCore_updCore (onlyCore_updCore h _) _⟩

/-- An instruction that has changed its core to k goes on at its target. -/
theorem perform_jump (h : onlyCore s t c k) (n : Nat) (target : W32) :
    ∃ u, s.perform c n (.jump t target) = .next u ∧ continued s u c k target :=
  ⟨_, rfl, continued_continueAt (onlyCore_updCore h _) target⟩

/-- A state in which the core does not wait stays as the instruction left it. -/
theorem perform_stay (h : (t.core c).mode ≠ .waiting) (n : Nat) : s.perform c n (.stay t) = .next t := by
  unfold State.perform State.settleHalt
  simp only
  rw [if_neg (by simp [h])]

/-- An instruction that only changes registers of its core completes. -/
theorem completed_issueReg {n : Nat} {regs : List Reg} (h : ready s c n regs = true) {srcs dsts : List Reg} (hsrcs : srcs ⊆ regs)
    (hdsts : dsts ⊆ regs) (f : Core → Core) : ∃ u, s.issueReg c n true srcs dsts f = .next u ∧
      completed (fetched s c n) u c n (f ((fetched s c n).core c)) := by
  rw [State.issueReg, issue_of_ready h hsrcs hdsts]
  exact perform_go (onlyCore_setCore _ c _) n

/-- An exception leaves no core waiting that did not wait. -/
theorem tookException_not_waiting {cause : Byte} {addr : Option Nat} (h : tookException s t c cause addr)
    (hs : (s.core c).mode ≠ .waiting) : (t.core c).mode ≠ .waiting := by
  unfold tookException at h
  simp only at h
  split at h
  · obtain ⟨hcore, -⟩ := h
    rw [hcore]
    exact hs
  · split at h
    all_goals
      obtain ⟨hcore, -⟩ := h
      rw [hcore]
      exact nofun

end

/-! ### Branches and jumps (03 R85 to R87) -/

theorem branchTaken_iff (op : BrOp) (a b : Word) : branchTaken op a b = true ↔ branchMeans op a b := by
  cases op <;> exact decide_eq_true_iff

/-- PC + sext(off) x 4, in the integers. -/
theorem relTarget_eq {n : Nat} (pc : W32) (off : BitVec n) :
    relTarget pc off = BitVec.ofInt 32 ((pc.toNat : Int) + off.toInt * 4) := by
  rw [BitVec.ofInt_add, BitVec.ofInt_mul, BitVec.ofInt_natCast, BitVec.ofNat_toNat, BitVec.setWidth_eq]
  rfl

theorem Core.toNat_link (k : Core) : k.link.toNat = (k.pc.toNat + 4) % 2 ^ 32 := by
  have h : (k.pc.toNat + 4) % 2 ^ 32 < 2 ^ 32 := Nat.mod_lt _ (by decide)
  simp only [Core.link, BitVec.toNat_setWidth, BitVec.truncate_eq_setWidth, BitVec.toNat_add]
  exact Nat.mod_eq_of_lt (by omega)

theorem exec_branch (c : CoreId) (op : BrOp) (ra rb : BitVec 5) (off : BitVec 16) (s : State) :
    exec (.branch c op ra rb off) s = execBranch c op ra rb off s := rfl

theorem exec_jal (c : CoreId) (rd : BitVec 5) (off : BitVec 21) (s : State) : exec (.jal c rd off) s = execJal c rd off s := rfl

theorem exec_jalr (c : CoreId) (rd ra : BitVec 5) (imm : BitVec 16) (s : State) :
    exec (.jalr c rd ra imm) s = execJalr c rd ra imm s := rfl

section

variable {s : State} {c : CoreId} {k : Core} (hk : (fetched s c 4).core c = k)
include hk

/-- A branch goes to its target when its comparison holds, and completes otherwise. -/
theorem branch_effect {ra rb : BitVec 5} (h : ready s c 4 [.s ra, .s rb] = true) (op : BrOp) (off : BitVec 16) :
    ∃ t, exec (.branch c op ra rb off) s = .next t ∧
      (branchMeans op (k.sreg ra) (k.sreg rb) → continued (fetched s c 4) t c k (relTarget k.pc off)) ∧
      (¬ branchMeans op (k.sreg ra) (k.sreg rb) → completed (fetched s c 4) t c 4 k) := by
  have hsame : onlyCore (fetched s c 4) (fetched s c 4) c k := hk ▸ onlyCore_refl _ c
  rw [exec_branch, execBranch, issue_of_ready h (List.Subset.refl _) (List.nil_subset _), hk]
  by_cases htaken : branchMeans op (k.sreg ra) (k.sreg rb)
  · rw [if_pos ((branchTaken_iff ..).mpr htaken)]
    obtain ⟨t, hnext, hcontinued⟩ := perform_jump hsame 4 (relTarget k.pc off)
    exact ⟨t, hnext, fun _ => hcontinued, fun hn => absurd htaken hn⟩
  · rw [if_neg (mt (branchTaken_iff ..).mp htaken)]
    obtain ⟨t, hnext, hcompleted⟩ := perform_go hsame 4
    exact ⟨t, hnext, fun hy => absurd hy htaken, fun _ => hcompleted⟩

/-- JAL links and goes to its target. -/
theorem jal_effect {rd : BitVec 5} (h : ready s c 4 [.s rd] = true) (off : BitVec 21) :
    ∃ t, exec (.jal c rd off) s = .next t ∧ continued (fetched s c 4) t c (k.setS rd k.link) (relTarget k.pc off) := by
  rw [exec_jal, execJal, issue_of_ready h (List.nil_subset _) (List.Subset.refl _), hk]
  exact perform_jump (onlyCore_setCore _ c _) 4 _

/-- JALR links and goes to its target, or takes exception 0x02 at the low 32 bits of one of 2^32 or more (log 25). -/
theorem jalr_effect {rd ra : BitVec 5} (h : ready s c 4 [.s ra, .s rd] = true) (imm : BitVec 16) {a : Word}
    (ha : k.sreg ra + imm.signExtend 64 = a) : ∃ t, exec (.jalr c rd ra imm) s = .next t ∧
      (a.toNat < 2 ^ 32 → continued (fetched s c 4) t c (k.setS rd k.link) (a.truncate 32)) ∧
      (2 ^ 32 ≤ a.toNat → tookException ((fetched s c 4).setCore c
        { k.setS rd k.link with pc := a.truncate 32, retired := k.retired + 1 }) t c 2 none) := by
  have hlinked := onlyCore_setCore (fetched s c 4) c (k.setS rd k.link)
  rw [exec_jalr, execJalr, issue_of_ready h (by simp) (by simp), hk]
  simp only [ha]
  by_cases hlow : a.toNat < 2 ^ 32
  · rw [if_pos hlow]
    obtain ⟨t, hnext, hcontinued⟩ := perform_jump hlinked 4 (a.truncate 32)
    exact ⟨t, hnext, fun _ => hcontinued, fun hhigh => absurd hlow (Nat.not_lt.mpr hhigh)⟩
  · rw [if_neg hlow]
    have hmoved := onlyCore_updCore (onlyCore_updCore hlinked fun q => { q with retired := q.retired + 1 })
      fun q => { q with pc := a.truncate 32 }
    have htook := tookException_of_onlyCore hmoved none (cause := 2) (by decide)
    have hmode : (k.setS rd k.link).mode ≠ .waiting := by
      rw [Core.mode_setS, ← hk, mode_fetched h]
      exact nofun
    refine ⟨_, perform_stay (tookException_not_waiting htook ?_) 4, fun hlow' => absurd hlow' hlow, fun _ => ?_⟩
    · rw [State.core_setCore_same]
      exact hmode
    · rw [Core.retired_setS] at htook
      exact htook

end

/-- Settles O6: what each instruction does on a state in which it issues, its act performed on the state the fetch leaves. -/
theorem branchesAndJumps : Obligations.BranchesAndJumps := by
  unfold Obligations.BranchesAndJumps
  intro s c
  refine ⟨fun op ra rb off h => ?_, fun rd off h => ?_, fun rd ra imm h => ?_⟩
  · simpa only [relTarget_eq] using branch_effect rfl h op off
  · obtain ⟨t, hnext, hcontinued⟩ := jal_effect rfl h off
    exact ⟨t, _, hnext, Core.toNat_link _, relTarget_eq _ off ▸ hcontinued⟩
  · obtain ⟨t, hnext, hlow, hhigh⟩ := jalr_effect rfl h imm rfl
    exact ⟨t, _, hnext, Core.toNat_link _, hlow, hhigh⟩

end Sys2Proof.Machine

/-! SUPPORT. Vector registers by their elements (03 R70, R71): an element of a register written element by element, and what a predicated
write leaves. -/

namespace Sys2Proof.Machine

open Sys2Proof Sys2Proof.Claims

/-! ### Elements -/

/-- The number whose digits in base b are d 0 to d (m - 1), as the model sums a register's elements. -/
def fromDigits (b : Nat) (d : Nat → Nat) (m : Nat) : Nat := (List.range m).foldl (fun x e => x + d e * b ^ e) 0

theorem fromDigits_succ (b : Nat) (d : Nat → Nat) (m : Nat) : fromDigits b d (m + 1) = fromDigits b d m + d m * b ^ m := by
  rw [fromDigits, List.range_succ, List.foldl_append]
  rfl

section

variable {b : Nat} {d : Nat → Nat} (hd : ∀ i, d i < b)
include hd

theorem fromDigits_lt (m : Nat) : fromDigits b d m < b ^ m := by
  induction m with
  | zero => exact Nat.one_pos
  | succ m ih =>
    calc fromDigits b d (m + 1) = fromDigits b d m + d m * b ^ m := fromDigits_succ b d m
      _ < b ^ m + d m * b ^ m := Nat.add_lt_add_right ih _
      _ = (d m + 1) * b ^ m := by rw [Nat.add_mul, Nat.one_mul, Nat.add_comm]
      _ ≤ b * b ^ m := Nat.mul_le_mul_right _ (hd m)
      _ = b ^ (m + 1) := by rw [Nat.pow_succ, Nat.mul_comm]

/-- Digit e: a higher place adds a multiple of b ^ (e + 1), a lower one less than b ^ e. -/
theorem digit_fromDigits {e m : Nat} (he : e < m) : fromDigits b d m / b ^ e % b = d e := by
  have hb : 0 < b := Nat.zero_lt_of_lt (hd 0)
  have hpow : 0 < b ^ e := Nat.pow_pos hb
  induction m with
  | zero => exact absurd he (Nat.not_lt_zero e)
  | succ m ih =>
    rw [fromDigits_succ]
    rcases Nat.lt_succ_iff_lt_or_eq.mp he with hlower | rfl
    · have hplace : d m * b ^ m = d m * b ^ (m - (e + 1)) * b * b ^ e := by
        rw [Nat.mul_assoc _ b, ← Nat.pow_succ', Nat.mul_assoc, ← Nat.pow_add]
        congr 2
        omega
      rw [hplace, Nat.add_mul_div_right _ _ hpow, Nat.add_mul_mod_self_right]
      exact ih hlower
    · rw [Nat.add_mul_div_right _ _ hpow, Nat.div_eq_of_lt (fromDigits_lt hd e), Nat.zero_add]
      exact Nat.mod_eq_of_lt (hd e)

end

theorem toNat_ofNat_of_lt {n a x : Nat} (hx : x < 2 ^ a) (ha : a ≤ n) : (BitVec.ofNat n x).toNat = x := by
  rw [BitVec.toNat_ofNat, Nat.mod_eq_of_lt (Nat.lt_of_lt_of_le hx (Nat.pow_le_pow_right Nat.two_pos ha))]

theorem elem_lt (v : Slot) (w e : Nat) : elem v w e < 2 ^ (8 * w) := Nat.mod_lt _ (Nat.two_pow_pos _)

/-- Element e of a register written element by element. -/
theorem elem_ofElems {w : Nat} (f : Nat → Nat) {e : Nat} (he : e < 64 / w) :
    elem (ofElems w f) w e = f e % 2 ^ (8 * w) := by
  have hd (i : Nat) : f i % 2 ^ (8 * w) < 2 ^ (8 * w) := Nat.mod_lt _ (Nat.two_pow_pos _)
  have hplace (i : Nat) : 2 ^ (8 * w * i) = (2 ^ (8 * w)) ^ i := Nat.pow_mul _ _ _
  have hfits : fromDigits (2 ^ (8 * w)) (fun i => f i % 2 ^ (8 * w)) (64 / w) < 2 ^ (8 * w * (64 / w)) := by
    rw [hplace]
    exact fromDigits_lt hd _
  have hbits : 8 * w * (64 / w) ≤ 512 := by
    have := Nat.mul_div_le 64 w
    rw [Nat.mul_assoc]
    omega
  have hnat : (ofElems w f).toNat = fromDigits (2 ^ (8 * w)) (fun i => f i % 2 ^ (8 * w)) (64 / w) := by
    unfold ofElems
    simp only [hplace]
    exact toNat_ofNat_of_lt hfits hbits
  rw [elem, hnat, Nat.shiftRight_eq_div_pow, hplace]
  exact digit_fromDigits hd he

/-- A predicated write: where each active element's value meets the operation's relation, the register is as R70 and R71 say. -/
theorem predicated_merge (k : Core) (pr : Pred) {w : Nat} (old : Slot) {f : Nat → Nat} {R : Nat → Nat → Prop}
    (h : ∀ e, R e (f e % 2 ^ (8 * w))) : predicated k pr w old (k.merge pr w old f) R := by
  intro e he
  unfold Core.merge Core.active
  rw [elem_ofElems _ he]
  by_cases hactive : (!pr.p || (k.preg pr.pg).getLsbD (e * w)) = true
  · rw [if_pos hactive, if_pos hactive]
    exact h e
  · rw [if_neg hactive, if_neg hactive]
    split
    · rfl
    · exact Nat.mod_eq_of_lt (elem_lt old w e)

theorem esz_pos (sz : ESz) : 0 < esz sz := by cases sz <;> decide

end Sys2Proof.Machine

/-! SUPPORT. Elements of n bits as signed integers (03 Table 3-11, R509): the model's `signed` and `unsigned` beside the value the
statements give an element (Claims.sval), and what each operation on elements comes to. -/

namespace Sys2Proof.Machine

open Sys2Proof Sys2Proof.Claims

/-! ### Two's complement values of n bits -/

/-- The modulus as one natural number, as the model's `signed` and `unsigned` have it. -/
theorem sval_eq (n v : Nat) : sval n v = if v < 2 ^ (n - 1) then (v : Int) else (v : Int) - (2 ^ n : Nat) := by
  push_cast
  rfl

section

variable {n : Nat} (hn : 0 < n)
include hn

theorem two_pow_eq_double : 2 ^ n = 2 * 2 ^ (n - 1) := by
  rw [← Nat.two_pow_pred_add_two_pow_pred hn, Nat.two_mul]

theorem sval_bounds {v : Nat} (hv : v < 2 ^ n) : -(2 ^ (n - 1) : Nat) ≤ sval n v ∧ sval n v < (2 ^ (n - 1) : Nat) := by
  have h2 := two_pow_eq_double hn
  rw [sval_eq]
  split <;> omega

theorem signed_eq_sval {v : Nat} (hv : v < 2 ^ n) : signed n v = sval n v := by
  have h2 := two_pow_eq_double hn
  unfold signed
  rw [Nat.mod_eq_of_lt hv, sval_eq]
  split <;> split <;> omega

/-- A value that n bits hold is what its n bits are worth. -/
theorem sval_unsigned {i : Int} (hlo : -(2 ^ (n - 1) : Nat) ≤ i) (hhi : i < (2 ^ (n - 1) : Nat)) : sval n (unsigned n i) = i := by
  have h2 := two_pow_eq_double hn
  rw [sval_eq]
  unfold unsigned
  by_cases hneg : i < 0
  · have hmod : i % ((2 ^ n : Nat) : Int) = i + (2 ^ n : Nat) := by
      rw [← Int.add_emod_right, Int.emod_eq_of_lt (by omega) (by omega)]
    rw [hmod, if_neg (by omega)]
    omega
  · have hmod : i % ((2 ^ n : Nat) : Int) = i := Int.emod_eq_of_lt (by omega) (by omega)
    rw [hmod, if_pos (by omega)]
    omega

/-- Saturation at the bounds of n bits. -/
theorem sval_saturated (i : Int) :
    sval n (unsigned n (if i < -(2 ^ (n - 1) : Nat) then -(2 ^ (n - 1) : Nat)
      else if ((2 ^ (n - 1) : Nat) : Int) - 1 < i then ((2 ^ (n - 1) : Nat) : Int) - 1 else i)) =
      max (-2 ^ (n - 1)) (min (2 ^ (n - 1) - 1) i) := by
  have hpos : 0 < 2 ^ (n - 1) := Nat.two_pow_pos _
  have hcast : (2 : Int) ^ (n - 1) = ((2 ^ (n - 1) : Nat) : Int) := by push_cast; rfl
  have hclamp : (if i < -(2 ^ (n - 1) : Nat) then -((2 ^ (n - 1) : Nat) : Int)
      else if ((2 ^ (n - 1) : Nat) : Int) - 1 < i then ((2 ^ (n - 1) : Nat) : Int) - 1 else i) =
      max (-((2 ^ (n - 1) : Nat) : Int)) (min (((2 ^ (n - 1) : Nat) : Int) - 1) i) := by
    split
    · omega
    · split <;> omega
  rw [hcast, hclamp]
  exact sval_unsigned hn (by omega) (by omega)

/-- An arithmetic shift to the right stays within n bits. -/
theorem sval_shifted {v : Nat} (hv : v < 2 ^ n) (k : Nat) : sval n (unsigned n (sval n v / (2 ^ k : Nat))) = sval n v / 2 ^ k := by
  obtain ⟨hlo, hhi⟩ := sval_bounds hn hv
  have hk : (1 : Int) ≤ (2 ^ k : Nat) := by exact_mod_cast Nat.one_le_two_pow
  have hscaled := Int.mul_le_mul_of_nonneg_left hk (Int.natCast_nonneg (2 ^ (n - 1)))
  rw [Int.mul_one] at hscaled
  rw [sval_unsigned hn]
  · push_cast
    rfl
  · rw [Int.le_ediv_iff_mul_le (by omega), Int.neg_mul]
    omega
  · rw [Int.ediv_lt_iff_lt_mul (by omega)]
    omega

end

theorem unsigned_lt (n : Nat) (i : Int) : unsigned n i < 2 ^ n := by
  have hpos : (0 : Int) < (2 ^ n : Nat) := by exact_mod_cast Nat.two_pow_pos n
  have h := Int.emod_lt_of_pos i hpos
  have h0 := Int.emod_nonneg i (Int.ne_of_gt hpos)
  unfold unsigned
  omega

theorem popCount_lt (n v : Nat) : popCount n v < 2 ^ n := by
  have hle : popCount n v ≤ n := by simpa [popCount] using List.length_filter_le (fun i => v.testBit i) (List.range n)
  exact Nat.lt_of_le_of_lt hle Nat.lt_two_pow_self

/-! ### The operations (03 Table 3-11) -/

section

variable {n a b : Nat} (ha : a < 2 ^ n) (hb : b < 2 ^ n)
include ha hb

/-- A result is an element of n bits. -/
theorem vintElem_lt (op : VIntOp) : vintElem op n a b < 2 ^ n := by
  cases op with
  | vadd | vsub | vmul | vsll => exact Nat.mod_lt _ (Nat.two_pow_pos n)
  | vand => exact Nat.and_lt_two_pow a hb
  | vor => exact Nat.or_lt_two_pow ha hb
  | vxor => exact Nat.xor_lt_two_pow ha hb
  | vsrl => exact Nat.lt_of_le_of_lt (Nat.div_le_self _ _) ha
  | vsra | vaddsat | vsubsat => exact unsigned_lt n _
  | vmin | vmax | vminu | vmaxu =>
    unfold vintElem
    simp only
    split <;> assumption
  | vpopc => exact popCount_lt n a

theorem vintMeans_vintElem (hn : 0 < n) (op : VIntOp) : vintMeans op n a b (vintElem op n a b) := by
  have hsa := signed_eq_sval hn ha
  have hsb := signed_eq_sval hn hb
  cases op with
  | vadd | vmul | vsll | vsrl | vpopc => rfl
  | vsub =>
    change ((a + 2 ^ n - b) % 2 ^ n + b) % 2 ^ n = a
    rw [Nat.mod_add_mod, Nat.sub_add_cancel (by omega), Nat.add_mod_right, Nat.mod_eq_of_lt ha]
  | vand => exact Nat.testBit_and a b
  | vor => exact Nat.testBit_or a b
  | vxor => exact Nat.testBit_xor a b
  | vsra =>
    change sval n (unsigned n (signed n a / (2 ^ (b % n) : Nat))) = sval n a / 2 ^ (b % n)
    rw [hsa, sval_shifted hn ha]
  | vmin =>
    change sval n (if signed n a < signed n b then a else b) = min (sval n a) (sval n b)
    rw [hsa, hsb]
    split <;> omega
  | vmax =>
    change sval n (if signed n a < signed n b then b else a) = max (sval n a) (sval n b)
    rw [hsa, hsb]
    split <;> omega
  | vminu =>
    change (if a < b then a else b) = min a b
    split <;> omega
  | vmaxu =>
    change (if a < b then b else a) = max a b
    split <;> omega
  | vaddsat | vsubsat =>
    unfold vintMeans vintElem
    simp only [hsa, hsb]
    exact sval_saturated hn _

end

/-! ### The instructions -/

theorem exec_vint (c : CoreId) (op : VIntOp) (sz : ESz) (vd va vb : BitVec 4) (pr : Pred) (s : State) :
    exec (.vint c op sz vd va vb pr) s = execVint c op sz vd va vb pr s := rfl

theorem exec_vfp (c : CoreId) (op : VFpOp) (vd va vb : BitVec 4) (pr : Pred) (s : State) :
    exec (.vfp c op vd va vb pr) s = execVfp c op vd va vb pr s := rfl

theorem exec_vperm (c : CoreId) (vd va vb : BitVec 4) (pr : Pred) (s : State) :
    exec (.vperm c vd va vb pr) s = execVperm c vd va vb pr s := rfl

/-- The must-be-zero field of VPOPC (03 Table 3-11). -/
theorem wellFormed_vint {op : VIntOp} {vb : BitVec 4} (h : op = .vpopc → vb = 0) (c : CoreId) (sz : ESz) (vd va : BitVec 4)
    (pr : Pred) : Instr.wellFormed (.vint c op sz vd va vb pr) = true := by
  simpa [Instr.wellFormed, Decidable.imp_iff_not_or] using h

/-- The must-be-zero field of VFABS and VFNEG (03 Table 3-12). -/
theorem wellFormed_vfp {op : VFpOp} {vb : BitVec 4} (h : op = .vfabs ∨ op = .vfneg → vb = 0) (c : CoreId) (vd va : BitVec 4)
    (pr : Pred) : Instr.wellFormed (.vfp c op vd va vb pr) = true := by
  simpa [Instr.wellFormed, Decidable.imp_iff_not_or] using h

/-- The registers a predicated instruction names. -/
abbrev vectorRegs (vd va vb : BitVec 4) (pr : Pred) : List Reg := [.v va, .v vb, .v vd, .p pr.pg]

theorem predSources_subset (vd va vb : BitVec 4) (pr : Pred) : predSources pr vd ⊆ vectorRegs vd va vb pr := by
  intro r hr
  unfold predSources at hr
  rcases List.mem_append.mp hr with hr | hr
  · split at hr <;> simp_all
  · split at hr <;> simp_all

section

variable {s : State} {c : CoreId} {vd va vb : BitVec 4} {pr : Pred} (h : ready s c 4 [.v va, .v vb, .v vd, .p pr.pg] = true)
  {k : Core} (hk : (fetched s c 4).core c = k)
include h hk

/-- An instruction that writes vd element by element under its predicate completes with vd as R70 and R71 say. -/
theorem predicated_issueReg {srcs : List Reg} (hsrcs : srcs ⊆ vectorRegs vd va vb pr) {w : Nat} (g : Core → Nat → Nat)
    {R : Nat → Nat → Prop} (hR : ∀ e, R e (g k e % 2 ^ (8 * w))) :
    ∃ t r, s.issueReg c 4 true srcs [.v vd] (fun k => k.setV vd (k.merge pr w (k.vreg vd) (g k))) = .next t ∧
      completed (fetched s c 4) t c 4 (k.setV vd r) ∧ predicated k pr w (k.vreg vd) r R := by
  obtain ⟨t, hnext, hcompleted⟩ := completed_issueReg h hsrcs (dsts := [.v vd]) (by simp) fun k =>
    k.setV vd (k.merge pr w (k.vreg vd) (g k))
  exact ⟨t, _, hnext, hk ▸ hcompleted, predicated_merge k pr _ hR⟩

theorem vint_effect {op : VIntOp} (hop : op = .vpopc → vb = 0) (sz : ESz) : ∃ t r, exec (.vint c op sz vd va vb pr) s = .next t ∧
    completed (fetched s c 4) t c 4 (k.setV vd r) ∧ predicated k pr (esz sz) (k.vreg vd) r fun e x =>
      vintMeans op (8 * esz sz) (elem (k.vreg va) (esz sz) e) (elem (k.vreg vb) (esz sz) e) x := by
  have hw := esz_pos sz
  rw [exec_vint, execVint, wellFormed_vint hop]
  refine predicated_issueReg h hk (by simp [predSources_subset]) _ fun e => ?_
  have ha := elem_lt (k.vreg va) (esz sz) e
  have hb := elem_lt (k.vreg vb) (esz sz) e
  rw [Nat.mod_eq_of_lt (vintElem_lt ha hb op)]
  exact vintMeans_vintElem ha hb (by omega) op

theorem vfp_effect {op : VFpOp} (hop : op = .vfabs ∨ op = .vfneg → vb = 0) : ∃ t r, exec (.vfp c op vd va vb pr) s = .next t ∧
    completed (fetched s c 4) t c 4 (k.setV vd r) ∧ predicated k pr 4 (k.vreg vd) r fun e x =>
      x = vfpElem op (elem (k.vreg va) 4 e) (elem (k.vreg vb) 4 e) (elem (k.vreg vd) 4 e) % 2 ^ 32 := by
  have hdest : (if op = .vfma then [.v vd] else []) ⊆ vectorRegs vd va vb pr := by split <;> simp
  rw [exec_vfp, execVfp, wellFormed_vfp hop]
  exact predicated_issueReg h hk (by simp [predSources_subset, hdest]) _ fun e => rfl

theorem vperm_effect : ∃ t r, exec (.vperm c vd va vb pr) s = .next t ∧
    completed (fetched s c 4) t c 4 (k.setV vd r) ∧ predicated k pr 1 (k.vreg vd) r fun e x =>
      x = if elem (k.vreg vb) 1 e / 128 % 2 = 1 then 0 else elem (k.vreg va) 1 (elem (k.vreg vb) 1 e % 64) := by
  rw [exec_vperm, execVperm]
  refine predicated_issueReg h hk (by simp [predSources_subset]) _ fun e => ?_
  have hindex := elem_lt (k.vreg vb) 1 e
  have hvalue := elem_lt (k.vreg va) 1 (elem (k.vreg vb) 1 e % 64)
  by_cases hzero : elem (k.vreg vb) 1 e ≥ 128
  · rw [if_pos hzero, if_pos (by omega), Nat.zero_mod]
  · rw [if_neg hzero, if_neg (by omega), Nat.mod_eq_of_lt hvalue]

end

/-- Settles O13: each instruction writes its elements under the predicate, and its element operation is the one the tables give. -/
theorem vectorElementResult : Obligations.VectorElementResult := by
  unfold Obligations.VectorElementResult
  intro s c vd va vb pr h
  exact ⟨fun op sz hop => vint_effect h rfl hop sz, fun op hop => vfp_effect h rfl hop, vperm_effect h rfl⟩

end Sys2Proof.Machine

/-! SUPPORT. The fetch of a 4-byte instruction that its core issues (02 R33, R34): its word lies in one code word of the core's
instruction memory, so that the fetch counts and repairs at most that word (09 R215, 11 R250), and changes no core and no cycle. -/

namespace Sys2Proof.Machine

open Sys2Proof Sys2Proof.Claims

/-- The core-local windows of a cluster are SRAM. -/
theorem locate_coreLocal (cl : Fin 32) {a : Nat} (hlo : 0x03000000 ≤ a) (hhi : a < 0x03800000) :
    locate (clusterAddr cl a) = .sram cl a := by
  have hcl := cl.isLt
  have hmod : (clusterAddr cl a - winBase) % winSize = a := by
    simp only [clusterAddr, winBase, winSize]
    omega
  have hdiv : (clusterAddr cl a - winBase) / winSize % 32 = cl.val := by
    simp only [clusterAddr, winBase, winSize]
    omega
  have hpopulated : populated a = true := by simp [populated, hlo, hhi]
  have habove : ¬ clusterAddr cl a < d1Top := by
    simp only [clusterAddr, d1Top, winBase, winSize]
    omega
  have hnotD2 : ¬ clusterAddr cl a < d2Top := by
    simp only [clusterAddr, d2Top, winBase, winSize]
    omega
  have hwindow : winBase ≤ clusterAddr cl a ∧ clusterAddr cl a < winTop := by
    simp only [clusterAddr, winBase, winTop, winSize]
    omega
  simp [locate, hmod, hdiv, hpopulated, habove, hnotD2, hwindow]

theorem State.readLoop_zero (s : State) (fuel a : Nat) : s.readLoop fuel a 0 = ([], []) := by cases fuel <;> rfl

/-- Bytes that lie in one code word are read from it alone. -/
theorem State.readLoop_oneWord (s : State) {fuel a n : Nat} (hn : 0 < n) (hfit : a % codeSize a + n ≤ codeSize a) :
    (s.readLoop (fuel + 1) a n).2 = [(a - a % codeSize a, s.decodeAt a)] := by
  have hall : min n (codeSize a - a % codeSize a) = n := by omega
  unfold State.readLoop
  simp only [if_neg (Nat.ne_of_gt hn), hall, Nat.sub_self, State.readLoop_zero]

/-- t is s but for the error counters, the partitions' counters and the corrected words that wait for their write-back. -/
def State.counted (s t : State) : Prop :=
  ∃ ce ck ps cls, t = { s with eccCe := ce, eccCk := ck, parts := ps, clusters := cls }

theorem State.counted_refl (s : State) : s.counted s := ⟨s.eccCe, s.eccCk, s.parts, s.clusters, rfl⟩

theorem State.counted_count {s t : State} (h : s.counted t) (p : Option (Fin 12)) (i n : Nat) : s.counted (t.count p i n) := by
  obtain ⟨ce, ck, ps, cls, rfl⟩ := h
  cases p with
  | none => exact ⟨ce, ck, ps, cls, rfl⟩
  | some p => exact ⟨ce, ck, _, cls, rfl⟩

theorem State.counted_updCluster {s t : State} (h : s.counted t) (cl : Fin 32) (f : Cluster → Cluster) :
    s.counted (t.updCluster cl f) := by
  obtain ⟨ce, ck, ps, cls, rfl⟩ := h
  exact ⟨ce, ck, ps, _, rfl⟩

/-- A correctable word is counted, an error-free one is not. -/
theorem State.counted_eccCount (s : State) (src : EccSource) (a : Nat) {d : Decoded} (hd : d.cls ≠ .bad) :
    s.counted (s.eccCount src a d) := by
  unfold State.eccCount
  cases hcls : d.cls with
  | good => exact s.counted_refl
  | data => exact State.counted_count ⟨_, s.eccCk, s.parts, s.clusters, rfl⟩ _ _ _
  | check => exact State.counted_count ⟨s.eccCe, _, s.parts, s.clusters, rfl⟩ _ _ _
  | bad => exact absurd hcls hd

theorem State.counted_afterRead (s : State) (src : EccSource) {a : Nat} {d : Decoded} {cl : Fin 32} {o : Nat}
    (ha : locate a = .sram cl o) (hd : d.cls ≠ .bad) : s.counted (s.afterRead src a d) := by
  have h := s.counted_eccCount src a hd
  unfold State.afterRead
  simp only [ha]
  split
  · exact State.counted_updCluster h _ _
  · exact h

/-- A read of bytes in one SRAM word that is not uncorrectable. -/
theorem State.counted_readMem (s : State) {a n : Nat} {cl : Fin 32} {o : Nat} (hn : 0 < n) (hfit : a % 8 + n ≤ 8)
    (ha : locate a = .sram cl o) (hword : locate (a - a % 8) = .sram cl (o - o % 8)) (hues : (s.readMem a n).ues.isEmpty = true) :
    s.counted (s.readMem a n).st := by
  obtain ⟨m, rfl⟩ := Nat.exists_eq_add_one.mpr hn
  have hsize : codeSize a = 8 := by simp [codeSize, ha]
  have hloop : (s.readLoop (m + 1) a (m + 1)).2 = [(a - a % 8, s.decodeAt a)] := by
    rw [s.readLoop_oneWord hn (by rwa [hsize]), hsize]
  have hnone : badWords [(a - a % 8, s.decodeAt a)] = [] := by
    rw [← hloop]
    exact List.isEmpty_iff.mp hues
  have hgood : (s.decodeAt a).cls ≠ .bad := fun hbad => by simp [badWords, hbad] at hnone
  have hread : (s.readMem a (m + 1)).st = s.afterReads .requester [(a - a % 8, s.decodeAt a)] := by
    simp only [State.readMem, State.readRaw, hloop, hnone, List.foldl_nil]
  rw [hread, State.afterReads]
  split
  · exact s.counted_refl
  · simpa [linesOf, hword] using s.counted_afterRead .requester hword hgood

/-- The word of an instruction that its core issues. -/
theorem counted_fetched {s : State} {c : CoreId} {regs : List Reg} (h : ready s c 4 regs = true) : s.counted (fetched s c 4) := by
  obtain ⟨-, hfetch, -, hues, -⟩ := ready_iff.mp h
  obtain ⟨⟨haligned, hlo⟩, hhi⟩ : ((s.core c).pc.toNat % 4 = 0 ∧ imemBase c.k.val ≤ (s.core c).pc.toNat) ∧
    (s.core c).pc.toNat < imemBase c.k.val + 0x4000 := by simpa [fetchable] using hfetch
  have hk := c.k.isLt
  rw [imemBase] at hlo hhi
  have hbase (p : Nat) : clusterAddr c.cl p % 8 = p % 8 := by
    simp only [clusterAddr, winBase, winSize]
    omega
  have hsub : clusterAddr c.cl (s.core c).pc.toNat - (s.core c).pc.toNat % 8 =
      clusterAddr c.cl ((s.core c).pc.toNat - (s.core c).pc.toNat % 8) := by
    simp only [clusterAddr]
    omega
  refine s.counted_readMem (by decide) ?_ (locate_coreLocal c.cl (by omega) (by omega)) ?_ hues
  · rw [hbase]
    omega
  · rw [hbase, hsub]
    exact locate_coreLocal c.cl (by omega) (by omega)

/-- The fetch of an instruction that issues is of the cycle in which it issues. -/
theorem cycle_fetched {s : State} {c : CoreId} {regs : List Reg} (h : ready s c 4 regs = true) :
    (fetched s c 4).cycle = s.cycle := by
  obtain ⟨ce, ck, ps, cls, heq⟩ := counted_fetched h
  rw [heq]

end Sys2Proof.Machine

/-! SUPPORT. The search unit (04 R103 to R106): sketch distances, product-code sums and filters, each beside what the statement says of
it. -/

namespace Sys2Proof.Machine

open Sys2Proof Sys2Proof.Claims

/-! ### Sums that saturate (04 R103, R104) -/

/-- What ACC adds to: the element as it stands, or 0. -/
def accumulated (acc : Bool) (old : Slot) (e : Nat) : Nat := if acc then elem old 2 e else 0

/-- A register whose first m elements take a sum that fits them, added with saturation under ACC, and whose others ACC keeps. -/
theorem elem_accumulate (acc : Bool) (old : Slot) (m : Nat) {d : Nat → Nat} (hd : ∀ e, e < m → d e ≤ 0xFFFF) {e : Nat} (he : e < 32) :
    elem (ofElems 2 fun e => if e < m then (if acc then min (elem old 2 e + d e) 0xFFFF else d e)
      else if acc then elem old 2 e else 0) 2 e =
    if e < m then min (accumulated acc old e + d e) 0xFFFF else accumulated acc old e := by
  have hold : elem old 2 e < 2 ^ 16 := elem_lt old 2 e
  rw [elem_ofElems _ he, accumulated]
  by_cases hm : e < m
  · have hfits := hd e hm
    simp only [if_pos hm]
    cases acc <;> simp only [Bool.false_eq_true, if_true, if_false] <;> omega
  · simp only [if_neg hm]
    cases acc <;> simp only [Bool.false_eq_true, if_true, if_false] <;> omega

/-! ### SKDIST (04 R103) -/

theorem exec_skdist (c : CoreId) (acc : Bool) (width : BitVec 2) (vd va vb : BitVec 4) (s : State) :
    exec (.skdist c acc width vd va vb) s = execSkdist c acc width vd va vb s := rfl

theorem skWidth_eq (width : BitVec 2) : skWidth width = if width.toNat = 0 then 16 else 64 * 2 ^ width.toNat := by
  revert width
  decide

theorem skWidth_le (width : BitVec 2) : skWidth width ≤ 512 := by
  revert width
  decide

/-- The Hamming distance of the sketch of w bits and sketch e of those packed in b. -/
def sketchDistance (w : Nat) (a b : Slot) (e : Nat) : Nat :=
  ((List.range w).filter fun i => a.getLsbD i != b.getLsbD (e * w + i)).length

theorem sketchDistance_le (w : Nat) (a b : Slot) (e : Nat) : sketchDistance w a b e ≤ w := by
  simpa [sketchDistance] using List.length_filter_le (fun i => a.getLsbD i != b.getLsbD (e * w + i)) (List.range w)

/-- The set bits of the exclusive or are the places where the sketches differ. -/
theorem popCount_xor (w : Nat) (a b : Slot) (e : Nat) :
    popCount w (a.toNat % 2 ^ w ^^^ b.toNat / 2 ^ (e * w) % 2 ^ w) = sketchDistance w a b e := by
  refine congrArg List.length (List.filter_congr fun i hi => ?_)
  have hw : i < w := List.mem_range.mp hi
  simp [Nat.testBit_xor, Nat.testBit_mod_two_pow, Nat.testBit_div_two_pow, hw, BitVec.getLsbD, Nat.add_comm]

theorem elem_skdistResult (acc : Bool) {w : Nat} (hw : w ≤ 512) (a b old : Slot) {e : Nat} (he : e < 32) :
    elem (skdistResult acc w a b old) 2 e =
      if e < 512 / w then min (accumulated acc old e + sketchDistance w a b e) 0xFFFF else accumulated acc old e := by
  have hfits (e : Nat) : sketchDistance w a b e ≤ 0xFFFF := Nat.le_trans (sketchDistance_le w a b e) (by omega)
  simp only [skdistResult, popCount_xor]
  exact elem_accumulate acc old _ (fun e _ => hfits e) he

/-! ### FTEST (04 R106, Table 4-4) -/

theorem exec_ftest (c : CoreId) (rd ra rb : BitVec 5) (vx : BitVec 4) (s : State) :
    exec (.ftest c rd ra rb vx) s = execFtest c rd ra rb vx s := rfl

/-- Whether a present term holds; a reserved code never does. -/
def termHolds (code x v : Nat) : Bool :=
  match code with
  | 1 => x == v
  | 2 => x != v
  | 3 => x < v
  | 4 => x ≤ v
  | 5 => v < x
  | 6 => v ≤ x
  | _ => false

theorem filterTerm_eq (code x v : Nat) : filterTerm code x v = if code != 0 then some (termHolds code x v) else none := by
  match code with
  | 0 | 1 | 3 | 4 | 5 | 6 => rfl
  | 2 => exact congrArg some (decide_not : decide (¬ x = v) = !decide (x = v))
  | n + 7 => rfl

/-- The present terms of a list: those of a code other than 0. -/
theorem filterMap_filterTerm {l : List Nat} (code x v : Nat → Nat) :
    (l.map fun i => filterTerm (code i) (x i) (v i)).filterMap id =
      (l.filter fun i => code i != 0).map fun i => termHolds (code i) (x i) (v i) := by
  rw [List.filterMap_map, ← List.filterMap_eq_map, List.filterMap_filter]
  exact congrArg (List.filterMap · l) (funext fun i => filterTerm_eq _ _ _)

theorem filterPass_eq {l : List Nat} (anyOf : Bool) (code x v : Nat → Nat) :
    filterPass anyOf (l.map fun i => filterTerm (code i) (x i) (v i)) =
      let present := l.filter fun i => code i != 0
      let holds := fun i => termHolds (code i) (x i) (v i)
      (present.isEmpty || if anyOf then present.any holds else present.all holds) := by
  simp only [filterPass, filterMap_filterTerm, List.isEmpty_map, List.any_map, List.all_map]
  rfl

/-- FTEST's result: an empty predicate passes, another by OR or by AND. -/
def filterWord (ctl : Nat) (x v : Nat → Nat) : Word :=
  let code (i : Nat) := ctl / 16 ^ i % 16
  let present := (List.range 4).filter fun i => code i != 0
  if present = [] then 1
  else if ctl / 2 ^ 16 % 2 = 1 then (if present.any fun i => termHolds (code i) (x i) (v i) then 1 else 0)
  else if present.all fun i => termHolds (code i) (x i) (v i) then 1 else 0

theorem filterWord_eq (ctl word : Nat) (mv : Nat → Nat) :
    (if filterPass (ctl.testBit 16) (filterTerms ctl word mv) then (1 : Word) else 0) =
      filterWord ctl (fun i => word &&& mv (2 * i)) fun i => mv (2 * i + 1) := by
  have hcode (i : Nat) : 2 ^ (4 * i) = 16 ^ i := Nat.pow_mul 2 4 i
  simp only [filterTerms, hcode, filterPass_eq, filterWord, Nat.testBit_eq_decide_div_mod_eq]
  generalize (List.range 4).filter (fun i => ctl / 16 ^ i % 16 != 0) = present
  cases present with
  | nil => rfl
  | cons i present => by_cases hany : ctl / 2 ^ 16 % 2 = 1 <;> simp only [hany] <;> rfl

/-! ### PQSUM (04 R104) -/

theorem exec_pqsum (c : CoreId) (acc : Bool) (group : BitVec 2) (vd va : BitVec 4) (rs : BitVec 5) (s : State) :
    exec (.pqsum c acc group vd va rs) s = execPqsum c acc group vd va rs s := rfl

/-- Where no error is stored, the table's bytes are those in memory, and reading them changes nothing. -/
theorem readTable_clean {s : State} (h : s.flips = []) (b : Nat) (os : List Nat) :
    readTable s b os = ⟨s, os.map fun o => Memory.byte s.mem (b + o), []⟩ := by
  induction os with
  | nil => rfl
  | cons o os ih =>
    simp only [readTable, s.readMem_clean _ _ h, ih]
    rfl

/-- The sum of group j: one table byte for each of its g codes. -/
def groupSum (m : Memory) (lo m0 g : Nat) (va : Slot) (j : Nat) : Nat :=
  ((List.range g).map fun i => (Memory.byte m (lo + (m0 + i) * 256 + elem va 1 (j * g + i))).toNat).sum

/-- Code i of group j is one of the register's 64. -/
theorem code_lt {g j i : Nat} (hj : j < 64 / g) (hi : i < g) : j * g + i < 64 :=
  calc j * g + i < j * g + g := Nat.add_lt_add_left hi _
    _ = (j + 1) * g := (Nat.succ_mul j g).symm
    _ ≤ 64 / g * g := Nat.mul_le_mul_right g hj
    _ ≤ 64 := Nat.div_mul_le_self 64 g

theorem foldl_tableBytes (m : Memory) (lo m0 : Nat) {g : Nat} (va : Slot) {j : Nat} (hj : j < 64 / g) :
    ((List.range g).map fun i =>
      (((pqOffsets g m0 va).map fun o => Memory.byte m (lo + o)).getD (j * g + i) 0).toNat).foldl (· + ·) 0 =
      groupSum m lo m0 g va j := by
  rw [← List.sum_eq_foldl_nat, groupSum]
  refine congrArg List.sum (List.map_congr_left fun i hi => ?_)
  have hi : i < g := List.mem_range.mp hi
  have hplace : (j * g + i) % g = i := by rw [Nat.mul_add_mod', Nat.mod_eq_of_lt hi]
  simp [pqOffsets, code_lt hj hi, hplace, Nat.add_assoc]

theorem sum_bytes_le (f : Nat → Byte) (l : List Nat) : (l.map fun i => (f i).toNat).sum ≤ l.length * 255 := by
  induction l with
  | nil => exact Nat.le_refl 0
  | cons i l ih =>
    have hbyte : (f i).toNat < 256 := (f i).isLt
    rw [List.map_cons, List.sum_cons, List.length_cons]
    omega

theorem groupSum_le (m : Memory) (lo m0 : Nat) {g : Nat} (hg : g ≤ 64) (va : Slot) (j : Nat) : groupSum m lo m0 g va j ≤ 0xFFFF := by
  have hbytes := sum_bytes_le (fun i => Memory.byte m (lo + (m0 + i) * 256 + elem va 1 (j * g + i))) (List.range g)
  rw [List.length_range] at hbytes
  exact Nat.le_trans hbytes (by omega)

theorem elem_pqResult (acc : Bool) (m : Memory) (lo m0 : Nat) {g : Nat} (hg : g ≤ 64) (va old : Slot) {j : Nat} (hj : j < 32) :
    elem (pqResult acc g ((pqOffsets g m0 va).map fun o => Memory.byte m (lo + o)) old) 2 j =
      if j < 64 / g then min (accumulated acc old j + groupSum m lo m0 g va j) 0xFFFF else accumulated acc old j := by
  rw [pqResult, elem_accumulate acc old (64 / g) (fun e he => ?_) hj]
  · split
    case isTrue h => rw [foldl_tableBytes m lo m0 va h]
    case isFalse => rfl
  · rw [foldl_tableBytes m lo m0 va he]
    exact groupSum_le m lo m0 hg va e

theorem group_le (group : BitVec 2) : 8 * 2 ^ group.toNat ≤ 64 := by
  revert group
  decide

/-! ### The instructions -/

section

variable {s : State} {c : CoreId} {f : State} (hf : fetched s c 4 = f) {k : Core} (hk : f.core c = k)
include hf hk

theorem skdist_effect {vd va vb : BitVec 4} (h : ready s c 4 [.v va, .v vb, .v vd] = true) (acc : Bool) (width : BitVec 2) :
    ∃ t, exec (.skdist c acc width vd va vb) s = .next t ∧ completed f t c 4
      (k.setV vd (skdistResult acc (skWidth width) (k.vreg va) (k.vreg vb) (k.vreg vd))) := by
  subst hf hk
  rw [exec_skdist]
  exact completed_issueReg h (by cases acc <;> simp) (by simp) _

theorem ftest_effect {rd ra rb : BitVec 5} {vx : BitVec 4} (h : ready s c 4 [.s ra, .s rb, .v vx, .s rd] = true) :
    ∃ t, exec (.ftest c rd ra rb vx) s = .next t ∧ completed f t c 4
      (k.setS rd (filterWord (k.sreg rb).toNat (fun i => (k.sreg ra).toNat &&& elem (k.vreg vx) 8 (2 * i))
        fun i => elem (k.vreg vx) 8 (2 * i + 1))) := by
  subst hf hk
  simp only [exec_ftest, execFtest, filterWord_eq]
  exact completed_issueReg h (by simp) (by simp) _

section

variable {vd va : BitVec 4} {rs : BitVec 5} (h : ready s c 4 [.v va, .s rs, .v vd] = true) (acc : Bool) (group : BitVec 2)
  {g base m0 : Nat} (hg : 8 * 2 ^ group.toNat = g) (hbase : (k.sreg rs).toNat % 2 ^ 32 = base)
  (hm0 : (k.sreg rs).toNat / 2 ^ 32 % 128 = m0)
include h hg hbase hm0

theorem pqsum_effect :
    (base % 256 ≠ 0 → ∃ t, exec (.pqsum c acc group vd va rs) s = .next t ∧
      tookException f t c 4 (some (f.ownView c.cl base))) ∧
    (base % 256 = 0 → inOwnData c.k base ((m0 + g) * 256) = false → ∃ t, exec (.pqsum c acc group vd va rs) s = .next t ∧
      tookException f t c 3 (some (f.ownView c.cl base))) ∧
    (base % 256 = 0 → inOwnData c.k base ((m0 + g) * 256) = true → k.stores = [] → f.flips = [] →
      ∃ t, exec (.pqsum c acc group vd va rs) s = .next t ∧ completed f t c 4 (k.setV vd (pqResult acc g
        ((pqOffsets g m0 (k.vreg va)).map fun o => Memory.byte f.mem (clusterAddr c.cl base + o)) (k.vreg vd)))) := by
  have hlow : bits (k.sreg rs) 31 0 = base := hbase
  have hrow : bits (k.sreg rs) 38 32 = m0 := by
    rw [bits, Nat.shiftRight_eq_div_pow]
    exact hm0
  rw [exec_pqsum, execPqsum, issue_of_ready h (by cases acc <;> simp) (by simp), hf, hk]
  simp only [hlow, hrow, hg]
  refine ⟨fun halign => ?_, fun halign hin => ?_, fun halign hin hstores hflips => ?_⟩
  · rw [if_pos halign]
    exact ⟨_, rfl, tookException_takeException (fun _ => rfl) rfl c _ (by decide)⟩
  · rw [if_neg (not_not_intro halign), hin, Bool.not_false, if_pos rfl]
    exact ⟨_, rfl, tookException_takeException (fun _ => rfl) rfl c _ (by decide)⟩
  · rw [if_neg (not_not_intro halign), hin, Bool.not_true, if_neg Bool.false_ne_true]
    simp only [hstores, List.any_nil, Bool.false_eq_true, if_false, readTable_clean hflips, List.isEmpty_nil, if_true]
    exact perform_go (onlyCore_setCore f c _) 4

end

end

/-- Settles O16: each instruction completes with the result of its unit, and the results are those of R103, R104 and R106. -/
theorem searchUnitResult : Obligations.SearchUnitResult := by
  unfold Obligations.SearchUnitResult
  intro s c f k
  refine ⟨fun acc width vd va vb h => ?_, fun rd ra rb vx h => ftest_effect rfl rfl h, fun acc group vd va rs h => ?_⟩
  · obtain ⟨t, hnext, hcompleted⟩ := skdist_effect rfl rfl h acc width
    rw [← skWidth_eq]
    exact ⟨t, _, hnext, hcompleted, fun e he => elem_skdistResult acc (skWidth_le width) _ _ _ he⟩
  · obtain ⟨hmisaligned, houtside, hsums⟩ := pqsum_effect rfl rfl h acc group rfl rfl rfl
    refine ⟨hmisaligned, houtside, fun halign hin hstores hflips => ?_⟩
    obtain ⟨t, hnext, hcompleted⟩ := hsums halign hin hstores hflips
    exact ⟨t, _, hnext, hcompleted, fun j hj => elem_pqResult acc _ _ _ (group_le group) _ _ hj⟩

end Sys2Proof.Machine

/-! SUPPORT. The candidate queue (04 R107 to R110): insertion keeps it in order and does what R108's steps say, a merge is an insertion
of entry after entry, and CQSTORE buffers its slots one by one. -/

namespace Sys2Proof.Machine

open Sys2Proof Sys2Proof.Claims

/-! ### Insertion in order -/

theorem mem_cqInsert {e y : Word} {q : List Word} : y ∈ cqInsert e q ↔ y = e ∨ y ∈ q := by
  induction q with
  | nil => simp [cqInsert]
  | cons x q ih =>
    unfold cqInsert
    split
    · exact List.mem_cons
    · simp only [List.mem_cons, ih]
      exact or_left_comm

theorem length_cqInsert (e : Word) (q : List Word) : (cqInsert e q).length = q.length + 1 := by
  induction q with
  | nil => rfl
  | cons x q ih =>
    unfold cqInsert
    split
    · rfl
    · rw [List.length_cons, ih, List.length_cons]

/-- The order of a queue: keys ascend, and no two entries have the same node (04 R107). -/
abbrev queueBelow (x y : Word) : Prop := x.toNat < y.toNat ∧ bits x 39 0 ≠ bits y 39 0

theorem pairwise_cqInsert {e : Word} {q : List Word} (hq : q.Pairwise queueBelow) (he : ∀ y ∈ q, bits y 39 0 ≠ bits e 39 0) :
    (cqInsert e q).Pairwise queueBelow := by
  induction q with
  | nil => exact List.pairwise_singleton _ _
  | cons x q ih =>
    obtain ⟨hx, hq⟩ := List.pairwise_cons.mp hq
    obtain ⟨hxe, he⟩ := List.forall_mem_cons.mp he
    unfold cqInsert
    split
    case isTrue hlt =>
      refine List.pairwise_cons.mpr ⟨List.forall_mem_cons.mpr ⟨⟨hlt, Ne.symm hxe⟩, fun y hy => ⟨?_, Ne.symm (he y hy)⟩⟩,
        List.pairwise_cons.mpr ⟨hx, hq⟩⟩
      exact Nat.lt_trans hlt (hx y hy).1
    case isFalse hge =>
      have hne : x.toNat ≠ e.toNat := fun heq => hxe (congrArg (bits · 39 0) (BitVec.eq_of_toNat_eq heq))
      refine List.pairwise_cons.mpr ⟨fun y hy => ?_, ih hq he⟩
      rcases mem_cqInsert.mp hy with rfl | hy
      · exact ⟨by omega, hxe⟩
      · exact hx y hy

/-! ### Queues in order -/

theorem queueOrdered_nodup {q : List Word} (h : queueOrdered q) : q.Nodup :=
  List.Pairwise.imp (S := (· ≠ ·)) (fun hlt heq => Nat.ne_of_lt hlt.1 (congrArg BitVec.toNat heq)) h.1

theorem length_le_of_queueOrdered {q : List Word} (h : queueOrdered q) : q.length ≤ 64 := by
  obtain ⟨-, hlen, -⟩ := h
  exact hlen

/-- Any two different entries of a list stand in a symmetric relation that its pairs have. -/
theorem rel_of_pairwise {R : Word → Word → Prop} (hsymm : ∀ x y, R x y → R y x) {q : List Word} (h : q.Pairwise R) {x y : Word}
    (hx : x ∈ q) (hy : y ∈ q) (hne : x ≠ y) : R x y := by
  induction q with
  | nil => exact absurd hx List.not_mem_nil
  | cons z q ih =>
    obtain ⟨hz, hq⟩ := List.pairwise_cons.mp h
    rcases List.mem_cons.mp hx with rfl | hxq <;> rcases List.mem_cons.mp hy with rfl | hyq
    · exact absurd rfl hne
    · exact hz y hyq
    · exact hsymm _ _ (hz x hxq)
    · exact ih hq hxq hyq

/-- Different entries have different nodes. -/
theorem node_ne_of_ne {q : List Word} (h : queueOrdered q) {x y : Word} (hx : x ∈ q) (hy : y ∈ q) (hne : x ≠ y) :
    bits x 39 0 ≠ bits y 39 0 :=
  rel_of_pairwise (fun _ _ => Ne.symm) (h.1.imp And.right) hx hy hne

theorem queueOrdered_sublist {p q : List Word} (h : queueOrdered q) (hp : p.Sublist q) : queueOrdered p := by
  obtain ⟨hpair, hlen, hnone⟩ := h
  exact ⟨hpair.sublist hp, Nat.le_trans hp.length_le hlen, fun hmem => hnone (hp.subset hmem)⟩

theorem queueOrdered_cqInsert {e : Word} {q : List Word} (h : queueOrdered q) (hroom : q.length < 64) (he : e ≠ cqNone)
    (hnode : ∀ y ∈ q, bits y 39 0 ≠ bits e 39 0) : queueOrdered (cqInsert e q) := by
  obtain ⟨hpair, -, hnone⟩ := h
  refine ⟨pairwise_cqInsert hpair hnode, by rwa [length_cqInsert], fun hmem => ?_⟩
  rcases mem_cqInsert.mp hmem with heq | hmem
  · exact he heq.symm
  · exact hnone hmem

/-! ### CQINS (04 R108) -/

/-- An entry takes the place of one with its node and a greater key. -/
theorem queueOrdered_replace {e x : Word} {q : List Word} (h : queueOrdered q) (he : e ≠ cqNone) (hx : x ∈ q)
    (hnode : bits x 39 0 = bits e 39 0) :
    queueOrdered (cqInsert e (q.erase x)) ∧ ∀ y, y ∈ cqInsert e (q.erase x) ↔ (y ∈ q ∧ y ≠ x) ∨ y = e := by
  have hmem (y : Word) : y ∈ q.erase x ↔ y ≠ x ∧ y ∈ q := (queueOrdered_nodup h).mem_erase_iff
  have hlen : (q.erase x).length < 64 := by
    have := List.length_pos_of_mem hx
    have := length_le_of_queueOrdered h
    rw [List.length_erase_of_mem hx]
    omega
  refine ⟨queueOrdered_cqInsert (queueOrdered_sublist h List.erase_sublist) hlen he fun y hy => ?_, fun y => ?_⟩
  · obtain ⟨hne, hy⟩ := (hmem y).mp hy
    rw [← hnode]
    exact node_ne_of_ne h hy hx hne
  · rw [mem_cqInsert, hmem, or_comm, and_comm]

/-- An entry takes the place of the last one of a full queue. -/
theorem queueOrdered_evict {e m : Word} {q : List Word} (h : queueOrdered q) (he : e ≠ cqNone) (hm : q.getLast? = some m)
    (hnode : ∀ y ∈ q, bits y 39 0 ≠ bits e 39 0) :
    queueOrdered (cqInsert e q.dropLast) ∧ ∀ y, y ∈ cqInsert e q.dropLast ↔ (y ∈ q ∧ y ≠ m) ∨ y = e := by
  obtain ⟨p, rfl⟩ := List.getLast?_eq_some_iff.mp hm
  have hsub : p.Sublist (p ++ [m]) := List.sublist_append_left p [m]
  obtain ⟨-, -, hdisjoint⟩ := List.nodup_append.mp (queueOrdered_nodup h)
  have hlast : m ∉ p := fun hmem => hdisjoint m hmem m (List.mem_singleton_self m) rfl
  have hlen := length_le_of_queueOrdered h
  rw [List.length_append, List.length_singleton] at hlen
  rw [List.dropLast_concat]
  refine ⟨queueOrdered_cqInsert (queueOrdered_sublist h hsub) (by omega) he fun y hy => hnode y (hsub.subset hy), fun y => ?_⟩
  have hkept : y ∈ p ↔ y ∈ p ++ [m] ∧ y ≠ m := by
    rw [List.mem_append, List.mem_singleton]
    refine ⟨fun hy => ⟨.inl hy, fun heq => hlast (heq ▸ hy)⟩, fun ⟨hy, hne⟩ => hy.resolve_right hne⟩
  rw [mem_cqInsert, hkept, or_comm]

/-- CQINS does what its steps say and keeps the queue in order. -/
theorem insertMeans_cqIns {q : List Word} (h : queueOrdered q) (e : Word) :
    insertMeans q e (cqIns q e) ∧ queueOrdered (cqIns q e).1 := by
  unfold insertMeans cqIns cqNone
  by_cases he : e = BitVec.allOnes 64
  · rw [if_pos he, if_pos he]
    exact ⟨rfl, h⟩
  rw [if_neg he, if_neg he]
  cases hfind : q.find? fun x => bits x 39 0 = bits e 39 0 with
  | some x =>
    have hx : x ∈ q := List.mem_of_find?_eq_some hfind
    have hnode : bits x 39 0 = bits e 39 0 := by simpa using List.find?_some hfind
    by_cases hlt : e.toNat < x.toNat
    · simp only [if_pos hlt]
      obtain ⟨hordered, hmem⟩ := queueOrdered_replace h he hx hnode
      exact ⟨⟨trivial, hmem⟩, hordered⟩
    · simp only [if_neg hlt]
      refine ⟨⟨trivial, fun y => ?_⟩, h⟩
      by_cases hy : y = x <;> simp [hy, hx]
  | none =>
    have hnode (y : Word) (hy : y ∈ q) : bits y 39 0 ≠ bits e 39 0 := by simpa using List.find?_eq_none.mp hfind y hy
    by_cases hroom : q.length < 64
    · simp only [if_pos hroom]
      exact ⟨⟨trivial, fun y => mem_cqInsert.trans or_comm⟩, queueOrdered_cqInsert h hroom he hnode⟩
    · simp only [if_neg hroom]
      cases hlast : q.getLast? with
      | none => exact ⟨rfl, h⟩
      | some m =>
        by_cases hlt : e.toNat < m.toNat
        · simp only [if_pos hlt]
          obtain ⟨hordered, hmem⟩ := queueOrdered_evict h he hlast hnode
          exact ⟨⟨trivial, hmem⟩, hordered⟩
        · simp only [if_neg hlt]
          exact ⟨trivial, h⟩

/-- A refused entry leaves the queue as it was. -/
theorem insertMeans_refused {q : List Word} {e : Word} {r : List Word × Nat} (h : insertMeans q e r) (hr : r.2 = 2) : r.1 = q := by
  unfold insertMeans at h
  split at h
  · rw [h]
  · split at h
    · simp [hr] at h
    · split at h
      · simp [hr] at h
      · split at h
        · split at h
          · simp [hr] at h
          · rw [h]
        · rw [h]

/-! ### CQMERGE (04 R109) -/

/-- A merge does what its steps say and keeps the queue in order. -/
theorem mergeMeans_cqMerge {q : List Word} (h : queueOrdered q) (es : List Word) (n : Nat) :
    mergeMeans q es n (cqMerge q es n) ∧ queueOrdered (cqMerge q es n).1 := by
  induction es generalizing q n with
  | nil => exact ⟨rfl, h⟩
  | cons e es ih =>
    obtain ⟨hmeans, hordered⟩ := insertMeans_cqIns h e
    unfold mergeMeans cqMerge
    by_cases h2 : (cqIns q e).2 = 2
    · simp only [if_pos h2]
      refine ⟨⟨_, hmeans, hordered, ?_⟩, h⟩
      rw [if_pos h2, insertMeans_refused hmeans h2]
    · simp only [if_neg h2]
      obtain ⟨hrest, hlast⟩ := ih hordered (if (cqIns q e).2 = 3 then n else n + 1)
      refine ⟨⟨_, hmeans, hordered, ?_⟩, hlast⟩
      rw [if_neg h2]
      exact hrest

/-! ### CQSTORE (04 R110) -/

theorem length_cqSlots (q : List Word) : (cqSlots q).length = 8 := by simp [cqSlots]

/-- The entries of a slot, NONE behind the queue's last. -/
theorem elem_cqSlot (q : List Word) (i : Nat) {e : Nat} (he : e < 8) :
    elem (ofElems 8 fun e => (q.getD (8 * i + e) cqNone).toNat) 8 e = (q.getD (8 * i + e) (BitVec.allOnes 64)).toNat := by
  rw [elem_ofElems _ he]
  exact Nat.mod_eq_of_lt (BitVec.isLt _)

/-- The buffer's entry for slot d.2, of contents d.1, of those that core k stores as its next stores. -/
def slotStore (k : Core) (cycle : Nat) (addr : Nat → Nat) (d : Slot × Nat) : BufStore :=
  { addr := addr d.2, data := d.1, mask := BitVec.allOnes 64, seq := k.memSeq + d.2, after := k.storeFence, issued := cycle
    aged := false }

/-- Core k with stores added to its buffer. -/
def Core.buffered (k : Core) (xs : List BufStore) : Core := { k with stores := k.stores ++ xs, memSeq := k.memSeq + xs.length }

theorem onlyCore_cycle {s t : State} {c : CoreId} {k : Core} (h : onlyCore s t c k) : t.cycle = s.cycle := by
  obtain ⟨-, -, hrest⟩ := h
  rw [← hrest]

/-- Slots buffered after others. -/
theorem onlyCore_pushSlots {s t : State} {c : CoreId} {k : Core} (addr : Nat → Nat) (ds : List Slot) {xs : List BufStore}
    (h : onlyCore s t c (k.buffered xs)) :
    onlyCore s ((ds.zipIdx xs.length).foldl (fun u d => u.pushStore c (addr d.2) d.1 (BitVec.allOnes 64)) t) c
      (k.buffered (xs ++ (ds.zipIdx xs.length).map (slotStore k s.cycle addr))) := by
  induction ds generalizing t xs with
  | nil => simpa using h
  | cons d ds ih =>
    have hcycle : t.cycle = s.cycle := onlyCore_cycle h
    have hpushed : onlyCore s (t.pushStore c (addr xs.length) d (BitVec.allOnes 64)) c
        (k.buffered (xs ++ [slotStore k s.cycle addr (d, xs.length)])) := by
      have hupd := onlyCore_updCore h fun k => { k with
        stores := k.stores ++ [{ addr := addr xs.length, data := d, mask := BitVec.allOnes 64, seq := k.memSeq, after := k.storeFence
                                 issued := t.cycle, aged := false }]
        memSeq := k.memSeq + 1 }
      simpa [Core.buffered, slotStore, State.pushStore, hcycle, Nat.add_assoc] using hupd
    simpa using ih hpushed

/-- A register is no part of the store buffer. -/
theorem Core.setS_buffered (k : Core) (n : BitVec 5) (v : Word) (xs : List BufStore) :
    (k.buffered xs).setS n v = (k.setS n v).buffered xs := by
  unfold Core.setS
  split <;> rfl

theorem Core.setS_eq_sregs (k : Core) (n : BitVec 5) (v : Word) : ∃ m, k.setS n v = { k with sregs := m } := by
  unfold Core.setS
  split
  · exact ⟨k.sregs, rfl⟩
  · exact ⟨_, rfl⟩

/-- An instruction that wrote a register and added stores to the buffer. -/
theorem completed_buffered {s t : State} {c : CoreId} {k : Core} {n : BitVec 5} {v : Word} {xs : List BufStore}
    (h : completed s t c 4 ((k.setS n v).buffered xs)) : onlyCore s t c { k.setS n v with
      stores := k.stores ++ xs, memSeq := k.memSeq + xs.length, pc := k.pc + 4, retired := k.retired + 1 } := by
  obtain ⟨m, hm⟩ := k.setS_eq_sregs n v
  rw [hm] at h ⊢
  exact h

/-- The eight entries that CQSTORE to cluster address a adds to the buffer of core k. -/
def queueStores (k : Core) (cycle : Nat) (cl : Fin 32) (a : Nat) : List BufStore :=
  (cqSlots k.cq).zipIdx.map (slotStore k cycle fun i => clusterAddr cl (a + 64 * i))

theorem length_queueStores (k : Core) (cycle : Nat) (cl : Fin 32) (a : Nat) : (queueStores k cycle cl a).length = 8 := by
  rw [queueStores, List.length_map, List.length_zipIdx, length_cqSlots]

/-- Entry i of them, and the queue's entries in it. -/
theorem getElem?_queueStores {k : Core} {cycle : Nat} {cl : Fin 32} {a i : Nat} {x : BufStore}
    (h : (queueStores k cycle cl a)[i]? = some x) : x.addr = clusterAddr cl (a + 64 * i) ∧ x.seq = k.memSeq + i ∧
      x.mask = BitVec.allOnes 64 ∧ ∀ e, e < 8 → elem x.data 8 e = (k.cq.getD (8 * i + e) (BitVec.allOnes 64)).toNat := by
  have hi : i < 8 := by
    have := (List.getElem?_eq_some_iff.mp h).1
    rwa [length_queueStores] at this
  obtain rfl : slotStore k cycle (fun i => clusterAddr cl (a + 64 * i))
      (ofElems 8 fun e => (k.cq.getD (8 * i + e) cqNone).toNat, i) = x := by
    simpa [queueStores, cqSlots, List.getElem?_range hi] using h
  exact ⟨rfl, rfl, rfl, fun e he => elem_cqSlot k.cq i he⟩

/-! ### The instructions -/

theorem exec_cqmerge (c : CoreId) (rd ra : BitVec 5) (s : State) : exec (.cqmerge c rd ra) s = execCqmerge c rd ra s := rfl

theorem exec_cqstore (c : CoreId) (rd ra : BitVec 5) (s : State) : exec (.cqstore c rd ra) s = execCqstore c rd ra s := rfl

theorem Core.setCq_eq (k : Core) (cycle : Nat) (q : List Word) : k.setCq cycle q = withQueue k cycle q := rfl

section

variable {s : State} {c : CoreId} {rd ra : BitVec 5} {f : State} (hf : fetched s c 4 = f) {k : Core} (hk : f.core c = k)
include hf hk

/-- An instruction that changes the queue in the cycle of its issue. -/
theorem completed_setCq {regs srcs dsts : List Reg} (h : ready s c 4 regs = true) (hsrcs : srcs ⊆ regs) (hdsts : dsts ⊆ regs)
    (q : Core → List Word) (g : Core → Core → Core) :
    ∃ t, s.issueReg c 4 true srcs dsts (fun k => g k (k.setCq s.cycle (q k))) = .next t ∧
      completed f t c 4 (g k (withQueue k f.cycle (q k))) := by
  subst hf hk
  simp only [Core.setCq_eq, ← cycle_fetched h]
  exact completed_issueReg h hsrcs hdsts _

theorem cqins_effect (h : ready s c 4 [.s ra, .s rd] = true) : ∃ t, exec (.cqins c rd ra) s = .next t ∧
    completed f t c 4 ((withQueue k f.cycle (cqIns k.cq (k.sreg ra)).1).setS rd (BitVec.ofNat 64 (cqIns k.cq (k.sreg ra)).2)) :=
  completed_setCq hf hk h (by simp) (by simp) (fun k => (cqIns k.cq (k.sreg ra)).1) fun k k' =>
    k'.setS rd (BitVec.ofNat 64 (cqIns k.cq (k.sreg ra)).2)

theorem cqpop_effect (h : ready s c 4 [.s rd] = true) : ∃ t, exec (.cqpop c rd) s = .next t ∧
    completed f t c 4 ((withQueue k f.cycle k.cq.tail).setS rd (k.cq.headD (BitVec.allOnes 64))) :=
  completed_setCq hf hk h (by simp) (by simp) (fun k => k.cq.tail) fun k k' => k'.setS rd (k.cq.headD cqNone)

theorem cqclr_effect (h : ready s c 4 [] = true) : ∃ t, exec (.cqclr c) s = .next t ∧
    completed f t c 4 (withQueue k f.cycle []) :=
  completed_setCq hf hk h (by simp) (by simp) (fun _ => []) fun _ k' => k'

/-- An instruction that reads the queue into rd. -/
theorem completed_readCq (h : ready s c 4 [.s rd] = true) (v : Core → Word) :
    ∃ t, s.issueReg c 4 true [] [.s rd] (fun k => k.setS rd (v k)) = .next t ∧ completed f t c 4 (k.setS rd (v k)) := by
  subst hf hk
  exact completed_issueReg h (by simp) (by simp) _

theorem cqmerge_effect (h : ready s c 4 [.s ra, .s rd] = true) {n : Fin 128} (hn : n.val = (k.sreg ra).toNat % 128) :
    (n = c.k → ∃ t, exec (.cqmerge c rd ra) s = .next t ∧ completed f t c 4 (k.setS rd 0)) ∧
    (n ≠ c.k → ∃ t, exec (.cqmerge c rd ra) s = .next t ∧
      let r := cqMerge k.cq (queueBefore (f.core ⟨c.cl, n⟩) f.cycle) 0
      completed f t c 4 ((withQueue k f.cycle r.1).setS rd (BitVec.ofNat 64 r.2))) := by
  have hnamed : (⟨bits (k.sreg ra) 6 0 % 128, Nat.mod_lt _ (by decide)⟩ : Fin 128) = n :=
    Fin.ext ((Nat.mod_mod _ _).trans hn.symm)
  rw [exec_cqmerge, execCqmerge, issue_of_ready h (by simp) (by simp), hf, hk]
  simp only [hnamed]
  refine ⟨fun hself => ?_, fun hother => ?_⟩
  · rw [if_pos hself]
    exact perform_go (onlyCore_setCore f c _) 4
  · rw [if_neg hother]
    exact perform_go (onlyCore_setCore f c _) 4

theorem cqstore_effect (h : ready s c 4 [.s ra, .s rd] = true) {a : Nat} (ha : (k.sreg ra).toNat = a) (hlow : a < 2 ^ 32)
    (hrange : (rangeMem a 512).isSome = true) (halign : a % 64 = 0) (himem : touchesImem a 512 = false) :
    (k.stores.length ≤ 8 → k.fullFenced = false → ∃ t, exec (.cqstore c rd ra) s = .next t ∧ completed f t c 4
      ((k.setS rd (BitVec.ofNat 64 k.cq.length)).buffered (queueStores k f.cycle c.cl a))) ∧
    (8 < k.stores.length ∨ k.fullFenced = true → exec (.cqstore c rd ra) s = .next f) := by
  have hmapped : ¬ (a ≥ 2 ^ 32 || (rangeMem a 512).isNone) = true := by
    simpa [Option.isNone_eq_false_iff.mpr hrange] using hlow
  rw [exec_cqstore, execCqstore, issue_of_ready h (by simp) (by simp), hf, hk]
  simp only [ha, if_neg hmapped, if_neg (not_not_intro halign), himem, Bool.false_eq_true, if_false]
  refine ⟨fun hroom hfence => ?_, fun hwait => ?_⟩
  · have hopen : ¬ (k.stores.length + 8 > 16 || k.fullFenced) = true := by simpa [hfence] using hroom
    rw [if_neg hopen, ← Core.setS_buffered]
    have hsame : onlyCore f f c (k.buffered []) := by
      simpa [Core.buffered, hk] using onlyCore_refl f c
    exact perform_go (onlyCore_updCore (onlyCore_pushSlots (fun i => clusterAddr c.cl (a + 64 * i)) (cqSlots k.cq) hsame) _) 4
  · have hclosed : (k.stores.length + 8 > 16 || k.fullFenced) = true := by
      rw [Bool.or_eq_true, decide_eq_true_iff]
      exact hwait.imp_left fun hfull => by omega
    rw [if_pos hclosed]
    rfl

end

/-- Settles O17: insertion and merge do what R108 and R109 say of their steps, and the rest reads, clears or buffers the queue. -/
theorem candidateQueues : Obligations.CandidateQueues := by
  unfold Obligations.CandidateQueues
  intro s c rd ra f k
  refine ⟨fun h hq => ?_, fun h => ⟨cqpop_effect rfl rfl h, completed_readCq rfl rfl h fun k => k.cq.headD cqNone,
    completed_readCq rfl rfl h fun k => k.cq.getLastD cqNone,
    completed_readCq rfl rfl h fun k => if k.cq.length = 64 then k.cq.getLastD cqNone else cqNone,
    completed_readCq rfl rfl h fun k => BitVec.ofNat 64 k.cq.length⟩, cqclr_effect rfl rfl, fun h n hn => ?_,
    fun h hlow hrange halign himem => ?_⟩
  · obtain ⟨t, hnext, hcompleted⟩ := cqins_effect rfl rfl h
    obtain ⟨hmeans, hordered⟩ := insertMeans_cqIns hq (k.sreg ra)
    exact ⟨t, _, hnext, hmeans, hordered, hcompleted⟩
  · obtain ⟨hself, hother⟩ := cqmerge_effect rfl rfl h hn
    refine ⟨hself, fun hne hq _ => ?_⟩
    obtain ⟨t, hnext, hcompleted⟩ := hother hne
    obtain ⟨hmeans, hordered⟩ := mergeMeans_cqMerge hq (queueBefore (f.core ⟨c.cl, n⟩) f.cycle) 0
    exact ⟨t, _, hnext, hmeans, hordered, hcompleted⟩
  · obtain ⟨hstored, hwaits⟩ := cqstore_effect rfl rfl h rfl hlow hrange halign himem
    refine ⟨fun hroom hfence => ?_, hwaits⟩
    obtain ⟨t, hnext, hcompleted⟩ := hstored hroom hfence
    exact ⟨t, _, hnext, length_queueStores k f.cycle c.cl _, completed_buffered hcompleted, fun i x => getElem?_queueStores⟩

end Sys2Proof.Machine

/-! SUPPORT. The deque instructions (02 R52 to R56, Table 2-7; 04 R119, R120, Table 4-10): what a steal of the same cycle means to the
owner, whom a steal takes from, and what the instructions come to. -/

namespace Sys2Proof.Machine

open Sys2Proof Sys2Proof.Claims

/-! ### Steals of the present cycle (02 R55, Table 2-7) -/

theorem Core.stoleNow_eq_some {k : Core} {cycle : Nat} {u : Stolen} :
    k.stoleNow cycle = some u ↔ k.stole = some u ∧ u.cycle = cycle := by
  unfold Core.stoleNow
  cases k.stole with
  | none => simp
  | some v =>
    simp only [Option.ite_none_right_eq_some, Option.some.injEq]
    exact ⟨fun ⟨hcycle, heq⟩ => ⟨heq, heq ▸ hcycle⟩, fun ⟨heq, hcycle⟩ => ⟨heq ▸ hcycle, heq⟩⟩

/-- Steal u took an entry from the deque of core k in a cycle. -/
abbrev tookEntry (k : Core) (cycle : Nat) (u : Stolen) : Prop := k.stole = some u ∧ u.cycle = cycle ∧ u.word ≠ 0

theorem Core.stolenNow_iff {k : Core} {cycle : Nat} : k.stolenNow cycle = true ↔ ∃ u, tookEntry k cycle u := by
  unfold Core.stolenNow tookEntry
  simp only [← and_assoc, ← Core.stoleNow_eq_some]
  cases k.stoleNow cycle <;> simp

/-- A push finds no room: the deque is full, or a steal of this cycle made the room (02 Table 2-7). -/
theorem Core.pushRefused_iff {k : Core} {cycle : Nat} : k.deque.length + (if k.stolenNow cycle then 1 else 0) ≥ 64 ↔
    64 ≤ k.deque.length ∨ (63 ≤ k.deque.length ∧ ∃ u, tookEntry k cycle u) := by
  rw [← Core.stolenNow_iff]
  cases k.stolenNow cycle with
  | true =>
    simp only [if_true, and_true]
    omega
  | false => simp

theorem noSteal_iff {k : Core} {cycle : Nat} : noSteal k cycle ↔ k.stoleNow cycle = none := by
  simp only [noSteal, Option.eq_none_iff_forall_ne_some, ne_eq, Core.stoleNow_eq_some, not_and]

/-- The steal that took the deque's only entry in this cycle and has not returned. -/
theorem State.lostSteal_eq_some {s : State} {c : CoreId} {u : Stolen} : s.lostSteal c = some u ↔
    tookEntry (s.core c) s.cycle u ∧ (s.core c).deque = [] ∧
      ∃ l ∈ (s.core ⟨c.cl, u.thief⟩).loads, l.kind.isSteal = true ∧ l.seq = u.seq := by
  have htaken : tookEntry (s.core c) s.cycle u ↔ (s.core c).stoleNow s.cycle = some u ∧ u.word ≠ 0 := by
    rw [Core.stoleNow_eq_some, and_assoc]
  rw [htaken]
  cases hnow : (s.core c).stoleNow s.cycle with
  | none => simp [State.lostSteal, hnow]
  | some v =>
    simp only [State.lostSteal, hnow, Option.ite_none_right_eq_some, Option.some.injEq, Bool.and_eq_true, List.isEmpty_iff,
      bne_iff_ne, List.any_eq_true, beq_iff_eq]
    constructor
    · rintro ⟨⟨⟨hempty, hword⟩, hload⟩, rfl⟩
      exact ⟨⟨rfl, hword⟩, hempty, hload⟩
    · rintro ⟨⟨rfl, hword⟩, hempty, hload⟩
      exact ⟨⟨⟨hempty, hword⟩, hload⟩, rfl⟩

/-! ### The deque a steal takes from (02 R53, R56) -/

theorem State.occupied_iff {s : State} {cl : Fin 32} {n : Fin 128} : s.occupied cl n = true ↔ 0 < (s.core ⟨cl, n⟩).visible :=
  decide_eq_true_iff

theorem State.not_occupied {s : State} {cl : Fin 32} {n : Fin 128} (h : (s.core ⟨cl, n⟩).visible = 0) : s.occupied cl n = false :=
  decide_eq_false (by omega)

/-- Core i of those behind the thief. -/
def behind (thief : Fin 128) (i : Nat) : Fin 128 := ⟨(thief.val + 1 + i) % 128, Nat.mod_lt _ (by decide)⟩

theorem stealOrder_eq (thief : Fin 128) : stealOrder thief = (List.range 127).map (behind thief) := rfl

/-- The place of core n in the order of a steal of kind "any". -/
abbrev stealPlace (thief n : Fin 128) : Nat := (n.val + 127 - thief.val) % 128

theorem stealPlace_lt {thief n : Fin 128} (hn : n ≠ thief) : stealPlace thief n < 127 := by
  have hne : n.val ≠ thief.val := fun heq => hn (Fin.ext heq)
  have := n.isLt
  have := thief.isLt
  unfold stealPlace
  omega

theorem behind_stealPlace (thief n : Fin 128) : behind thief (stealPlace thief n) = n := by
  have := n.isLt
  have := thief.isLt
  apply Fin.ext
  simp only [behind, stealPlace]
  omega

theorem stealPlace_behind (thief : Fin 128) {i : Nat} (hi : i < 127) :
    behind thief i ≠ thief ∧ stealPlace thief (behind thief i) = i := by
  have := thief.isLt
  constructor
  · intro heq
    have := congrArg Fin.val heq
    simp only [behind] at this
    omega
  · simp only [behind, stealPlace]
    omega

/-- The first core behind the thief with a visible entry. -/
theorem State.victimOf_any {s : State} {cl : Fin 32} {thief n : Fin 128} (hn : n ≠ thief) (hvisible : 0 < (s.core ⟨cl, n⟩).visible)
    (hfirst : ∀ m : Fin 128, m ≠ thief → stealPlace thief m < stealPlace thief n → (s.core ⟨cl, m⟩).visible = 0) :
    s.victimOf cl thief none = some n := by
  have hfind : (List.range 127).find? ((fun m => s.occupied cl m) ∘ behind thief) = some (stealPlace thief n) := by
    refine List.find?_range_eq_some.mpr ⟨?_, List.mem_range.mpr (stealPlace_lt hn), fun j hj => ?_⟩
    · rw [Function.comp_apply, behind_stealPlace]
      exact State.occupied_iff.mpr hvisible
    · obtain ⟨hother, hplace⟩ := stealPlace_behind thief (Nat.lt_trans hj (stealPlace_lt hn))
      rw [Function.comp_apply, State.not_occupied (hfirst _ hother (by rwa [hplace]))]
      rfl
  simp only [State.victimOf, stealOrder_eq, List.find?_map, hfind, Option.map_some, behind_stealPlace]

theorem State.victimOf_any_none {s : State} {cl : Fin 32} {thief : Fin 128}
    (h : ∀ n : Fin 128, n ≠ thief → (s.core ⟨cl, n⟩).visible = 0) : s.victimOf cl thief none = none := by
  simp only [State.victimOf, stealOrder_eq]
  rw [List.find?_eq_none]
  rintro m hm
  obtain ⟨i, hi, rfl⟩ := List.mem_map.mp hm
  simp [State.not_occupied (h _ (stealPlace_behind thief (List.mem_range.mp hi)).1)]

/-- The deque that a steal's operand names, none for "any" (04 R120). -/
def stealNamed (a : Word) : Option (Fin 128) := if bit a 7 then none else some ⟨bits a 6 0 % 128, Nat.mod_lt _ (by decide)⟩

theorem stealNamed_any {a : Word} (h : a.getLsbD 7 = true) : stealNamed a = none := if_pos h

theorem stealNamed_core {a : Word} (h : a.getLsbD 7 = false) {n : Fin 128} (hn : n.val = a.toNat % 128) : stealNamed a = some n := by
  have hany : ¬ bit a 7 = true := Bool.not_eq_true _ ▸ h
  rw [stealNamed, if_neg hany]
  exact congrArg some (Fin.ext ((Nat.mod_mod _ _).trans hn.symm))

/-- Core c's steal with operand a leads to core n: it names it, or n is the first core behind the thief with a visible entry. -/
abbrev stealReaches (f : State) (c : CoreId) (a : Word) (n : Fin 128) : Prop :=
  (a.getLsbD 7 = false ∧ n.val = a.toNat % 128) ∨ (a.getLsbD 7 = true ∧ n ≠ c.k ∧ 0 < (f.core ⟨c.cl, n⟩).visible ∧
    ∀ m : Fin 128, m ≠ c.k → stealPlace c.k m < stealPlace c.k n → (f.core ⟨c.cl, m⟩).visible = 0)

theorem victimOf_of_stealReaches {f : State} {c : CoreId} {a : Word} {n : Fin 128} (h : stealReaches f c a n) :
    f.victimOf c.cl c.k (stealNamed a) = some n ∧ stealNamed a = if a.getLsbD 7 then none else some n := by
  rcases h with ⟨hnamed, hn⟩ | ⟨hany, hn, hvisible, hfirst⟩
  · rw [stealNamed_core hnamed hn, hnamed]
    exact ⟨rfl, rfl⟩
  · rw [stealNamed_any hany, hany]
    exact ⟨State.victimOf_any hn hvisible hfirst, rfl⟩

/-! ### Service (02 R52, R55) -/

theorem State.stealOpen_iff {s : State} {cl : Fin 32} {thief n : Fin 128} : s.stealOpen cl thief (some n) = true ↔
    noSteal (s.core ⟨cl, n⟩) s.cycle ∧ (s.core ⟨cl, n⟩).nextThief (thief :: s.thievesOf cl n) = some thief := by
  simp [State.stealOpen, noSteal_iff]

theorem State.serveSteal_some (s : State) (cl : Fin 32) (thief n : Fin 128) (seq : Nat) : s.serveSteal cl thief seq (some n) =
    (s.setCore ⟨cl, n⟩ (stolen (s.core ⟨cl, n⟩) s.cycle thief seq).1, (stolen (s.core ⟨cl, n⟩) s.cycle thief seq).2) := by
  unfold stolen State.serveSteal
  by_cases hvisible : 0 < (s.core ⟨cl, n⟩).visible
  · have hentry : (s.core ⟨cl, n⟩).deque ≠ [] := fun hempty => by simp [Core.visible, hempty] at hvisible
    rw [if_pos ⟨hentry, hvisible⟩]
    simp only [gt_iff_lt, if_pos hvisible]
  · rw [if_neg fun hboth => hvisible hboth.2]
    simp only [gt_iff_lt, if_neg hvisible]

theorem State.perform_issued (s t : State) (c : CoreId) (n : Nat) : s.perform c n (.issued t) = .next (t.advance c n) := rfl

theorem loadIssued_pushLoad (s : State) (c : CoreId) (kind : LoadKind) (m v : Nat) :
    loadIssued s ((s.pushLoad c kind m v).advance c 4) c kind m v :=
  onlyCore_updCore (onlyCore_updCore (onlyCore_refl s c) _) _

theorem onlyCluster_updCluster (s : State) (cl : Fin 32) (g : Cluster → Cluster) :
    onlyCluster s (s.updCluster cl g) cl (g (s.cluster cl)) :=
  ⟨s.cluster_updCluster_same cl g, fun d hd => s.cluster_updCluster_other cl d g hd, rfl⟩

theorem State.advance_updCluster (s : State) (cl : Fin 32) (g : Cluster → Cluster) (c : CoreId) (n : Nat) :
    (s.updCluster cl g).advance c n = (s.advance c n).updCluster cl g := rfl

/-! ### The occupancy map (04 Table 4-10) -/

/-- A word whose bits are summed one by one. -/
theorem getLsbD_sumOfBits (p : Nat → Bool) {i : Nat} (hi : i < 64) :
    (BitVec.ofNat 64 ((List.range 64).foldl (fun x i => if p i then x + 2 ^ i else x) 0)).getLsbD i = p i := by
  have hsum : (fun (x i : Nat) => if p i then x + 2 ^ i else x) = fun x i => x + (p i).toNat * 2 ^ i := by
    funext x i
    cases p i <;> simp
  have hdigit : fromDigits 2 (fun i => (p i).toNat) 64 / 2 ^ i % 2 = (p i).toNat := digit_fromDigits (fun i => Bool.toNat_lt (p i)) hi
  rw [hsum, BitVec.getLsbD_ofNat, decide_eq_true hi, Bool.true_and, Nat.testBit_eq_decide_div_mod_eq, ← fromDigits, hdigit]
  cases p i <;> rfl

/-! ### The instructions -/

theorem exec_dqpush (c : CoreId) (rd ra : BitVec 5) (s : State) : exec (.dqpush c rd ra) s = execDqpush c rd ra s := rfl

theorem exec_dqpop (c : CoreId) (rd : BitVec 5) (s : State) : exec (.dqpop c rd) s = execDqpop c rd s := rfl

theorem exec_dqcnt (c : CoreId) (rd : BitVec 5) (s : State) : exec (.dqcnt c rd) s = execDqcnt c rd s := rfl

theorem exec_dqocc (c : CoreId) (rd ra : BitVec 5) (s : State) : exec (.dqocc c rd ra) s = execDqocc c rd ra s := rfl

theorem exec_dqsteal (c : CoreId) (rd ra : BitVec 5) (s : State) : exec (.dqsteal c rd ra) s = execDqsteal c rd ra s := rfl

section

variable {s : State} {c : CoreId} {rd ra : BitVec 5} {f : State} (hf : fetched s c 4 = f) {k : Core} (hk : f.core c = k)
include hf hk

theorem dqpush_effect (h : ready s c 4 [.s ra, .s rd] = true) :
    (k.sreg ra = 0 → ∃ t, exec (.dqpush c rd ra) s = .next t ∧ completed f t c 4 (k.setS rd 2)) ∧
    (k.sreg ra ≠ 0 → 64 ≤ k.deque.length ∨ (63 ≤ k.deque.length ∧ ∃ u, tookEntry k f.cycle u) →
      ∃ t, exec (.dqpush c rd ra) s = .next t ∧ completed f t c 4 (k.setS rd 1)) ∧
    (k.sreg ra ≠ 0 → k.deque.length < 64 → (k.deque.length < 63 ∨ ∀ u, ¬ tookEntry k f.cycle u) →
      ∃ t, exec (.dqpush c rd ra) s = .next t ∧
        completed f t c 4 ({ k with deque := k.deque ++ [k.sreg ra] }.setS rd 0)) := by
  have hcycle : s.cycle = f.cycle := hf ▸ (cycle_fetched h).symm
  rw [exec_dqpush, execDqpush, State.issueReg, issue_of_ready h (by simp) (by simp), hf, hk, hcycle]
  refine ⟨fun hzero => ?_, fun hword hfull => ?_, fun hword hlen hroom => ?_⟩
  · simp only [if_pos hzero]
    exact perform_go (onlyCore_setCore f c _) 4
  · simp only [if_neg hword, if_pos (Core.pushRefused_iff.mpr hfull)]
    exact perform_go (onlyCore_setCore f c _) 4
  · have hfits : ¬ (64 ≤ k.deque.length ∨ (63 ≤ k.deque.length ∧ ∃ u, tookEntry k f.cycle u)) := by
      rintro (hge | ⟨hge, u, hu⟩)
      · omega
      · exact hroom.elim (Nat.not_lt.mpr hge) fun hnone => hnone u hu
    simp only [if_neg hword, if_neg (mt Core.pushRefused_iff.mp hfits)]
    exact perform_go (onlyCore_setCore f c _) 4

theorem dqpop_effect (h : ready s c 4 [.s rd] = true) :
    (f.lostSteal c = none → ∃ t, exec (.dqpop c rd) s = .next t ∧ completed f t c 4
      ({ k with deque := k.deque.dropLast, dqVisible := min k.dqVisible (k.deque.length - 1) }.setS rd (k.deque.getLastD 0))) ∧
    ∀ u, f.lostSteal c = some u → ∃ t, exec (.dqpop c rd) s = .next t ∧
      let w := f.updCore ⟨c.cl, u.thief⟩ fun q => q.stealServed u.seq f.cycle 0
      completed w t c 4 ({ w.core c with stole := some { u with word := 0 } }.setS rd u.word) := by
  rw [exec_dqpop, execDqpop, issue_of_ready h (by simp) (by simp), hf, hk]
  refine ⟨fun hkept => ?_, fun u hlost => ?_⟩
  · simp only [hkept, List.length_dropLast]
    exact perform_go (onlyCore_setCore f c _) 4
  · simp only [hlost]
    exact perform_go (s := f.updCore _ _) (onlyCore_updCore (onlyCore_updCore (onlyCore_refl _ c) _) _) 4

theorem dqcnt_effect (h : ready s c 4 [.s rd] = true) :
    ∃ t, exec (.dqcnt c rd) s = .next t ∧ completed f t c 4 (k.setS rd (BitVec.ofNat 64 k.deque.length)) := by
  subst hf hk
  rw [exec_dqcnt]
  exact completed_issueReg h (by simp) (by simp) _

theorem dqocc_effect (h : ready s c 4 [.s ra, .s rd] = true) :
    ∃ t v, exec (.dqocc c rd ra) s = .next t ∧ completed f t c 4 (k.setS rd v) ∧ ∀ i, i < 64 → v.getLsbD i =
      f.occupied c.cl ⟨((if (k.sreg ra).getLsbD 0 then 64 else 0) + i) % 128, Nat.mod_lt _ (by decide)⟩ := by
  rw [exec_dqocc, execDqocc, issue_of_ready h (by simp) (by simp), hf, hk]
  obtain ⟨t, hnext, hcompleted⟩ := perform_go (onlyCore_setCore f c _) 4
  exact ⟨t, _, hnext, hcompleted, fun i hi => getLsbD_sumOfBits
    (fun i => f.occupied c.cl ⟨((if (k.sreg ra).getLsbD 0 then 64 else 0) + i) % 128, Nat.mod_lt _ (by decide)⟩) hi⟩

theorem dqsteal_effect (h : ready s c 4 [.s ra, .s rd] = true) (hroom : k.loads.length < 8) {v : Option (Fin 128)}
    (hv : f.victimOf c.cl c.k (stealNamed (k.sreg ra)) = v) :
    (f.stealOpen c.cl c.k v = true → ∃ t, exec (.dqsteal c rd ra) s = .next t ∧
      let r := f.serveSteal c.cl c.k k.memSeq v
      loadIssued r.1 t c (.steal rd (some (r.2, f.cycle))) 0 0) ∧
    (f.stealOpen c.cl c.k v = false → ∃ t u, exec (.dqsteal c rd ra) s = .next t ∧ loadIssued f u c (.steal rd none) 0 0 ∧
      onlyCluster u t c.cl { u.cluster c.cl with
        heldSteals := (u.cluster c.cl).heldSteals ++ [{ thief := c.k, rd := rd, victim := stealNamed (k.sreg ra) }] }) := by
  unfold stealNamed at hv ⊢
  rw [exec_dqsteal, execDqsteal, issue_of_ready h (by simp) (by simp), hf, hk]
  simp only [if_neg (Nat.not_le.mpr hroom), hv]
  refine ⟨fun hopen => ?_, fun hclosed => ?_⟩
  · rw [if_pos hopen, State.perform_issued]
    exact ⟨_, rfl, loadIssued_pushLoad _ _ _ _ _⟩
  · rw [hclosed, if_neg Bool.false_ne_true, State.perform_issued, State.advance_updCluster]
    exact ⟨_, _, rfl, loadIssued_pushLoad _ _ _ _ _, onlyCluster_updCluster _ _ _⟩

/-- The steal that finds a core's turn is served, any other is held. -/
theorem dqsteal_from (h : ready s c 4 [.s ra, .s rd] = true) (hroom : k.loads.length < 8) {n : Fin 128}
    (htarget : stealReaches f c (k.sreg ra) n) :
    let r := stolen (f.core ⟨c.cl, n⟩) f.cycle c.k k.memSeq
    (noSteal (f.core ⟨c.cl, n⟩) f.cycle → (f.core ⟨c.cl, n⟩).nextThief (c.k :: f.thievesOf c.cl n) = some c.k →
      ∃ t, exec (.dqsteal c rd ra) s = .next t ∧
        loadIssued (f.setCore ⟨c.cl, n⟩ r.1) t c (.steal rd (some (r.2, f.cycle))) 0 0) ∧
    (¬ noSteal (f.core ⟨c.cl, n⟩) f.cycle ∨ (f.core ⟨c.cl, n⟩).nextThief (c.k :: f.thievesOf c.cl n) ≠ some c.k →
      ∃ t u, exec (.dqsteal c rd ra) s = .next t ∧ loadIssued f u c (.steal rd none) 0 0 ∧
        onlyCluster u t c.cl { u.cluster c.cl with heldSteals := (u.cluster c.cl).heldSteals ++
          [{ thief := c.k, rd := rd, victim := if (k.sreg ra).getLsbD 7 then none else some n }] }) := by
  obtain ⟨hvictim, hnamed⟩ := victimOf_of_stealReaches htarget
  obtain ⟨hserved, hheld⟩ := dqsteal_effect hf hk h hroom hvictim
  refine ⟨fun hfree hturn => ?_, fun hbusy => ?_⟩
  · obtain ⟨t, hnext, hissued⟩ := hserved (State.stealOpen_iff.mpr ⟨hfree, hturn⟩)
    rw [State.serveSteal_some] at hissued
    exact ⟨t, hnext, hissued⟩
  · rw [← hnamed]
    refine hheld (Bool.eq_false_iff.mpr fun hopen => ?_)
    obtain ⟨hfree, hturn⟩ := State.stealOpen_iff.mp hopen
    exact hbusy.elim (fun hno => hno hfree) fun hno => hno hturn

/-- A steal of kind "any" that finds no entry returns 0. -/
theorem dqsteal_nothing (h : ready s c 4 [.s ra, .s rd] = true) (hroom : k.loads.length < 8) (hany : (k.sreg ra).getLsbD 7 = true)
    (hnone : ∀ n : Fin 128, n ≠ c.k → (f.core ⟨c.cl, n⟩).visible = 0) :
    ∃ t, exec (.dqsteal c rd ra) s = .next t ∧ loadIssued f t c (.steal rd (some (0, f.cycle))) 0 0 := by
  have hvictim : f.victimOf c.cl c.k (stealNamed (k.sreg ra)) = none := by
    rw [stealNamed_any hany]
    exact State.victimOf_any_none hnone
  obtain ⟨hserved, -⟩ := dqsteal_effect hf hk h hroom hvictim
  exact hserved rfl

end

/-- Settles O20: the clauses follow the instructions, each by what the steals of the cycle leave to it. -/
theorem dequeOperations : Obligations.DequeOperations := by
  unfold Obligations.DequeOperations
  intro s c rd ra f k taken lost
  refine ⟨dqpush_effect rfl rfl, fun h => ⟨fun hkept => ?_, fun u hlost => ?_, dqcnt_effect rfl rfl h⟩, fun h => ?_,
    fun n h hroom => dqsteal_from rfl rfl h hroom, dqsteal_nothing rfl rfl⟩
  · obtain ⟨hkeeps, -⟩ := dqpop_effect rfl rfl h
    exact hkeeps (Option.eq_none_iff_forall_ne_some.mpr fun u hu => hkept u (State.lostSteal_eq_some.mp hu))
  · obtain ⟨-, hloses⟩ := dqpop_effect rfl rfl h
    exact hloses u (State.lostSteal_eq_some.mpr hlost)
  · obtain ⟨t, v, hnext, hcompleted, hbits⟩ := dqocc_effect rfl rfl h
    refine ⟨t, v, hnext, hcompleted, fun i => (hbits i i.isLt).trans ?_⟩
    exact congrArg (f.occupied c.cl) (Fin.ext (Nat.mod_eq_of_lt (by split <;> omega)))

end Sys2Proof.Machine
